-- ==== Sys2Proof/Word.lean ====
section
/-! DEFINITION. The words of the PX-7680 and their plainest arithmetic (spec 00_scope R2: bit 0 is the least
significant bit, memory is little-endian). -/

namespace Sys2Proof

/-- A 64-bit register or address. -/
abbrev Word := BitVec 64
/-- One 32-bit lane of a bundle (R16). -/
abbrev LaneWord := BitVec 32
/-- One byte of memory. -/
abbrev Byte := BitVec 8

/-- The low 32 bits of a register, sign-extended: the 32-bit form's result (R30). -/
def sext32 (v : Word) : Word := (v.setWidth 32).signExtend 64

/-- Bits hi down to lo of a value, as a number (R2). -/
def bits {n : Nat} (v : BitVec n) (hi lo : Nat) : Nat := (v.toNat / 2 ^ lo) % 2 ^ (hi + 1 - lo)

/-- One bit of a value. -/
def bit {n : Nat} (v : BitVec n) (i : Nat) : Bool := v.getLsbD i

/-- A Bool as one bit. -/
def b1 (b : Bool) : BitVec 1 := if b then 1 else 0

end Sys2Proof
end

