-- ==== Sys2Proof/Machine/Map.lean ====
section
/-! DEFINITION. Sparse data in one canonical form: lists of keys and values, keys strictly rising, no entry equal to
what an unlisted key reads as. Register files, marks and memories are held in it. -/

namespace Sys2Proof.Machine

/-- A map from numbers, listed in canonical form. -/
abbrev SMap (α : Type) := List (Nat × α)

/-- The value at a key; an unlisted key reads as `dflt`. -/
def mget {α : Type} (dflt : α) (m : SMap α) (k : Nat) : α :=
  match m.find? (fun e => e.1 == k) with
  | some e => e.2
  | none => dflt

/-- Write a value at a key; writing the default removes the entry. -/
def mset {α : Type} [DecidableEq α] (dflt : α) (m : SMap α) (k : Nat) (v : α) : SMap α :=
  m.filter (fun e => e.1 < k) ++ ((if v = dflt then [] else [(k, v)]) ++ m.filter (fun e => k < e.1))

/-- Remove the keys from lo up to and not including hi. -/
def mclear {α : Type} (m : SMap α) (lo hi : Nat) : SMap α :=
  m.filter (fun e => e.1 < lo) ++ m.filter (fun e => hi ≤ e.1)

/-- The canonical form: keys strictly rising, no default value listed. -/
def mwf {α : Type} [DecidableEq α] (dflt : α) (m : SMap α) : Prop :=
  m.Pairwise (fun a b => a.1 < b.1) ∧ ∀ e ∈ m, e.2 ≠ dflt

/-- Bytes by address. An unlisted address reads as 0: an unwritten sector reads as 64 zero bytes (R77), and the bytes
of a core's window are 0 until written (log entry 6). -/
abbrev Memory := List Host.Cell

/-- The byte at an address. -/
def Memory.read (m : Memory) (a : Nat) : Byte := mget 0 m a

/-- Consecutive bytes from an address as listed cells, zero bytes left out. -/
def cellsFrom : Nat → List Byte → Memory
  | _, [] => []
  | a, b :: bs => if b = 0 then cellsFrom (a + 1) bs else (a, b) :: cellsFrom (a + 1) bs

/-- Write consecutive bytes from an address. -/
def Memory.write (m : Memory) (a : Nat) (bs : List Byte) : Memory :=
  m.filter (fun e => e.1 < a) ++ (cellsFrom a bs ++ m.filter (fun e => a + bs.length ≤ e.1))

/-- Consecutive bytes from an address. -/
def Memory.readN (m : Memory) (a n : Nat) : List Byte := (List.range n).map (fun i => m.read (a + i))

/-- The canonical form of a memory: addresses strictly rising, no zero byte listed. -/
abbrev Memory.wf (m : Memory) : Prop := (m.Pairwise (fun a b => a.1 < b.1)) ∧ ∀ e ∈ m, e.2 ≠ 0

/-- Little-endian value of bytes (R2). -/
def leNat : List Byte → Nat
  | [] => 0
  | b :: bs => b.toNat + 256 * leNat bs

/-- The n low bytes of a number, little-endian (R2). -/
def leBytes : Nat → Nat → List Byte
  | 0, _ => []
  | n + 1, v => BitVec.ofNat 8 v :: leBytes n (v / 256)

end Sys2Proof.Machine
end

