-- ==== Sys2Proof/Machine/Float.lean ====
section
/-! DEFINITION. The number formats and their arithmetic (spec 04_numbers R55 to R74): decoding to exact values, one
rounding, the float operations with their flags, conversions, microscaling blocks and the special functions. -/

namespace Sys2Proof.Machine

/-! ### Formats and exact values (R56, R58, R59) -/

/-- What a format has beyond finite values (Table 4.1): infinities and NaN; the single E4M3 NaN; neither. -/
inductive FmtKind where
  | ieee | fn | mx
deriving DecidableEq, Repr

/-- A floating-point format: exponent bits, significand bits, bias, kind (Table 4.1). -/
structure Fmt where
  eb : Nat
  mb : Nat
  bias : Nat
  kind : FmtKind
deriving DecidableEq, Repr

def fp32 : Fmt := ⟨8, 23, 127, .ieee⟩
def fp16 : Fmt := ⟨5, 10, 15, .ieee⟩
def bf16 : Fmt := ⟨8, 7, 127, .ieee⟩
def e4m3 : Fmt := ⟨4, 3, 7, .fn⟩
def e5m2 : Fmt := ⟨5, 2, 15, .ieee⟩
def e2m1 : Fmt := ⟨2, 1, 1, .mx⟩
def e2m3 : Fmt := ⟨2, 3, 1, .mx⟩
def e3m2 : Fmt := ⟨3, 2, 3, .mx⟩

/-- Bits of a format. -/
def Fmt.width (f : Fmt) : Nat := 1 + f.eb + f.mb
/-- The sign bit of a format, set. -/
def Fmt.sign (f : Fmt) (neg : Bool) : Nat := if neg then 2 ^ (f.eb + f.mb) else 0
/-- The pattern of the largest finite value (Table 4.1). -/
def Fmt.maxFinite (f : Fmt) : Nat :=
  match f.kind with
  | .ieee => (2 ^ f.eb - 1) * 2 ^ f.mb - 1
  | .fn => 2 ^ (f.eb + f.mb) - 2
  | .mx => 2 ^ (f.eb + f.mb) - 1
/-- The default NaN (Table 4.2). -/
def Fmt.defaultNaN (f : Fmt) : Nat :=
  match f.kind with
  | .ieee => (2 ^ f.eb - 1) * 2 ^ f.mb + 2 ^ (f.mb - 1)
  | _ => 2 ^ (f.eb + f.mb) - 1

/-- The value of a pattern: NaN with sign, quiet bit and payload; infinity; (−1)^neg × m × 2^e, m = 0 a signed zero. -/
inductive Num where
  | nan (neg quiet : Bool) (payload : Nat)
  | inf (neg : Bool)
  | fin (neg : Bool) (m : Nat) (e : Int)
deriving DecidableEq, Repr

/-- The value of a pattern of a format (R56, R59). -/
def Fmt.decode (f : Fmt) (v : Nat) : Num :=
  let neg := v / 2 ^ (f.eb + f.mb) % 2 == 1
  let e := v / 2 ^ f.mb % 2 ^ f.eb
  let m := v % 2 ^ f.mb
  let top := 2 ^ f.eb - 1
  if f.kind = .ieee ∧ e = top then
    if m = 0 then .inf neg else .nan neg (2 ^ (f.mb - 1) ≤ m) (m % 2 ^ (f.mb - 1))
  else if f.kind = .fn ∧ e = top ∧ m = 2 ^ f.mb - 1 then .nan neg true 0
  else if e = 0 then .fin neg m (1 - (f.bias : Int) - f.mb)
  else .fin neg (2 ^ f.mb + m) ((e : Int) - f.bias - f.mb)

/-- A NaN value. -/
def Num.isNan : Num → Bool
  | .nan _ _ _ => true
  | _ => false
/-- A signalling NaN (R59). -/
def Num.isSnan : Num → Bool
  | .nan _ q _ => !q
  | _ => false
/-- An infinity. -/
def Num.isInf : Num → Bool
  | .inf _ => true
  | _ => false
/-- A zero of either sign. -/
def Num.isZero : Num → Bool
  | .fin _ m _ => m == 0
  | _ => false
/-- The sign. -/
def Num.neg : Num → Bool
  | .nan n _ _ => n
  | .inf n => n
  | .fin n _ _ => n
/-- The value with its sign flipped. -/
def Num.negate : Num → Num
  | .nan n q p => .nan (!n) q p
  | .inf n => .inf (!n)
  | .fin n m e => .fin (!n) m e
/-- The magnitude. -/
def Num.mag : Num → Num
  | .nan _ q p => .nan false q p
  | .inf _ => .inf false
  | .fin _ m e => .fin false m e
/-- A power of two times the value. -/
def Num.scale (k : Int) : Num → Num
  | .fin n m e => .fin n m (e + k)
  | v => v
/-- An integer as a value. -/
def Num.ofInt (i : Int) : Num := .fin (i < 0) i.natAbs 0

/-! ### Flags (R63) -/

/-- The sticky flags of R63. -/
structure FFlags where
  inv : Bool := false
  dz : Bool := false
  ovf : Bool := false
  unf : Bool := false
  inx : Bool := false
  sat : Bool := false
deriving DecidableEq, Repr

/-- Flags of either. -/
def FFlags.or (a b : FFlags) : FFlags :=
  ⟨a.inv || b.inv, a.dz || b.dz, a.ovf || b.ovf, a.unf || b.unf, a.inx || b.inx, a.sat || b.sat⟩
/-- The flags in the bit order of FSTAT and VSTAT (Table 10.3). -/
def FFlags.bits (f : FFlags) : BitVec 6 := b1 f.sat ++ b1 f.inx ++ b1 f.unf ++ b1 f.ovf ++ b1 f.dz ++ b1 f.inv

/-! ### Rounding (R64) -/

/-- Floor(log2(n / d)) for positive n and d. -/
def log2Quot (n d : Nat) : Int :=
  let k : Int := (Nat.log2 n : Int) - Nat.log2 d
  if d * 2 ^ k.toNat ≤ n * 2 ^ (-k).toNat then k else k - 1

/-- Whether the magnitude rounds up, from the integer part's parity, the remainder against the divisor and what lies
below it (R64). -/
def roundsUp (mode : Nat) (neg odd : Bool) (r d : Nat) (sticky : Bool) : Bool :=
  match mode with
  | 0 => d < 2 * r || (2 * r == d && (sticky || odd))
  | 2 => !neg && (r != 0 || sticky)
  | 3 => neg && (r != 0 || sticky)
  | _ => false

/-- The result on overflow (Table 4.3, R64). -/
def Fmt.overflow (f : Fmt) (mode : Nat) (sat neg : Bool) : Nat × FFlags :=
  let toMax := sat || mode == 1 || (mode == 2 && neg) || (mode == 3 && !neg)
  let fl : FFlags := { ovf := true, inx := true, sat := sat }
  match f.kind with
  | .mx => (f.sign neg + f.maxFinite, { fl with sat := true })
  | .fn => (f.sign neg + (if toMax then f.maxFinite else f.defaultNaN), fl)
  | .ieee => (f.sign neg + (if toMax then f.maxFinite else f.maxFinite + 1), fl)

/-- Round (−1)^neg × (n / d) × 2^e, and a little more where `sticky`, once into a format (R58, R64). -/
def Fmt.roundQ (f : Fmt) (mode : Nat) (sat neg : Bool) (n d : Nat) (e : Int) (sticky : Bool := false) : Nat × FFlags :=
  if n = 0 then (f.sign neg, {})
  else
    let emin : Int := 1 - f.bias
    let l := log2Quot n d + e
    if l < emin - f.mb - 1 then
      let up := (mode == 2 && !neg) || (mode == 3 && neg)
      (f.sign neg + (if up then 1 else 0), { unf := true, inx := true })
    else if (f.bias : Int) + 3 < l then f.overflow mode sat neg
    else
      let q := max l emin - f.mb
      let nn := n * 2 ^ (e - q).toNat
      let dd := d * 2 ^ (q - e).toNat
      let s := nn / dd
      let r := nn % dd
      let inx := r != 0 || sticky
      let s := if roundsUp mode neg (s % 2 == 1) r dd sticky then s + 1 else s
      let (s, q) := if s = 2 ^ (f.mb + 1) then (2 ^ f.mb, q + 1) else (s, q)
      let pat := if s < 2 ^ f.mb then s else ((q + f.mb + f.bias).toNat) * 2 ^ f.mb + (s - 2 ^ f.mb)
      if f.maxFinite < pat then f.overflow mode sat neg
      else (f.sign neg + pat, { inx := inx, unf := inx && s < 2 ^ f.mb })

/-- A NaN in a format: sign and the payload bits that fit, quieted (R60). -/
def Fmt.packNaN (f : Fmt) (neg : Bool) (payload : Nat) : Nat :=
  match f.kind with
  | .ieee => f.sign neg + f.defaultNaN + payload % 2 ^ (f.mb - 1)
  | _ => f.sign neg + f.defaultNaN

/-- A value that is not rounded from an operation's exact result: NaN quieted, infinity, or a finite value rounded once;
an infinity where the format has none follows R64, and is then not the exact result (INX, R63). -/
def Fmt.pack (f : Fmt) (mode : Nat) (sat : Bool) : Num → Nat × FFlags
  | .nan n _ p => (f.packNaN n p, {})
  | .inf n => match f.kind with
    | .ieee => (f.sign n + f.maxFinite + 1, {})
    | .fn => (f.sign n + f.defaultNaN, { inx := true })
    | .mx => (f.sign n + f.maxFinite, { inx := true })
  | .fin n m e => f.roundQ mode sat n m 1 e

/-! ### Arithmetic (R62) -/

/-- The default NaN with INV (R61). -/
def Fmt.invalid (f : Fmt) : Nat × FFlags := (f.defaultNaN, { inv := true })

/-- The first NaN of two operands, quieted; INV when either signals (R62). -/
def Fmt.nan2 (f : Fmt) (a b : Num) : Nat × FFlags :=
  let fl : FFlags := { inv := a.isSnan || b.isSnan }
  match a, b with
  | .nan n _ p, _ => (f.packNaN n p, fl)
  | _, .nan n _ p => (f.packNaN n p, fl)
  | _, _ => (f.defaultNaN, fl)

/-- The exact sum of two finite values; a zero sum of unlike signs is +0, or −0 rounding down. -/
def addFin (mode : Nat) (n1 : Bool) (m1 : Nat) (e1 : Int) (n2 : Bool) (m2 : Nat) (e2 : Int) : Num :=
  if m1 = 0 ∧ m2 = 0 then .fin (if n1 = n2 then n1 else mode == 3) 0 0
  else if m1 = 0 then .fin n2 m2 e2
  else if m2 = 0 then .fin n1 m1 e1
  else
    let e := min e1 e2
    let a : Int := (m1 * 2 ^ (e1 - e).toNat : Nat)
    let b : Int := (m2 * 2 ^ (e2 - e).toNat : Nat)
    let s := (if n1 then -a else a) + (if n2 then -b else b)
    if s = 0 then .fin (mode == 3) 0 0 else .fin (s < 0) s.natAbs e

/-- The sum (Table 10.8). -/
def Fmt.add (f : Fmt) (mode : Nat) (sat : Bool) (a b : Num) : Nat × FFlags :=
  match a, b with
  | .fin n1 m1 e1, .fin n2 m2 e2 => f.pack mode sat (addFin mode n1 m1 e1 n2 m2 e2)
  | .inf n1, .inf n2 => if n1 = n2 then f.pack mode sat (.inf n1) else f.invalid
  | .inf n, .fin _ _ _ => f.pack mode sat (.inf n)
  | .fin _ _ _, .inf n => f.pack mode sat (.inf n)
  | _, _ => f.nan2 a b

/-- The difference: a + (−b), a NaN b keeping its sign. -/
def Fmt.sub (f : Fmt) (mode : Nat) (sat : Bool) (a b : Num) : Nat × FFlags :=
  f.add mode sat a (if b.isNan then b else b.negate)

/-- The product, exact, of two values that are no NaN and no 0 × ∞. -/
def mulNum (a b : Num) : Num :=
  match a, b with
  | .fin n1 m1 e1, .fin n2 m2 e2 => .fin (n1 != n2) (m1 * m2) (e1 + e2)
  | _, _ => .inf (a.neg != b.neg)

/-- 0 × ∞. -/
def zeroTimesInf (a b : Num) : Bool := (a.isZero && b.isInf) || (a.isInf && b.isZero)

/-- The product (Table 10.8). -/
def Fmt.mul (f : Fmt) (mode : Nat) (sat : Bool) (a b : Num) : Nat × FFlags :=
  if a.isNan || b.isNan then f.nan2 a b
  else if zeroTimesInf a b then f.invalid
  else f.pack mode sat (mulNum a b)

/-- The quotient (Table 10.8). -/
def Fmt.div (f : Fmt) (mode : Nat) (sat : Bool) (a b : Num) : Nat × FFlags :=
  match a, b with
  | .fin n1 m1 e1, .fin n2 m2 e2 =>
    if m2 = 0 then
      if m1 = 0 then f.invalid
      else ((f.pack mode sat (.inf (n1 != n2))).1, { dz := true })
    else f.roundQ mode sat (n1 != n2) m1 m2 (e1 - e2)
  | .inf _, .inf _ => f.invalid
  | .inf n1, .fin n2 _ _ => f.pack mode sat (.inf (n1 != n2))
  | .fin n1 _ _, .inf n2 => (f.sign (n1 != n2), {})
  | _, _ => f.nan2 a b

/-- Floor of the square root: 2^k-sized trial bits, from the highest. -/
def isqrt (n : Nat) : Nat :=
  (List.range (Nat.log2 n / 2 + 1)).reverse.foldl
    (fun r k => if (r + 2 ^ k) * (r + 2 ^ k) ≤ n then r + 2 ^ k else r) 0

/-- The square root of m × 2^e, m positive, rounded once; 40 bits of root are exact and the rest only counts. -/
def Fmt.rootFin (f : Fmt) (mode : Nat) (sat : Bool) (m : Nat) (e : Int) : Nat × FFlags :=
  let k : Int := 80 - (Nat.log2 m : Int)
  let k := if (e - k) % 2 = 0 then k else k + 1
  let n := m * 2 ^ k.toNat / 2 ^ (-k).toNat
  let exact := m * 2 ^ k.toNat % 2 ^ (-k).toNat == 0
  let r := isqrt n
  f.roundQ mode sat false r 1 ((e - k) / 2) (r * r != n || !exact)

/-- The square root (Table 10.8). -/
def Fmt.sqrt (f : Fmt) (mode : Nat) (a : Num) : Nat × FFlags :=
  match a with
  | .nan n q p => (f.packNaN n p, { inv := !q })
  | .inf n => if n then f.invalid else f.pack mode false a
  | .fin n m e => if m = 0 then (f.sign n, {}) else if n then f.invalid else f.rootFin mode false m e

/-- The fused multiply-add a × b + c (R62). -/
def Fmt.fma (f : Fmt) (mode : Nat) (sat : Bool) (a b c : Num) : Nat × FFlags :=
  match c with
  | .nan n q p => (f.packNaN n p, { inv := !q || a.isSnan || b.isSnan || zeroTimesInf a b })
  | _ =>
    if a.isNan || b.isNan then f.nan2 a b
    else if zeroTimesInf a b then f.invalid
    else f.add mode sat (mulNum a b) c

/-- a < b as reals, for values that are no NaN; the zeros are equal. -/
def numLt (a b : Num) : Bool :=
  match a, b with
  | .fin n1 m1 e1, .fin n2 m2 e2 =>
    match addFin 0 n1 m1 e1 (!n2) m2 e2 with
    | .fin n m _ => n && m != 0
    | _ => false
  | .inf n1, .inf n2 => n1 && !n2
  | .inf n1, _ => n1
  | _, .inf n2 => !n2
  | _, _ => false
/-- a = b as reals; the zeros are equal, a NaN equals nothing. -/
def numEq (a b : Num) : Bool := !a.isNan && !b.isNan && !numLt a b && !numLt b a
/-- a before b in the order of minimumNumber: −0 below +0 (R62). -/
def numBelow (a b : Num) : Bool := numLt a b || (a.isZero && b.isZero && a.neg && !b.neg)

/-- minimumNumber or maximumNumber of two patterns with their values (R62). -/
def Fmt.minmax (f : Fmt) (isMax : Bool) (pa pb : Nat) (a b : Num) : Nat × FFlags :=
  let fl : FFlags := { inv := a.isSnan || b.isSnan }
  if a.isNan && b.isNan then f.nan2 a b
  else if a.isNan then (pb, fl)
  else if b.isNan then (pa, fl)
  else if isMax then (if numBelow a b then pb else pa, fl)
  else (if numBelow b a then pb else pa, fl)

/-! ### Conversions (R67, Table 4.4) -/

/-- A conversion between two float formats that widens (R67). -/
def widens (a b : Fmt) : Bool :=
  (b == fp32 && a != fp32) || ((a == e4m3 || a == e5m2 || a == e2m1 || a == e2m3 || a == e3m2) && (b == fp16 || b == bf16))

/-- Float to another float format (Table 4.4, R60, R64); the largest finite value in place of an infinity is not the exact result
(INX, R63). -/
def convFF (src dst : Fmt) (mode : Nat) (sat : Bool) (v : Num) : Nat × FFlags :=
  match v with
  | .nan n q p => (dst.packNaN n p, { inv := !q })
  | .inf n =>
    if sat && src != dst && !widens src dst then (dst.sign n + dst.maxFinite, { inx := true, sat := true })
    else dst.pack mode sat (.inf n)
  | .fin n m e => dst.roundQ mode sat n m 1 e

/-- The integer nearest in a mode to a finite value, and whether it is inexact. -/
def roundToInt (mode : Nat) (neg : Bool) (m : Nat) (e : Int) : Int × Bool :=
  if 0 ≤ e then ((if neg then -1 else 1) * ((m * 2 ^ e.toNat : Nat) : Int), false)
  else
    let d := 2 ^ (-e).toNat
    let r := m % d
    let s := if roundsUp mode neg (m / d % 2 == 1) r d false then m / d + 1 else m / d
    ((if neg then -1 else 1) * (s : Int), r != 0)

/-- Float to an integer in [lo, hi] (Table 4.4). A clamped value raises INV and never SAT, whatever the saturate bit: the model's
choice (log entry 71). -/
def convFI (mode : Nat) (lo hi : Int) (v : Num) : Int × FFlags :=
  match v with
  | .nan _ _ _ => (0, { inv := true })
  | .inf n => (if n then lo else hi, { inv := true })
  | .fin n m e =>
    if m ≠ 0 ∧ 200 < (Nat.log2 m : Int) + e then (if n then lo else hi, { inv := true })
    else
      let e' := max e (-400)
      let m' := if e < -400 then (if m = 0 then 0 else 1) else m
      let (i, inx) := roundToInt mode n m' e'
      if i < lo then (lo, { inv := true })
      else if hi < i then (hi, { inv := true })
      else (i, { inx := inx })

/-- Integer to float (Table 4.4). -/
def convIF (f : Fmt) (mode : Nat) (sat : Bool) (i : Int) : Nat × FFlags :=
  f.roundQ mode sat (i < 0) i.natAbs 1 0

/-- Clamp an integer to [lo, hi]. -/
def clampInt (lo hi i : Int) : Int := max lo (min hi i)

/-! ### Stochastic rounding (R66) -/

/-- The 16 bits that SRCTR gives (R66). -/
def srBits (c : BitVec 64) : Nat :=
  let z := (c ^^^ (c >>> 30)) * 0xBF58476D1CE4E5B9#64
  let z := (z ^^^ (z >>> 27)) * 0x94D049BB133111EB#64
  (z ^^^ (z >>> 31)).toNat % 65536

/-- Stochastic rounding of a finite non-zero value (R66). -/
def Fmt.roundSR (f : Fmt) (sat neg : Bool) (m : Nat) (e : Int) (r : Nat) : Nat × FFlags :=
  let emin : Int := 1 - f.bias
  let l := (Nat.log2 m : Int) + e
  let q := max l emin - f.mb
  let nn := m * 2 ^ (e - q).toNat
  let dd := 2 ^ (q - e).toNat
  let t := nn / dd
  let d := nn % dd * 65536 / dd
  let s := if 65536 ≤ d + r then t + 1 else t
  let res := f.roundQ 0 sat neg s 1 q
  let inx := nn % dd != 0 || res.2.inx
  (res.1, { res.2 with inx := inx, unf := inx && s < 2 ^ f.mb && (q == emin - f.mb) })

/-! ### Microscaling blocks (R68) -/

/-- emax of an element format (R68). -/
def Fmt.emax (f : Fmt) : Int := if f == e2m1 || f == e2m3 then 2 else if f == e3m2 then 4 else if f == e4m3 then 8 else 15

/-- The magnitude of a value as a comparison key over a common exponent floor. -/
def magLt (a b : Num) : Bool := numLt a.mag b.mag

/-- Quantise one block: the scale byte, the element patterns and flags (R68). -/
def quantBlock (f : Fmt) (mode : Nat) (vs : List Num) : Nat × List Nat × FFlags :=
  if vs.any (fun v => v.isNan || v.isInf) then (0xFF, vs.map (fun _ => 0), { inv := true })
  else
    match vs.foldl (fun a v => if magLt a v then v.mag else a) (.fin false 0 0) with
    | .fin _ m e =>
      if m = 0 then (0, vs.map (fun _ => 0), {})
      else
        let x := clampInt 0 254 ((Nat.log2 m : Int) + e - f.emax + 127)
        let es : List (Nat × FFlags) := vs.map fun v => match v with
          | .fin n m e =>
            if magLt (f.decode f.maxFinite) (.fin false m (e + 127 - x)) then (f.sign n + f.maxFinite, { sat := true, inx := true })
            else
              let r := f.roundQ mode true n m 1 (e + 127 - x)
              (r.1, { inx := r.2.inx })
          | _ => (0, {})
        (x.toNat, es.map (·.1), es.foldl (fun a r => a.or r.2) {})
    | _ => (0, vs.map (fun _ => 0), {})

/-- The value of an element of a block under its scale byte; scale 0xFF gives a NaN (R57). -/
def mxValue (f : Fmt) (scale elem : Nat) : Num :=
  if scale = 0xFF then .nan false true 0 else (f.decode elem).scale ((scale : Int) - 127)

/-! ### Special functions (R73, R74) -/

/-- RNE32 of a value, as a value. -/
def rne32 (v : Num) : Num := fp32.decode (fp32.pack 0 false v).1
/-- RNE32(a + b). -/
def add32 (a b : Num) : Num := fp32.decode (fp32.add 0 false a b).1
/-- RNE32(a × b). -/
def mul32 (a b : Num) : Num := fp32.decode (fp32.mul 0 false a b).1
/-- RNE32(c + a × b). -/
def fma32 (a b c : Num) : Num := fp32.decode (fp32.fma 0 false a b c).1
/-- The exact difference of two finite values. -/
def subEx (a b : Num) : Num :=
  match a, b with
  | .fin n1 m1 e1, .fin n2 m2 e2 => addFin 0 n1 m1 e1 (!n2) m2 e2
  | _, _ => a
/-- RNE32(a / b) for finite values. -/
def div32 (a b : Num) : Num := fp32.decode (fp32.div 0 false a b).1

/-- c_ln2 (R73). -/
def cLn2 : Num := fp32.decode 0x3F317218
/-- c_h (R73). -/
def cH : Num := fp32.decode 0x3E75FDF0
/-- c_l (R73). -/
def cL : Num := fp32.decode 0x3FB8AA3B
/-- c_lh (R73). -/
def cLh : Num := fp32.decode 0xBF38AA3B
/-- c_π (R73). -/
def cPi : Num := fp32.decode 0x40490FDB
/-- Part 0 of the table T[i] = 2^(i/128) of exp2 (Table 4.6). -/
def tExp20 : List Nat :=
  [0x3F800000, 0x3F80B1ED, 0x3F8164D2, 0x3F8218AF, 0x3F82CD87, 0x3F838359, 0x3F843A29, 0x3F84F1F6,
   0x3F85AAC3, 0x3F866491, 0x3F871F62, 0x3F87DB35, 0x3F88980F, 0x3F8955EE, 0x3F8A14D5, 0x3F8AD4C6]
/-- Part 1 of the table T[i] = 2^(i/128) of exp2 (Table 4.6). -/
def tExp21 : List Nat :=
  [0x3F8B95C2, 0x3F8C57CA, 0x3F8D1ADF, 0x3F8DDF04, 0x3F8EA43A, 0x3F8F6A81, 0x3F9031DC, 0x3F90FA4D,
   0x3F91C3D3, 0x3F928E72, 0x3F935A2B, 0x3F9426FF, 0x3F94F4F0, 0x3F95C3FF, 0x3F96942D, 0x3F97657D]
/-- Part 2 of the table T[i] = 2^(i/128) of exp2 (Table 4.6). -/
def tExp22 : List Nat :=
  [0x3F9837F0, 0x3F990B88, 0x3F99E046, 0x3F9AB62B, 0x3F9B8D3A, 0x3F9C6573, 0x3F9D3EDA, 0x3F9E196E,
   0x3F9EF532, 0x3F9FD228, 0x3FA0B051, 0x3FA18FAF, 0x3FA27043, 0x3FA3520F, 0x3FA43516, 0x3FA51958]
/-- Part 3 of the table T[i] = 2^(i/128) of exp2 (Table 4.6). -/
def tExp23 : List Nat :=
  [0x3FA5FED7, 0x3FA6E595, 0x3FA7CD94, 0x3FA8B6D5, 0x3FA9A15B, 0x3FAA8D26, 0x3FAB7A3A, 0x3FAC6897,
   0x3FAD583F, 0x3FAE4934, 0x3FAF3B79, 0x3FB02F0E, 0x3FB123F6, 0x3FB21A32, 0x3FB311C4, 0x3FB40AAF]
/-- Part 4 of the table T[i] = 2^(i/128) of exp2 (Table 4.6). -/
def tExp24 : List Nat :=
  [0x3FB504F3, 0x3FB60094, 0x3FB6FD92, 0x3FB7FBF0, 0x3FB8FBAF, 0x3FB9FCD2, 0x3FBAFF5B, 0x3FBC034A,
   0x3FBD08A4, 0x3FBE0F68, 0x3FBF179A, 0x3FC0213B, 0x3FC12C4D, 0x3FC238D2, 0x3FC346CD, 0x3FC4563F]
/-- Part 5 of the table T[i] = 2^(i/128) of exp2 (Table 4.6). -/
def tExp25 : List Nat :=
  [0x3FC5672A, 0x3FC67991, 0x3FC78D75, 0x3FC8A2D8, 0x3FC9B9BE, 0x3FCAD226, 0x3FCBEC15, 0x3FCD078C,
   0x3FCE248C, 0x3FCF4319, 0x3FD06334, 0x3FD184DF, 0x3FD2A81E, 0x3FD3CCF1, 0x3FD4F35B, 0x3FD61B5E]
/-- Part 6 of the table T[i] = 2^(i/128) of exp2 (Table 4.6). -/
def tExp26 : List Nat :=
  [0x3FD744FD, 0x3FD87039, 0x3FD99D16, 0x3FDACB94, 0x3FDBFBB8, 0x3FDD2D82, 0x3FDE60F5, 0x3FDF9613,
   0x3FE0CCDF, 0x3FE2055B, 0x3FE33F89, 0x3FE47B6D, 0x3FE5B907, 0x3FE6F85B, 0x3FE8396A, 0x3FE97C38]
/-- Part 7 of the table T[i] = 2^(i/128) of exp2 (Table 4.6). -/
def tExp27 : List Nat :=
  [0x3FEAC0C7, 0x3FEC0719, 0x3FED4F30, 0x3FEE9910, 0x3FEFE4BA, 0x3FF13231, 0x3FF28177, 0x3FF3D290,
   0x3FF5257D, 0x3FF67A41, 0x3FF7D0DF, 0x3FF9295A, 0x3FFA83B3, 0x3FFBDFED, 0x3FFD3E0C, 0x3FFE9E11]
/-- The table T[i] = 2^(i/128) of exp2 as FP32 words (Table 4.6). -/
def tExp2 : List Nat := tExp20 ++ tExp21 ++ tExp22 ++ tExp23 ++ tExp24 ++ tExp25 ++ tExp26 ++ tExp27
/-- Part 0 of the table T[i] = log2 (1 + i/128) (Table 4.6). -/
def tLog20 : List Nat :=
  [0x00000000, 0x3C37F286, 0x3CB73CB4, 0x3D08E68F, 0x3D35D69C, 0x3D626FD6, 0x3D8759C5, 0x3D9D517F,
   0x3DB31FB8, 0x3DC8C50B, 0x3DDE4212, 0x3DF39761, 0x3E0462C4, 0x3E0EE68D, 0x3E19574F, 0x3E23B550]
/-- Part 1 of the table T[i] = log2 (1 + i/128) (Table 4.6). -/
def tLog21 : List Nat :=
  [0x3E2E00D2, 0x3E383A17, 0x3E42615F, 0x3E4C76E8, 0x3E567AF1, 0x3E606DB6, 0x3E6A4F72, 0x3E74205F,
   0x3E7DE0B6, 0x3E83C857, 0x3E88983F, 0x3E8D602E, 0x3E92203D, 0x3E96D888, 0x3E9B8926, 0x3EA03232]
/-- Part 2 of the table T[i] = log2 (1 + i/128) (Table 4.6). -/
def tLog22 : List Nat :=
  [0x3EA4D3C2, 0x3EA96DF0, 0x3EAE00D2, 0x3EB28C7F, 0x3EB7110E, 0x3EBB8E96, 0x3EC0052B, 0x3EC474E4,
   0x3EC8DDD4, 0x3ECD4012, 0x3ED19BB0, 0x3ED5F0C4, 0x3EDA3F60, 0x3EDE8797, 0x3EE2C97D, 0x3EE70525]
/-- Part 3 of the table T[i] = log2 (1 + i/128) (Table 4.6). -/
def tLog23 : List Nat :=
  [0x3EEB3A9F, 0x3EEF69FF, 0x3EF39355, 0x3EF7B6B4, 0x3EFBD42B, 0x3EFFEBCD, 0x3F01FED4, 0x3F0404E8,
   0x3F060828, 0x3F08089E, 0x3F0A0650, 0x3F0C0146, 0x3F0DF989, 0x3F0FEF1F, 0x3F11E20F, 0x3F13D260]
/-- Part 4 of the table T[i] = log2 (1 + i/128) (Table 4.6). -/
def tLog24 : List Nat :=
  [0x3F15C01A, 0x3F17AB44, 0x3F1993E3, 0x3F1B7A00, 0x3F1D5DA0, 0x3F1F3ECA, 0x3F211D84, 0x3F22F9D5,
   0x3F24D3C2, 0x3F26AB53, 0x3F28808C, 0x3F2A5374, 0x3F2C2411, 0x3F2DF268, 0x3F2FBE80, 0x3F31885C]
/-- Part 5 of the table T[i] = log2 (1 + i/128) (Table 4.6). -/
def tLog25 : List Nat :=
  [0x3F335004, 0x3F35157D, 0x3F36D8CB, 0x3F3899F5, 0x3F3A58FF, 0x3F3C15EE, 0x3F3DD0C8, 0x3F3F8991,
   0x3F41404F, 0x3F42F506, 0x3F44A7BA, 0x3F465872, 0x3F480731, 0x3F49B3FB, 0x3F4B5ED7, 0x3F4D07C7]
/-- Part 6 of the table T[i] = log2 (1 + i/128) (Table 4.6). -/
def tLog26 : List Nat :=
  [0x3F4EAED0, 0x3F5053F7, 0x3F51F740, 0x3F5398AF, 0x3F553848, 0x3F56D60F, 0x3F587209, 0x3F5A0C3A,
   0x3F5BA4A4, 0x3F5D3B4E, 0x3F5ED039, 0x3F60636A, 0x3F61F4E5, 0x3F6384AD, 0x3F6512C7, 0x3F669F35]
/-- Part 7 of the table T[i] = log2 (1 + i/128) (Table 4.6). -/
def tLog27 : List Nat :=
  [0x3F6829FB, 0x3F69B31E, 0x3F6B3A9F, 0x3F6CC083, 0x3F6E44CD, 0x3F6FC781, 0x3F7148A1, 0x3F72C832,
   0x3F744636, 0x3F75C2B0, 0x3F773DA4, 0x3F78B714, 0x3F7A2F04, 0x3F7BA578, 0x3F7D1A71, 0x3F7E8DF2]
/-- The table T[i] = log2 (1 + i/128) as FP32 words (Table 4.6). -/
def tLog2 : List Nat := tLog20 ++ tLog21 ++ tLog22 ++ tLog23 ++ tLog24 ++ tLog25 ++ tLog26 ++ tLog27
/-- Part 0 of the table T[i] = tanh(i/16) (Table 4.6). -/
def tTanh0 : List Nat :=
  [0x00000000, 0x3D7FAACD, 0x3DFEACC9, 0x3E3DC7FD, 0x3E7ACBF5, 0x3E9AFCC5, 0x3EB77A9F, 0x3ED2B94F,
   0x3EEC9A9F, 0x3F028438, 0x3F0DFA3F, 0x3F18ABF0, 0x3F22991F, 0x3F2BC480, 0x3F343328, 0x3F3BEC1C]
/-- Part 1 of the table T[i] = tanh(i/16) (Table 4.6). -/
def tTanh1 : List Nat :=
  [0x3F42F7D6, 0x3F495FDA, 0x3F4F2E5B, 0x3F546DE6, 0x3F59291E, 0x3F5D6A85, 0x3F613C53, 0x3F64A852,
   0x3F67B7CC, 0x3F6A737A, 0x3F6CE37D, 0x3F6F0F5B, 0x3F70FDFD, 0x3F72B5B8, 0x3F743C4F, 0x3F7596FF]
/-- Part 2 of the table T[i] = tanh(i/16) (Table 4.6). -/
def tTanh2 : List Nat :=
  [0x3F76CA83, 0x3F77DB1E, 0x3F78CCA7, 0x3F79A28F, 0x3F7A5FEB, 0x3F7B077E, 0x3F7B9BBB, 0x3F7C1ED6,
   0x3F7C92C1, 0x3F7CF939, 0x3F7D53CA, 0x3F7DA3D0, 0x3F7DEA85, 0x3F7E28FB, 0x3F7E6026, 0x3F7E90E0]
/-- Part 3 of the table T[i] = tanh(i/16) (Table 4.6). -/
def tTanh3 : List Nat :=
  [0x3F7EBBE9, 0x3F7EE1E8, 0x3F7F0376, 0x3F7F2115, 0x3F7F3B3D, 0x3F7F5254, 0x3F7F66B6, 0x3F7F78B4,
   0x3F7F8896, 0x3F7F969B, 0x3F7FA2FB, 0x3F7FADE8, 0x3F7FB78C, 0x3F7FC00E, 0x3F7FC791, 0x3F7FCE32]
/-- Part 4 of the table T[i] = tanh(i/16) (Table 4.6). -/
def tTanh4 : List Nat :=
  [0x3F7FD40C, 0x3F7FD935, 0x3F7FDDC4, 0x3F7FE1C9, 0x3F7FE556, 0x3F7FE878, 0x3F7FEB3C, 0x3F7FEDAC,
   0x3F7FEFD4, 0x3F7FF1BA, 0x3F7FF367, 0x3F7FF4E2, 0x3F7FF631, 0x3F7FF758, 0x3F7FF85C, 0x3F7FF942]
/-- Part 5 of the table T[i] = tanh(i/16) (Table 4.6). -/
def tTanh5 : List Nat :=
  [0x3F7FFA0D, 0x3F7FFAC0, 0x3F7FFB5E, 0x3F7FFBE9, 0x3F7FFC64, 0x3F7FFCD1, 0x3F7FFD30, 0x3F7FFD85,
   0x3F7FFDD0, 0x3F7FFE11, 0x3F7FFE4C, 0x3F7FFE7F, 0x3F7FFEAC, 0x3F7FFED4, 0x3F7FFEF7, 0x3F7FFF16]
/-- Part 6 of the table T[i] = tanh(i/16) (Table 4.6). -/
def tTanh6 : List Nat :=
  [0x3F7FFF32, 0x3F7FFF4A, 0x3F7FFF5F, 0x3F7FFF72, 0x3F7FFF83, 0x3F7FFF92, 0x3F7FFF9F, 0x3F7FFFAA,
   0x3F7FFFB4, 0x3F7FFFBD, 0x3F7FFFC5, 0x3F7FFFCC, 0x3F7FFFD2, 0x3F7FFFD7, 0x3F7FFFDC, 0x3F7FFFE0]
/-- Part 7 of the table T[i] = tanh(i/16) (Table 4.6). -/
def tTanh7 : List Nat :=
  [0x3F7FFFE4, 0x3F7FFFE7, 0x3F7FFFEA, 0x3F7FFFED, 0x3F7FFFEF, 0x3F7FFFF1, 0x3F7FFFF3, 0x3F7FFFF4,
   0x3F7FFFF6, 0x3F7FFFF7, 0x3F7FFFF8, 0x3F7FFFF9, 0x3F7FFFFA, 0x3F7FFFFB, 0x3F7FFFFB, 0x3F7FFFFC]
/-- The table T[i] = tanh(i/16) as FP32 words (Table 4.6). -/
def tTanh : List Nat := tTanh0 ++ tTanh1 ++ tTanh2 ++ tTanh3 ++ tTanh4 ++ tTanh5 ++ tTanh6 ++ tTanh7
/-- Part 0 of the table S[i] = sin(π i / 256) (Table 4.6). -/
def tSin0 : List Nat :=
  [0x00000000, 0x3C490E90, 0x3CC90AB0, 0x3D16C32C, 0x3D48FB30, 0x3D7B2B74, 0x3D96A905, 0x3DAFB680,
   0x3DC8BD36, 0x3DE1BC2E, 0x3DFAB273, 0x3E09CF86, 0x3E164083, 0x3E22ABB6, 0x3E2F10A2, 0x3E3B6ECF]
/-- Part 1 of the table S[i] = sin(π i / 256) (Table 4.6). -/
def tSin1 : List Nat :=
  [0x3E47C5C2, 0x3E541501, 0x3E605C13, 0x3E6C9A7F, 0x3E78CFCC, 0x3E827DC0, 0x3E888E93, 0x3E8E9A22,
   0x3E94A031, 0x3E9AA086, 0x3EA09AE5, 0x3EA68F12, 0x3EAC7CD4, 0x3EB263EF, 0x3EB8442A, 0x3EBE1D4A]
/-- Part 2 of the table S[i] = sin(π i / 256) (Table 4.6). -/
def tSin2 : List Nat :=
  [0x3EC3EF15, 0x3EC9B953, 0x3ECF7BCA, 0x3ED53641, 0x3EDAE880, 0x3EE0924F, 0x3EE63375, 0x3EEBCBBB,
   0x3EF15AEA, 0x3EF6E0CB, 0x3EFC5D27, 0x3F00E7E4, 0x3F039C3D, 0x3F064B82, 0x3F08F59B, 0x3F0B9A6B]
/-- Part 3 of the table S[i] = sin(π i / 256) (Table 4.6). -/
def tSin3 : List Nat :=
  [0x3F0E39DA, 0x3F10D3CD, 0x3F13682A, 0x3F15F6D9, 0x3F187FC0, 0x3F1B02C6, 0x3F1D7FD1, 0x3F1FF6CB,
   0x3F226799, 0x3F24D225, 0x3F273656, 0x3F299415, 0x3F2BEB4A, 0x3F2E3BDE, 0x3F3085BB, 0x3F32C8C9]
/-- Part 4 of the table S[i] = sin(π i / 256) (Table 4.6). -/
def tSin4 : List Nat :=
  [0x3F3504F3, 0x3F373A23, 0x3F396842, 0x3F3B8F3B, 0x3F3DAEF9, 0x3F3FC767, 0x3F41D870, 0x3F43E200,
   0x3F45E403, 0x3F47DE65, 0x3F49D112, 0x3F4BBBF8, 0x3F4D9F02, 0x3F4F7A1F, 0x3F514D3D, 0x3F531849]
/-- Part 5 of the table S[i] = sin(π i / 256) (Table 4.6). -/
def tSin5 : List Nat :=
  [0x3F54DB31, 0x3F5695E5, 0x3F584853, 0x3F59F26A, 0x3F5B941A, 0x3F5D2D53, 0x3F5EBE05, 0x3F604621,
   0x3F61C598, 0x3F633C5A, 0x3F64AA59, 0x3F660F88, 0x3F676BD8, 0x3F68BF3C, 0x3F6A09A7, 0x3F6B4B0C]
/-- Part 6 of the table S[i] = sin(π i / 256) (Table 4.6). -/
def tSin6 : List Nat :=
  [0x3F6C835E, 0x3F6DB293, 0x3F6ED89E, 0x3F6FF573, 0x3F710908, 0x3F721352, 0x3F731447, 0x3F740BDD,
   0x3F74FA0B, 0x3F75DEC6, 0x3F76BA07, 0x3F778BC5, 0x3F7853F8, 0x3F791298, 0x3F79C79D, 0x3F7A7302]
/-- Part 7 of the table S[i] = sin(π i / 256) (Table 4.6). -/
def tSin7 : List Nat :=
  [0x3F7B14BE, 0x3F7BACCD, 0x3F7C3B28, 0x3F7CBFC9, 0x3F7D3AAC, 0x3F7DABCC, 0x3F7E1324, 0x3F7E70B0,
   0x3F7EC46D, 0x3F7F0E58, 0x3F7F4E6D, 0x3F7F84AB, 0x3F7FB10F, 0x3F7FD397, 0x3F7FEC43, 0x3F7FFB11]
/-- The table S[i] = sin(π i / 256) as FP32 words (Table 4.6). -/
def tSin : List Nat := tSin0 ++ tSin1 ++ tSin2 ++ tSin3 ++ tSin4 ++ tSin5 ++ tSin6 ++ tSin7

/-- An entry of a table as a value. -/
def tabAt (t : List Nat) (i : Nat) : Num := fp32.decode (t.getD i 0)

/-- Floor of m × 2^e, non-negative. -/
def floorNat (m : Nat) (e : Int) : Nat := m * 2 ^ e.toNat / 2 ^ (-e).toNat

/-- exp2 (Table 4.6). -/
def fexp2 (v : Num) : Nat × FFlags :=
  match v with
  | .nan s q p => (fp32.packNaN s p, { inv := !q })
  | .inf s => if s then (0, {}) else (0x7F800000, {})
  | .fin s m e =>
    if m ≠ 0 ∧ 20 < (Nat.log2 m : Int) + e then if s then (0, {}) else (0x7F800000, { ovf := true })
    else
      let e' := max e (-200)
      let m' := if e < -200 then 0 else m
      let x : Int := if s then -(m' : Int) else m'
      let d : Int := 2 ^ (-e').toNat
      let x := x * 2 ^ e'.toNat
      let n := x.fdiv d
      let fr := (x - n * d).toNat
      let i := fr * 128 / d.toNat
      let h : Num := .fin false (fr * 128 % d.toNat) (-(((-e').toNat : Nat) : Int) - 7)
      let u1 := fma32 cH h cLn2
      let u2 := mul32 h u1
      let t := tabAt tExp2 i
      let y := fma32 t u2 t
      let r := fp32.pack 0 false (y.scale n)
      (r.1, { ovf := r.2.ovf })

/-- A positive finite value as m × 2^e with m in [1, 2): the fraction bits over 2^k and e. -/
def normalise (m : Nat) (e : Int) : Nat × Nat × Int :=
  let k := Nat.log2 m
  (m, k, e + k)

/-- log2 (Table 4.6). -/
def flog2 (v : Num) : Nat × FFlags :=
  match v with
  | .nan s q p => (fp32.packNaN s p, { inv := !q })
  | .inf s => if s then fp32.invalid else (0x7F800000, {})
  | .fin s m e =>
    if m = 0 then (0xFF800000, { dz := true })
    else if s then fp32.invalid
    else
      let (mm, k, ex) := normalise m e
      let i := (mm - 2 ^ k) * 128 / 2 ^ k
      let m0 : Num := .fin false (128 + i) (-7)
      let h := subEx (.fin false mm (-(k : Int))) m0
      let z := div32 h m0
      let u1 := fma32 cLh z cL
      let u2 := mul32 z u1
      let y := add32 (tabAt tLog2 i) u2
      ((fp32.add 0 false (.ofInt ex) y).1, {})

/-- Reciprocal (Table 4.6). -/
def frcp (v : Num) : Nat × FFlags :=
  match v with
  | .nan s q p => (fp32.packNaN s p, { inv := !q })
  | .inf s => (fp32.sign s, {})
  | .fin s m e =>
    if m = 0 then (fp32.sign s + 0x7F800000, { dz := true })
    else
      let (mm, k, ex) := normalise m e
      let i := (mm - 2 ^ k) * 128 / 2 ^ k
      let m0 : Num := .fin false (128 + i) (-7)
      let h := subEx (.fin false mm (-(k : Int))) m0
      let z := div32 h m0
      let u1 := match subEx z (.ofInt 1), z with
        | .fin n1 m1 e1, .fin n2 m2 e2 => rne32 (.fin (n1 != n2) (m1 * m2) (e1 + e2))
        | _, _ => z
      let t := div32 (.ofInt 1) m0
      let y := fma32 t u1 t
      let r := fp32.pack 0 false ((if s then y.negate else y).scale (-ex))
      (r.1, { ovf := r.2.ovf })

/-- RNE32 of 1 / sqrt(m0) for m0 = a × 2^−b: the root of 2^(100 + b) / a to 50 bits, the rest counting as inexact. -/
def rsqrtEntry (m0 : Num) : Num :=
  match m0 with
  | .fin _ a b =>
    let p := 2 ^ (100 + (-b).toNat)
    let r := isqrt (p / a)
    fp32.decode (fp32.roundQ 0 false false r 1 (-50) (r * r != p / a || p % a != 0)).1
  | v => v

/-- Reciprocal square root (Table 4.6). -/
def frsqrt (v : Num) : Nat × FFlags :=
  match v with
  | .nan s q p => (fp32.packNaN s p, { inv := !q })
  | .inf s => if s then fp32.invalid else (0, {})
  | .fin s m e =>
    if m = 0 then (fp32.sign s + 0x7F800000, { dz := true })
    else if s then fp32.invalid
    else
      let (mm, k, ex) := normalise m e
      let odd := ex % 2 != 0
      let ex := if odd then ex - 1 else ex
      -- m as mm × 2^(−k), or twice that when the exponent was odd
      let kk : Int := if odd then (k : Int) - 1 else k
      let m0 : Num := if odd then .fin false (floorNat mm (5 - kk)) (-5) else .fin false (floorNat mm (6 - kk)) (-6)
      let h := subEx (.fin false mm (-kk)) m0
      let z := div32 h m0
      let u1 := fma32 (.fin false 3 (-3)) z (.fin true 1 (-1))
      let u2 := mul32 z u1
      let t := rsqrtEntry m0
      let y := fma32 t u2 t
      ((fp32.pack 0 false (y.scale (-(ex / 2)))).1, {})

/-- tanh (Table 4.6). -/
def ftanh (v : Num) : Nat × FFlags :=
  match v with
  | .nan s q p => (fp32.packNaN s p, { inv := !q })
  | .inf s => (fp32.sign s + 0x3F800000, {})
  | .fin s m e =>
    if m = 0 then (fp32.sign s, {})
    else if 3 ≤ (Nat.log2 m : Int) + e then (fp32.sign s + 0x3F800000, {})
    else
      let i := floorNat m (e + 4)
      let h := subEx (.fin false m e) (.fin false i (-4))
      let t := tabAt tTanh i
      let g := fma32 t.negate t (.ofInt 1)
      let u1 := fma32 t.negate h (.ofInt 1)
      let u2 := match g, h, u1 with
        | .fin n1 m1 e1, .fin n2 m2 e2, .fin n3 m3 e3 =>
          rne32 (.fin ((n1 != n2) != n3) (m1 * m2 * m3) (e1 + e2 + e3))
        | _, _, _ => g
      let y := add32 t u2
      (fp32.sign s + (fp32.pack 0 false y).1, {})

/-- sin(πx) and cos(πx) (R74). -/
def fsincos (isCos : Bool) (v : Num) : Nat × FFlags :=
  match v with
  | .nan s q p => (fp32.packNaN s p, { inv := !q })
  | .inf _ => fp32.invalid
  | .fin s m e =>
    -- a = n / 2^k in [0, 2)
    let k := (-e).toNat
    let n := if 1 ≤ e then 0 else m % 2 ^ (k + 1)
    let sg := if isCos then false else s
    let (n, sg) := if 2 ^ k ≤ n then (n - 2 ^ k, !sg) else (n, sg)
    let (n, sg) := if 2 * n ≤ 2 ^ k then (n, sg) else (2 ^ k - n, if isCos then !sg else sg)
    let y : Num :=
      if 2 * n = 2 ^ k then (if isCos then .fin false 0 0 else .ofInt 1)
      else
        let i := n * 256 / 2 ^ k
        let h : Num := .fin false (n * 256 % 2 ^ k) (-(k : Int) - 8)
        let si := tabAt tSin i
        let c := if i = 0 then Num.ofInt 1 else tabAt tSin (128 - i)
        let w := mul32 cPi h
        let half : Num := .fin false 1 (-1)
        if isCos then
          let u1 := fma32 (mulNum half w) c si
          fma32 w.negate u1 c
        else
          let u1 := fma32 (mulNum half w).negate si c
          fma32 w u1 si
    if y.isZero then ((if isCos then 0 else fp32.sign s), {})
    else ((fp32.pack 0 false (if sg then y.negate else y)).1, {})

end Sys2Proof.Machine
end

