-- ==== Sys2Proof/Config.lean ====
section
/-! DEFINITION. What one PX-7680 fixes and the spec does not give: the free values (opaque, no body: nothing can be
proved about which value they have). The log entries that name them are in notes/assumptions. -/

namespace Sys2Proof.Config

/-- A free value of w bits, drawn with a fresh counter of the state: telemetry readings, the answers of the Ramrin
controller's keys, and every other value that the spec leaves open (log entry 3). -/
opaque freeValue (w : Nat) : Nat → BitVec w

/-- The data that a pattern of errors beyond the detection strength of its code gives (R82: undetected or miscorrected), by the
flipped bits and the data as written (log entry 64). -/
opaque miscorrected : List Nat → BitVec 512 → BitVec 512

/-- The L2 slice port (R320: one of 32) that serves a line of its home slice; the spec does not give it (log entry 65). -/
opaque slicePort : Nat → Nat

/-- What a firmware image holds (R416): of its header the version, the SVN, the payload's length and SHA-384 digest; its two key
slots with their public keys; its two signatures. -/
structure ImageParts where
  version : Nat
  svn : Nat
  payload : Nat
  digest : List Byte
  ecdsaSlot : BitVec 2
  lmsSlot : BitVec 2
  ecdsaKey : Nat × Nat
  lmsKey : List Byte
  ecdsaSig : Nat × Nat
  lmsSig : List Byte
deriving DecidableEq, Repr, Inhabited

/-- The parts of an image in its bytes, by address; the spec does not give the layout of a header or of the signatures (log entry
76). -/
opaque imageParts : List (Nat × Byte) → ImageParts

/-- A core that the test of step 6 finds failing (R415, R12), by the number of the bring-up and the core (log entry 3). -/
opaque coreFails : Nat → Nat → BitVec 1

/-- The Lemxia PCI Vendor ID, 63:48 of DEVID (Table 19.1), which the spec names and does not give (log entry 3). -/
opaque vendorId : BitVec 16

/-- The digests and raw contents of the measurement blocks 1 to 5 (Table 19.4), which an accepted image fixes at step 2 (R419):
by the number of that acceptance (`HostSide.measured`) and the index (log entry 3). -/
opaque measurement : Nat → Nat → BitVec 384

/-- The digest of the certificate chain of slot 0, whose leaf key is derived at step 2 (R418), by the number of that
acceptance; the spec does not give it (log entry 3). -/
opaque certificateDigest : Nat → BitVec 384

/-- The part of that chain from a byte offset (R418), by the number of the acceptance and the offset (log entry 3). -/
opaque certificate : Nat → Nat → BitVec 768

/-- The ECDSA P-384 signature of the derived leaf key over a transcript digest (R418), given as the number of the
acceptance, the number of the request and the nonce (log entry 3). -/
opaque signature : Nat → Nat → BitVec 256 → BitVec 768

end Sys2Proof.Config
end

