-- ==== Sys2Proof/Syntax.lean ====
section
/-! DEFINITION. The syntax of the PX-7680: the formats of Tables 2.5 and 2.6 (spec 02_bundles_and_encodings R29, R34)
as structures, and `Instr`, one constructor for each row of spec/opcode_table.json: the 222 lane forms, each over its
format's fields, and the 101 events, whose data stand in the state's `Input`. -/

namespace Sys2Proof

/-- The literal lanes that follow a lane (R19): none, one, or two (the two as one 64-bit value L2 : L1). -/
inductive Lit where
  | none
  | one (l : BitVec 32)
  | two (v : BitVec 64)
deriving DecidableEq, Repr

/-- The five engine queues (R17, R13). -/
inductive Queue where
  | vector | matrix | ferryLoad | ferryStore | gather
deriving DecidableEq, Repr

/-- Format SA of the Shuttle (Table 2.5). -/
structure SA where
  d : BitVec 6
  a : BitVec 6
  b : BitVec 6
  t : Bool
  p : BitVec 3
  n : Bool
  w : Bool
deriving DecidableEq, Repr

/-- Format SI of the Shuttle (Table 2.5), with its literal. -/
structure SI where
  d : BitVec 6
  a : BitVec 6
  imm : BitVec 12
  lit : Lit
deriving DecidableEq, Repr

/-- Format SS of the Shuttle (Table 2.5), with its literal. -/
structure SS where
  data : BitVec 6
  base : BitVec 6
  off : BitVec 7
  p : BitVec 3
  n : Bool
  t : Bool
  lit : Lit
deriving DecidableEq, Repr

/-- Format SB of the Shuttle (Table 2.5). -/
structure SB where
  p : BitVec 3
  n : Bool
  disp : BitVec 20
deriving DecidableEq, Repr

/-- Format SL of the Shuttle (Table 2.5), with its literal. -/
structure SL where
  d : BitVec 6
  imm : BitVec 18
  lit : Lit
deriving DecidableEq, Repr

/-- Format VA of the vector engine (Table 2.6). -/
structure VA where
  vd : BitVec 5
  va : BitVec 5
  vb : BitVec 5
  ty : BitVec 3
  m : BitVec 3
  sat : Bool
  v : BitVec 2
deriving DecidableEq, Repr

/-- Format VT of the vector engine (Table 2.6). -/
structure VT where
  vd : BitVec 5
  va : BitVec 5
  tile : BitVec 6
  tag : BitVec 2
  ty : BitVec 3
  sat : Bool
  v : BitVec 2
deriving DecidableEq, Repr

/-- Format VC of the vector engine (Table 2.6), with its literal. -/
structure VC where
  c1 : BitVec 6
  c2 : BitVec 6
  c3 : BitVec 6
  xs : BitVec 6
  lit : Lit
deriving DecidableEq, Repr

/-- Format MT of the matrix engine and the draw unit (Table 2.6). -/
structure MT where
  acc : BitVec 2
  ta : BitVec 6
  ga : BitVec 2
  tb : BitVec 6
  gb : BitVec 2
  cnt : Bool
  mode : BitVec 5
deriving DecidableEq, Repr

/-- Format MX of the matrix engine and the draw unit (Table 2.6), its Reserved field left out; with its literal. -/
structure MX where
  xs : BitVec 6
  sel : BitVec 12
  cnt : Bool
  lit : Lit
deriving DecidableEq, Repr

/-- Format MO of the matrix engine (Table 2.6), its Reserved field left out. -/
structure MO where
  acc : BitVec 2
  tile : BitVec 6
  tag : BitVec 2
  ty : BitVec 3
  rnd : BitVec 2
  ben : Bool
  k : BitVec 4
  cnt : Bool
deriving DecidableEq, Repr

/-- Format MS of the matrix engine (Table 2.6), its Reserved fields left out. -/
structure MS where
  acc : BitVec 2
  slot : BitVec 3
  cnt : Bool
deriving DecidableEq, Repr

/-- Format FM of the Ferry (Table 2.6); `st` is the queue that the lane's engine tag names (R40): the store queue or
the load queue. -/
structure FM where
  st : Bool
  tile : BitVec 6
  tag : BitVec 2
  xa : BitVec 6
  acq : Bool
  rel : Bool
  scope : BitVec 3
  cnt : Bool
  ch : BitVec 4
deriving DecidableEq, Repr

/-- Format GM of the gather engine (Table 2.6), its Reserved field left out. -/
structure GM where
  tile : BitVec 6
  tag : BitVec 2
  xs : BitVec 6
  xb : BitVec 6
  cnt : Bool
deriving DecidableEq, Repr

/-- The header of a Strait flit and its sector (spec 14_archipelago R315, Table 14.6); KIND is the event's own name. -/
structure Flit where
  vc : BitVec 3 := 0
  hops : BitVec 3 := 0
  poison : Bool := false
  e1 : Bool := false
  near : Bool := false
  dst : BitVec 10 := 0
  src : BitVec 10 := 0
  score : BitVec 10 := 0
  tag : BitVec 32 := 0
  chop : BitVec 8 := 0
  size : BitVec 4 := 0
  addr : BitVec 64 := 0
  mask : BitVec 64 := 0
  opnd : BitVec 128 := 0
  data : BitVec 512 := 0
  /-- A reserved field is non-zero, or the kind is a reserved one (R315). -/
  reserved : Bool := false
  /-- The port by which this island sends it. -/
  out : BitVec 4 := 0
deriving DecidableEq, Repr

/-- The data that an event brings: which core, die, port or entry it is about, and the address and value that the
host, firmware, another island or another core gives. Each event's meaning says which of these it reads. -/
structure Input where
  /-- A core number of the island, 0 to 767 (R9). -/
  core : Nat := 0
  /-- A launch number, or the place of an entry in a list of the state. -/
  n : Nat := 0
  queue : Queue := .vector
  die : BitVec 2 := 0
  /-- A host link: 0 link A and 1 link B of port 0, 2 and 3 those of port 1. -/
  link : BitVec 2 := 0
  /-- A Strait port. -/
  port : BitVec 4 := 0
  vc : BitVec 3 := 0
  /-- A tile or flag number. -/
  index : BitVec 6 := 0
  ok : Bool := true
  addr : BitVec 64 := 0
  addr2 : BitVec 64 := 0
  mask : BitVec 64 := 0
  value : BitVec 64 := 0
  nonce : BitVec 256 := 0
  flit : Flit := {}
deriving DecidableEq, Repr

/-- One constructor for each row of spec/opcode_table.json: the lane forms first, then the events. -/
inductive Instr where
  /-- ADD (R203): Integer add, in 64-bit or 32-bit form. -/
  | add (f : SA)
  /-- SUB (R203): Integer subtract. -/
  | sub (f : SA)
  /-- MUL (R203): Low bits of the integer product. -/
  | mul (f : SA)
  /-- MULH (R203): High bits of the signed product. -/
  | mulh (f : SA)
  /-- DIV (R205): Signed division truncating toward zero, long-latency. -/
  | div (f : SA)
  /-- DIVU (R205): Unsigned division, long-latency. -/
  | divu (f : SA)
  /-- REM (R205): Signed remainder, long-latency. -/
  | rem (f : SA)
  /-- AND (R203): Bitwise AND. -/
  | and (f : SA)
  /-- OR (R203): Bitwise OR. -/
  | or (f : SA)
  /-- XOR (R203): Bitwise XOR. -/
  | xor (f : SA)
  /-- SHL (R203): Shift left by register amount. -/
  | shl (f : SA)
  /-- SHR (R203): Logical shift right by register amount. -/
  | shr (f : SA)
  /-- SAR (R203): Arithmetic shift right by register amount. -/
  | sar (f : SA)
  /-- CLZ (R203): Count leading zeros. -/
  | clz (f : SA)
  /-- POPC (R203): Count set bits. -/
  | popc (f : SA)
  /-- MIN (R203): Signed minimum. -/
  | min (f : SA)
  /-- MAX (R203): Signed maximum. -/
  | max (f : SA)
  /-- SEL (R204): Select xa or xb by the guard predicate. -/
  | sel (f : SA)
  /-- ADDI (R206): Add an immediate. -/
  | addi (f : SI)
  /-- ANDI (R206): AND with an immediate. -/
  | andi (f : SI)
  /-- ORI (R206): OR with an immediate. -/
  | ori (f : SI)
  /-- XORI (R206): XOR with an immediate. -/
  | xori (f : SI)
  /-- SHLI (R206): Shift left by an immediate of 0 to 63. -/
  | shli (f : SI)
  /-- SHRI (R206): Logical shift right by an immediate. -/
  | shri (f : SI)
  /-- SARI (R206): Arithmetic shift right by an immediate. -/
  | sari (f : SI)
  /-- LI (R207): Load a sign-extended immediate or literal. -/
  | li (f : SL)
  /-- ADDPC (R207): Bundle address plus an immediate byte offset. -/
  | addpc (f : SL)
  /-- CEQ (R208): Set a predicate if the registers are equal. -/
  | ceq (f : SA)
  /-- CLT (R208): Set a predicate on signed less-than. -/
  | clt (f : SA)
  /-- CLTU (R208): Set a predicate on unsigned less-than. -/
  | cltu (f : SA)
  /-- CEQI (R208): Set a predicate if the register equals the immediate. -/
  | ceqi (f : SI)
  /-- CLTI (R208): Set a predicate on signed less-than the immediate. -/
  | clti (f : SI)
  /-- PAND (R209): Predicate AND. -/
  | pand (f : SA)
  /-- POR (R209): Predicate OR. -/
  | por (f : SA)
  /-- PXOR (R209): Predicate XOR. -/
  | pxor (f : SA)
  /-- MOVP (R209): Copy a predicate into an x register. -/
  | movp (f : SA)
  /-- PSET (R209): Set a predicate to whether xa is non-zero. -/
  | pset (f : SA)
  /-- FADD (R210): FP32 add in the FRM mode. -/
  | fadd (f : SA)
  /-- FSUB (R210): FP32 subtract. -/
  | fsub (f : SA)
  /-- FMUL (R210): FP32 multiply. -/
  | fmul (f : SA)
  /-- FDIV (R210): FP32 divide, long-latency. -/
  | fdiv (f : SA)
  /-- FSQRT (R210): FP32 square root, long-latency. -/
  | fsqrt (f : SA)
  /-- FMA (R211): Fused multiply-add into xd. -/
  | fma (f : SA)
  /-- FMIN (R210): FP32 minimumNumber. -/
  | fmin (f : SA)
  /-- FMAX (R210): FP32 maximumNumber. -/
  | fmax (f : SA)
  /-- FCEQ (R212): Set a predicate on FP32 equality. -/
  | fceq (f : SA)
  /-- FCLT (R212): Set a predicate on FP32 less-than. -/
  | fclt (f : SA)
  /-- FCVTI (R213): Convert FP32 to INT64 or INT32. -/
  | fcvti (f : SA)
  /-- FCVTF (R213): Convert INT64 or INT32 to FP32. -/
  | fcvtf (f : SA)
  /-- FKEY (R214): Map FP32 to an order-preserving unsigned key. -/
  | fkey (f : SA)
  /-- LDB (R141): Load a sign-extended byte. -/
  | ldb (f : SI)
  /-- LDBU (R141): Load a zero-extended byte. -/
  | ldbu (f : SI)
  /-- LDH (R141): Load a sign-extended halfword. -/
  | ldh (f : SI)
  /-- LDHU (R141): Load a zero-extended halfword. -/
  | ldhu (f : SI)
  /-- LDW (R141): Load a sign-extended word. -/
  | ldw (f : SI)
  /-- LDWU (R141): Load a zero-extended word. -/
  | ldwu (f : SI)
  /-- LDD (R141): Load a doubleword. -/
  | ldd (f : SI)
  /-- STB (R142): Store a byte, guardable. -/
  | stb (f : SS)
  /-- STH (R142): Store a halfword. -/
  | sth (f : SS)
  /-- STW (R142): Store a word. -/
  | stw (f : SS)
  /-- STD (R142): Store a doubleword. -/
  | std (f : SS)
  /-- LDBLK (R146): Fill a block of sectors into L2 and count its marks, raising a flag when done. -/
  | ldblk (f : SA)
  /-- PREF (R145): Prefetch a line into L1 and L2, or into L2 only. -/
  | pref (f : SI)
  /-- LDN (R144): Load 8 bytes from the near map. -/
  | ldn (f : SI)
  /-- STN (R144): Store 8 bytes to the near map. -/
  | stn (f : SS)
  /-- AADD (R147): Atomic add at the home point. -/
  | aadd (f : SA)
  /-- AAND (R147): Atomic AND. -/
  | aand (f : SA)
  /-- AOR (R147): Atomic OR. -/
  | aor (f : SA)
  /-- AXOR (R147): Atomic XOR. -/
  | axor (f : SA)
  /-- AMIN (R147): Atomic signed minimum. -/
  | amin (f : SA)
  /-- AMAX (R147): Atomic signed maximum. -/
  | amax (f : SA)
  /-- ASWAP (R147): Atomic swap. -/
  | aswap (f : SA)
  /-- ACAS (R147): Atomic compare-and-swap with xd as the comparand. -/
  | acas (f : SA)
  /-- AFADD (R147): Atomic FP32 add, rounded to nearest even. -/
  | afadd (f : SA)
  /-- BR (R215): Guarded branch taken after lane 7. -/
  | br (f : SB)
  /-- CALL (R215): Guarded call that writes x63. -/
  | call (f : SB)
  /-- JR (R215): Guarded jump to a register. -/
  | jr (f : SA)
  /-- CALLR (R215): Guarded call through a register. -/
  | callr (f : SA)
  /-- RET (R215): Guarded return to x63. -/
  | ret (f : SA)
  /-- LOOP (R216): Decrement a counter and branch while it is non-zero. -/
  | loop (f : SL)
  /-- TRAP (R217): Raise the fault TRAP with a code. -/
  | trap (f : SI)
  /-- BIND (R332): Write a binding register. -/
  | bind (f : SA)
  /-- UNBIND (R333): Clear VALID of one binding or all. -/
  | unbind (f : SI)
  /-- ACQ (R334): Wait on a sync word, then invalidate the regions bound to it. -/
  | acq (f : SA)
  /-- REL (R335): Drain the bound regions, then add to the sync word. -/
  | rel (f : SA)
  /-- ACQ_ALL (R336): Optional wait on an object, then drop all L1 lines and parameter-block entries. -/
  | acqAll (f : SI)
  /-- REL_ALL (R336): Drain all writes, then optionally add to an object. -/
  | relAll (f : SI)
  /-- MFENCE (R339): Push markers into the named queues and stall until they reach the head. -/
  | mfence (f : SI)
  /-- FLAGW (R341): Set a software flag of this core or another. -/
  | flagw (f : SA)
  /-- FLAGADD (R341): Add to a software flag of this core or another. -/
  | flagadd (f : SA)
  /-- FLAGR (R342): Read a flag of this core. -/
  | flagr (f : SI)
  /-- SPAWN (R375): Create a child task from a template and queue or hold it. -/
  | spawn (f : SA)
  /-- TAKE (R376): Take the highest-ranked queued task of a class mask. -/
  | take (f : SA)
  /-- TAKE_W (R376): Take a task, waiting up to a timeout. -/
  | takeW (f : SA)
  /-- DONE (R377): End a task as DONE, or as CANCELLED when its CANCEL flag is set. -/
  | done (f : SA)
  /-- CANCEL (R384): Cancel a task subtree depth first, messaging remote children. -/
  | cancel (f : SA)
  /-- REPRI (R378): Change a task's priority key. -/
  | repri (f : SA)
  /-- JOIN (R380): Wait until a task has no pending children. -/
  | join (f : SA)
  /-- TSTAT (R379): Read a task's state, flags and pending count. -/
  | tstat (f : SA)
  /-- TKV (R386): Reference KV blocks and attach them to a task. -/
  | tkv (f : SA)
  /-- HCFG (R381): Configure a Heddle class field. -/
  | hcfg (f : SA)
  /-- HFLUSH (R383): Close every open shed of the named classes. -/
  | hflush (f : SA)
  /-- HSTAT (R383): Report a Heddle shed place. -/
  | hstat (f : SA)
  /-- NALLOC (R391): Allocate an NSM node under a parent. -/
  | nalloc (f : SA)
  /-- NFREE (R391): Free an NSM node and raise its generation. -/
  | nfree (f : SA)
  /-- NLD (R390): Read one word of a node record. -/
  | nld (f : SA)
  /-- NST (R390): Write word 1, 2 or 3 of a node record. -/
  | nst (f : SA)
  /-- NVLOSS (R392): Add virtual loss along the chain to the root. -/
  | nvloss (f : SA)
  /-- NBACK (R392): Back up a value along the chain to the root. -/
  | nback (f : SA)
  /-- SRD (R200): Read a system register. -/
  | srd (f : SI)
  /-- SWR (R200): Write a system register. -/
  | swr (f : SI)
  /-- TLBINV (R112): Invalidate translations of a page range on the island. -/
  | tlbinv (f : SA)
  /-- TLBINVA (R113): Invalidate this ASN or every ASN on the island. -/
  | tlbinva (f : SI)
  /-- CTXSAVE (R367): Pre-empt a core and save its context image. -/
  | ctxsave (f : SA)
  /-- CTXLOAD (R367): Restore a context image onto a core and resume it. -/
  | ctxload (f : SA)
  /-- LAUNCH (R349): Submit a launch record from memory. -/
  | launch (f : SA)
  /-- PHASE_B (R352): Open a phase and push PHASE.B markers. -/
  | phaseB (f : SI)
  /-- PHASE_C (R352): Close a phase, with an optional commit flag. -/
  | phaseC (f : SI)
  /-- PHASE_X (R361): Abandon the most recent uncommitted closed phase. -/
  | phaseX (f : SI)
  /-- RTE (R400): Return from the handler: resume, abort, or remove the held command. -/
  | rte (f : SI)
  /-- PICK (R362): Read the pick clock. -/
  | pick (f : SA)
  /-- RTDRAIN (R324): Start or end a routing drain. -/
  | rtdrain (f : SI)
  /-- RTSET (R324): Write a mesh, island or stage routing entry while DRAINED. -/
  | rtset (f : SA)
  /-- RTFENCE (R325): Fence or unfence a router, bridge, port or island. -/
  | rtfence (f : SI)
  /-- VSHAPE (R235): Set the vector shape register. -/
  | vshape (f : VC)
  /-- VROT (R235): Set the rotation base. -/
  | vrot (f : VC)
  /-- VADV (R235): Advance the rotation base. -/
  | vadv (f : VC)
  /-- REP (R224): Repeat the next vector instruction n times with stepped fields. -/
  | rep (f : VC)
  /-- VSETS (R235): Set a vector scalar register. -/
  | vsets (f : VC)
  /-- VCNT (R235): Raise f0 after every earlier vector command has completed. -/
  | vcnt (f : VC)
  /-- VADD (R236): Element-wise add. -/
  | vadd (f : VA)
  /-- VSUB (R236): Element-wise subtract. -/
  | vsub (f : VA)
  /-- VMUL (R236): Element-wise multiply. -/
  | vmul (f : VA)
  /-- VFMA (R236): Element-wise fused multiply-add into vd. -/
  | vfma (f : VA)
  /-- VMIN (R236): Element-wise minimum. -/
  | vmin (f : VA)
  /-- VMAX (R236): Element-wise maximum. -/
  | vmax (f : VA)
  /-- VABS (R237): Element-wise absolute value. -/
  | vabs (f : VA)
  /-- VNEG (R237): Element-wise negation. -/
  | vneg (f : VA)
  /-- VDIV (R236): Element-wise divide. -/
  | vdiv (f : VA)
  /-- VAND (R236): Element-wise bitwise AND. -/
  | vand (f : VA)
  /-- VOR (R236): Element-wise bitwise OR. -/
  | vor (f : VA)
  /-- VXOR (R236): Element-wise bitwise XOR. -/
  | vxor (f : VA)
  /-- VSHL (R236): Element-wise shift left. -/
  | vshl (f : VA)
  /-- VSHR (R236): Element-wise logical shift right. -/
  | vshr (f : VA)
  /-- VSAR (R236): Element-wise arithmetic shift right. -/
  | vsar (f : VA)
  /-- VCMPEQ (R238): Element-wise equality compare into a mask. -/
  | vcmpeq (f : VA)
  /-- VCMPLT (R238): Element-wise less-than compare into a mask. -/
  | vcmplt (f : VA)
  /-- VCMPLE (R238): Element-wise less-or-equal compare into a mask. -/
  | vcmple (f : VA)
  /-- VSEL (R239): Select elements of va or vb by a mask. -/
  | vsel (f : VA)
  /-- VADDS (R236): Add a vector scalar to each element. -/
  | vadds (f : VA)
  /-- VMULS (R236): Multiply each element by a vector scalar. -/
  | vmuls (f : VA)
  /-- VFMAS (R236): Fused multiply by a scalar and add into vd. -/
  | vfmas (f : VA)
  /-- VEXP2 (R240): Element-wise exp2 by the defined algorithm. -/
  | vexp2 (f : VA)
  /-- VLOG2 (R240): Element-wise log2. -/
  | vlog2 (f : VA)
  /-- VRCP (R240): Element-wise reciprocal. -/
  | vrcp (f : VA)
  /-- VRSQRT (R240): Element-wise reciprocal square root. -/
  | vrsqrt (f : VA)
  /-- VTANH (R240): Element-wise tanh. -/
  | vtanh (f : VA)
  /-- VSINPI (R240): Element-wise sin(πx). -/
  | vsinpi (f : VA)
  /-- VCOSPI (R240): Element-wise cos(πx). -/
  | vcospi (f : VA)
  /-- VRSUM (R242): Sum over rows, columns or the whole register. -/
  | vrsum (f : VA)
  /-- VRMAX (R242): Maximum reduction over groups. -/
  | vrmax (f : VA)
  /-- VRMIN (R242): Minimum reduction over groups. -/
  | vrmin (f : VA)
  /-- VSCAN (R243): Inclusive or exclusive scan along rows. -/
  | vscan (f : VA)
  /-- VTOPK (R245): Select the indices of the k largest positions. -/
  | vtopk (f : VA)
  /-- VARGMAX (R244): Index of the largest member of each group. -/
  | vargmax (f : VA)
  /-- VCVT (R246): Convert elements to another type. -/
  | vcvt (f : VA)
  /-- VCVTSR (R247): Narrowing float conversion with stochastic rounding. -/
  | vcvtsr (f : VA)
  /-- VQMX (R248): Quantise into MX blocks. -/
  | vqmx (f : VA)
  /-- VDQMX (R249): Dequantise MX blocks. -/
  | vdqmx (f : VA)
  /-- VLDT (R251): Load shaped bytes from a tile or from memory. -/
  | vldt (f : VT)
  /-- VSTT (R252): Bound-check and store shaped bytes to a tile or to memory. -/
  | vstt (f : VT)
  /-- VPERM (R254): Permute elements within rows. -/
  | vperm (f : VA)
  /-- VTRANS (R255): Transpose the shaped matrix. -/
  | vtrans (f : VA)
  /-- VBCAST (R256): Broadcast a row, column, element or scalar. -/
  | vbcast (f : VA)
  /-- VGATH (R257): Gather rows by an index vector. -/
  | vgath (f : VA)
  /-- VMOV (R253): Move a vector, or move between a mask and a vector. -/
  | vmov (f : VA)
  /-- MCFG (R262): Write a matrix configuration register. -/
  | mcfg (f : MX)
  /-- MGO (R267): Check and start a matrix loop nest in the background. -/
  | mgo (f : MT)
  /-- MJOIN (R276): Start a joint quad matrix operation. -/
  | mjoin (f : MT)
  /-- MDESC (R263): Write an A or B operand descriptor. -/
  | mdesc (f : MX)
  /-- MUNF (R264): Write a virtual-A unfolding register. -/
  | munf (f : MX)
  /-- MOUT (R281): Convert, void, bound-check and write a bank into tiles. -/
  | mout (f : MO)
  /-- MSAVE (R274): Copy a bank into a checkpoint slot. -/
  | msave (f : MS)
  /-- MLOAD (R274): Copy a checkpoint slot into a bank. -/
  | mload (f : MS)
  /-- MZERO (R274): Zero a bank and set its mode. -/
  | mzero (f : MS)
  /-- MSTAT (R275): Post the matrix status entry to the reply queue. -/
  | mstat (f : MS)
  /-- MCLRF (R274): Clear a bank's sticky flags. -/
  | mclrf (f : MS)
  /-- DCFG (R291): Write a draw configuration register. -/
  | dcfg (f : MX)
  /-- DKEY (R290): Write a KEY word or SEQ of a row stream. -/
  | dkey (f : MX)
  /-- DCTR (R290): Set a row stream counter. -/
  | dctr (f : MX)
  /-- DCTRR (R290): Post a row stream counter as a reply. -/
  | dctrr (f : MX)
  /-- DGRAM (R294): Merge a chunk of logits into candidate lists. -/
  | dgram (f : MT)
  /-- DSAMP (R296): Build distributions and optionally draw tokens. -/
  | dsamp (f : MT)
  /-- DCLUS (R298): Draw a cluster and set the row's token base. -/
  | dclus (f : MT)
  /-- DACCEPT (R300): Accept drafted tokens and draw a correction or bonus token. -/
  | daccept (f : MT)
  /-- DARGMAX (R298): Post the top-ranked candidate id. -/
  | dargmax (f : MT)
  /-- FLD (R164): Load a tile from memory. -/
  | fld (f : FM)
  /-- FLDP (R165): Strided load into a tile span by parameter block. -/
  | fldp (f : FM)
  /-- FST (R164): Store a tile to memory. -/
  | fst (f : FM)
  /-- FSTP (R165): Strided store of a tile span by parameter block. -/
  | fstp (f : FM)
  /-- FTT (R164): Write a tile into another core's scratchpad. -/
  | ftt (f : FM)
  /-- FTTP (R165): Strided tile-to-remote-tile write by parameter block. -/
  | fttp (f : FM)
  /-- FBB (R167): Copy KV blocks to another island's pool with index rewrite. -/
  | fbb (f : FM)
  /-- FSWP (R165): Indexed scatter of rows to memory. -/
  | fswp (f : FM)
  /-- FSWI (R165): Indexed gather of rows from memory. -/
  | fswi (f : FM)
  /-- FFILL (R164): Fill a tile with a 64-bit pattern. -/
  | ffill (f : FM)
  /-- FNEAR (R164): Write a tile into a near-map region of this island. -/
  | fnear (f : FM)
  /-- FRED (R166): Reduce a tile span into memory words atomically. -/
  | fred (f : FM)
  /-- FPBINV (R168): Drop parameter-block cache entries. -/
  | fpbinv (f : FM)
  /-- FWP (R169): Wait for a channel write pointer, then raise a flag. -/
  | fwp (f : FM)
  /-- GKV (R186): Stream the K or V parts of blocks into a tile span. -/
  | gkv (f : GM)
  /-- GAPP (R189): Append tokens to a sequence and publish TOKENS. -/
  | gapp (f : GM)
  /-- GEMB (R187): Copy an embedding row into a tile. -/
  | gemb (f : GM)
  /-- GREF (R190): Reference or drop a range of blocks. -/
  | gref (f : GM)
  /-- GCOW (R190): Make a shared block private by copy. -/
  | gcow (f : GM)
  /-- GSCORE (R191): Add scores into a sequence's score table. -/
  | gscore (f : GM)
  /-- GCOMPACT (R192): Compact a sequence to the listed kept tokens. -/
  | gcompact (f : GM)
  /-- GTRUNC (R193): Truncate a sequence to L tokens. -/
  | gtrunc (f : GM)
  /-- GLEN (R188): Write a length record into a tile. -/
  | glen (f : GM)
  /-- GBMINV (R194): Drop block map cache entries. -/
  | gbminv (f : GM)
  /-- GFREE (R190): Drop a block and empty its table entry. -/
  | gfree (f : GM)
  /-- GALLOC (R190): Pop a zeroed slot into an empty table entry. -/
  | galloc (f : GM)
  /-- BUNDLE_FETCH_DECODE (R24): The Shuttle fetches a 32-byte bundle and decodes it whole before any lane takes effect, then takes lanes 1 to 7 in order. -/
  | bundleFetchDecode
  /-- WAIT_BUNDLE (R21): A kind-1 bundle stalls the Shuttle until its flag condition holds, then dispatches lanes 2 to 7. -/
  | waitBundle
  /-- TIMED_BUNDLE (R22): A kind-2 bundle dispatches lane 2 in the first tick in which its pick-clock time is reached. -/
  | timedBundle
  /-- HALT_BUNDLE (R23): A halt bundle retires once every queue is empty, every command has completed and every x register is FULL, stops fetch and reaches the core's completion leaf. -/
  | haltBundle
  /-- LONG_LATENCY_RESULT (R196): The result of a long-latency Shuttle instruction returns and sets its destination FULL. -/
  | longLatencyResult
  /-- REPLY_QUEUE_ENTRY_ARRIVAL (R199): A held Loom, NSM or draw reply enters the core's reply queue when there is room. -/
  | replyQueueEntryArrival
  /-- REPLY_BUFFER_RELEASE (R302): Entries in the draw unit's outbound buffer leave it into the reply queue in command order as room appears. -/
  | replyBufferRelease
  /-- SRCTR_VSTAT_QUEUE_ENTRY (R200): The vector-queue entry of an SRD or SWR of SRCTR or VSTAT reaches its turn, reads or writes the register, and fills the SRD destination. -/
  | srctrVstatQueueEntry
  /-- TAG_WAIT_GRANT (R138): A waiting engine command is granted its tile tag wait, either a FULL source or an EMPTY destination. -/
  | tagWaitGrant
  /-- TAGSET (R130): A write to TAGSET sets each named tile FULL with ARRIVED 0. -/
  | tagset
  /-- TAGCLR (R130): A write to TAGCLR sets each named tile EMPTY with ARRIVED 0. -/
  | tagclr
  /-- FLAG_VAL_WRITE (R130): A write to FLAG_VAL sets software flag f8 to f31; writes to f0 to f7 are ignored. -/
  | flagValWrite
  /-- FLAG_ADD_WRITE (R130): A write to FLAG_ADD adds its value to software flag f8 to f31, mod 2^32. -/
  | flagAddWrite
  /-- OVERRUN_CLEAR (R131): Writing 1 to OVERRUN of a tile status word clears it. -/
  | overrunClear
  /-- XFULL_WRITE (R130): A write to XFULL of a halted core marks each x register FULL or EMPTY. -/
  | xfullWrite
  /-- PAGE_REQUEST_MAPPED (R117): A PRQ_DONE write with result MAPPED makes every requester waiting on the page walk again and replays its store side log entries. -/
  | pageRequestMapped
  /-- PAGE_REQUEST_REFUSED (R117): A PRQ_DONE write with result REFUSED raises PAGE_FAULT at every waiting requester and discards the page's store side log entries. -/
  | pageRequestRefused
  /-- MIGRATION_BRING_IN (R123): The migration unit takes a free frame, copies a host-held page into it, writes the entry valid, and releases the host frame. -/
  | migrationBringIn
  /-- SWAP_OUT_PAGE (R124): The background Ferry channel copies one page of an eligible swap group to a host frame, rewrites its entry, invalidates it and returns the HBM frame. -/
  | swapOutPage
  /-- REQUANT_ENTRY (R98): The device takes one requantisation ring entry, requantises the page to code 14 under R97, writes RESULT and advances RQ_TAIL. -/
  | requantEntry
  /-- PATROL_SCRUB_SECTOR (R94): Patrol scrub decodes a sector under its stored code and writes back E0 corrections. -/
  | patrolScrubSector
  /-- LINK_CALIBRATION (R93): The memory controller pauses foreground traffic to calibrate HBM link timing. -/
  | linkCalibration
  /-- WEAR_REFRESH (R93): Row-activation wear management refreshes the neighbours of heavily activated rows. -/
  | wearRefresh
  /-- SELF_TEST_COMPLETE (R405): A targeted self-test ends, classifies the error TRANSIENT or LASTING, and writes a self-test log entry. -/
  | selfTestComplete
  /-- ROW_SPARING (R99): The device copies a failing HBM row into a spare row and keeps its marks. -/
  | rowSparing
  /-- FRAME_RETIREMENT (R99): The device copies a failing frame to a new frame, keeping codes and marks, and the old frame is retired. -/
  | frameRetirement
  /-- CHECKPOINT_START (R102): A CKCMD write of 1 starts a whole-memory checkpoint and sets STATE 1. -/
  | checkpointStart
  /-- RESTORE_START (R102): A CKCMD write of 2 starts a whole-memory restore and sets STATE 1. -/
  | restoreStart
  /-- CHECKPOINT_ABORT (R102): A CKCMD write of 3 stops the checkpoint or restore after the record in progress and sets STATE 5. -/
  | checkpointAbort
  /-- CHECKPOINT_QUIESCED (R100): Once the quiescence conditions hold, the checkpoint or restore moves to STATE 2 or 3. -/
  | checkpointQuiesced
  /-- CHECKPOINT_FRAME_WRITE (R100): The device writes one frame record into the checkpoint ring of the frame's port when there is room, and advances CKHEAD. -/
  | checkpointFrameWrite
  /-- RESTORE_FRAME_RECORD (R101): The device reads one frame record from a ring and writes its sectors under their codes and marks. -/
  | restoreFrameRecord
  /-- LAUNCH_PORT_SUBMIT (R413): A write of 1 to LGO copies LBUF and submits the launch record for placement. -/
  | launchPortSubmit
  /-- LAUNCH_START (R347): The device checks and claims the rectangle, sets the launch-start state, and starts every core fetching at ENTRY in one tick T0. -/
  | launchStart
  /-- LAUNCH_COMPLETION (R350): When every leaf is reached, the device waits for all writes, writes the completion word, frees the cores and signals MSI-X. -/
  | launchCompletion
  /-- CORECTL_PREEMPT (R414): A PREEMPT write to a running core issues a pre-emption request. -/
  | corectlPreempt
  /-- CORECTL_ABORT (R414): An ABORT write to a halted or stopped core has the effect of RTE 1. -/
  | corectlAbort
  /-- PREEMPTION_TAKEN (R364): The core stops at a commit or at a boundary outside a phase, and its context is saved or held awaiting CTXSAVE. -/
  | preemptionTaken
  /-- PREEMPTION_WINDOW_EXPIRY (R365): PWIN ticks pass without a commit, so the executing phase is cancelled and the context is saved rewound. -/
  | preemptionWindowExpiry
  /-- PHASE_B_MARKER_PASS (R353): An engine passes a PHASE.B marker once earlier commands have completed and earlier phases have committed or been abandoned. -/
  | phaseBMarkerPass
  /-- PHASE_COMMIT (R359): The core commits its executing phase: accumulator commit, tile transitions, deferred counts and replies, and deferred commands. -/
  | phaseCommit
  /-- MFENCE_JOIN (R339): The MFENCE join slot sees every marker at its head with earlier commands and store side logs done, removes the markers and lets the Shuttle go on. -/
  | mfenceJoin
  /-- NEST_COMPLETE (R261): A running MGO or MJOIN nest completes its last step, applies its consuming tag actions and counts f1. -/
  | nestComplete
  /-- JOINT_JOIN_FORM (R278): All four members have arrived, their configurations are compared, and the joint nest starts in lock step. -/
  | jointJoinForm
  /-- JOINT_WINDOW_EXPIRY (R279): A member's JWIN count passes without arrival or issue, so every member cancels its phase and adds to LOSS, or receives JOINT_LOST. -/
  | jointWindowExpiry
  /-- HANDLER_ENTRY (R399): After the engines take their fault action, the Shuttle saves EPC, sets HMODE and fetches at TVEC, or stays halted. -/
  | handlerEntry
  /-- READ (R310): A READ flit arrives at the target island, is checked against the inbound windows, and is answered with READ_DATA or NACK. -/
  | read
  /-- READ_DATA (R310): A READ_DATA flit returns a sector with its marks to the requester. -/
  | readData
  /-- WRITE (R313): A WRITE flit is checked and performed at the target's home point in issue order, and WRITE_ACK is returned. -/
  | write
  /-- WRITE_ACK (R329): A WRITE_ACK flit acknowledges a remote write to its issuer. -/
  | writeAck
  /-- ATOMIC (R310): An ATOMIC flit is performed single-copy atomic at the target home slice and answered with ATOMIC_DATA. -/
  | atomic
  /-- ATOMIC_DATA (R310): An ATOMIC_DATA flit returns the old value of a remote atomic. -/
  | atomicData
  /-- TILE_WRITE (R311): A TILE_WRITE flit is an arrival in the target tile and advances the target channel write pointer. -/
  | tileWrite
  /-- MSG (R373): A MSG flit carries a Loom or NSM operation or reply to or from another island. -/
  | msg
  /-- NACK (R314): A NACK flit delivers REMOTE_FAIL with its cause to the requester. -/
  | nack
  /-- TIME (R319): A TIME flit carries the master pick estimate, and a non-master island slews its pick clock. -/
  | time
  /-- MGMT (R317): A MGMT flit carries management traffic on channel 7. -/
  | mgmt
  /-- FLIT_RETRANSMIT (R316): A flit with a failed CRC is retransmitted from the link's replay buffer. -/
  | flitRetransmit
  /-- STRAIT_LANE_SELF_TEST_TRIGGER (R316): Sixteen consecutive failed transmissions of one flit start the port's lane self-test. -/
  | straitLaneSelfTestTrigger
  /-- STRAIT_CHANNEL_STOP (R318): A receiver whose channel buffer passes its threshold signals stop for that channel. -/
  | straitChannelStop
  /-- TIME_SEND_INTERVAL (R319): Every 65,536 ticks each island sends TIME flits to its neighbours. -/
  | timeSendInterval
  /-- PICKSYNC_LOCK_LOSS (R319): No TIME flit arrives for 2^20 ticks, so LOCKED clears and the clock runs free. -/
  | picksyncLockLoss
  /-- PICKSYNC_STEP (R319): Writing 1 to STEP sets the pick counter to the master estimate while no launch runs. -/
  | picksyncStep
  /-- ROUTE_DRAIN_COMPLETE (R322): No flit remains in flight, so the routing state becomes DRAINED and waiting RTDRAINs receive their counts. -/
  | routeDrainComplete
  /-- ROUTE_DRAIN_TIMEOUT (R323): The drain timeout passes, remaining flits are discarded with cause LOST, and the state becomes DRAINED. -/
  | routeDrainTimeout
  /-- SHED_WINDOW_EXPIRY (R382): A shed's WINDOW passes since its first row, so the shed closes. -/
  | shedWindowExpiry
  /-- SHED_FORM (R382): A closed shed takes a slot and a descriptor slot, writes and releases its descriptor, makes its members SHED and queues the shed task. -/
  | shedForm
  /-- TASK_FREE (R370): A DONE or CANCELLED task whose PENDING is 0 and whose parent has been told becomes FREE, and its generation rises. -/
  | taskFree
  /-- TAKE_W_TIMEOUT (R376): A waiting TAKE.W reaches its timeout and returns TIMEOUT. -/
  | takeWTimeout
  /-- JOIN_COMPLETE (R380): A waiting JOIN sees PENDING reach 0, returns DONEC and CANCC, and returns the task to RUNNING. -/
  | joinComplete
  /-- PIN_RELEASE_PUSH (R175): A stream pin drops after the last read of a slot, and a slot with count 0 is pushed onto the free list. -/
  | pinReleasePush
  /-- POWER_THROTTLE (R421): Measured power exceeds the limit, so the Ramrin controller withholds issue cycles. -/
  | powerThrottle
  /-- THERMAL_THROTTLE (R422): A junction reaches 105 °C or an HBM stack reaches 95 °C, so issue is withheld. -/
  | thermalThrottle
  /-- THERMAL_SHUTDOWN (R422): A junction reaches 115 °C, so power is removed from the dies and the event is recorded. -/
  | thermalShutdown
  /-- TELEMETRY_REFRESH (R423): The telemetry registers are refreshed every millisecond. -/
  | telemetryRefresh
  /-- FUNDAMENTAL_RESET (R415): PERST# or a loss of power returns every register to its reset value and starts bring-up. -/
  | fundamentalReset
  /-- BOOT_STEP_COMPLETE (R415): A bring-up step completes and the Ramrin controller advances BOOT to the next step. -/
  | bootStepComplete
  /-- RECGO (R417): A write of 1 to RECGO repeats firmware verification on the image in the recovery mailbox. -/
  | recgo
  /-- SVN_COMMIT (R416): The SVN commit command raises the fused minimum SVN to the accepted image's SVN. -/
  | svnCommit
  /-- CONFIGURATION_REQUEST (R415): A PCIe configuration request is answered, with Configuration Request Retry Status until step 4 completes. -/
  | configurationRequest
  /-- HOT_RESET (R415): A hot reset resets one port's PCIe state and launch port only. -/
  | hotReset
  /-- FUNCTION_LEVEL_RESET (R415): A function-level reset resets that port's PCIe state and launch port only. -/
  | functionLevelReset
  /-- D3HOT_ENTRY (R420): A function enters D3hot, and when all functions are in D3hot the running cores are stopped as under PREEMPT. -/
  | d3hotEntry
  /-- D0_RETURN (R420): A function's first return to D0 resumes the stopped cores. -/
  | d0Return
  /-- D3COLD_ENTRY (R420): The module enters D3cold and loses all state except fuses and Ramrin storage. -/
  | d3coldEntry
  /-- BAR2_READ (R411): A host BAR2 read is performed at the home point and returns poisoned data as poisoned TLPs. -/
  | bar2Read
  /-- BAR2_WRITE (R411): A host BAR2 write is performed at the home point under the sector's stored code. -/
  | bar2Write
  /-- CONTROL_REGISTER_WRITE (R412): A write to a control-window register with no row of its own is stored, or ignored where its rules refuse it; a misaligned access completes as Unsupported Request. -/
  | controlRegisterWrite
  /-- CTRCLR (R412): Writing 1 to CTRCLR of a die clears that die's error counters. -/
  | ctrclr
  /-- GET_VERSION (R418): The SPDM GET_VERSION request is answered over DOE. -/
  | getVersion
  /-- GET_CAPABILITIES (R418): The SPDM GET_CAPABILITIES request is answered over DOE. -/
  | getCapabilities
  /-- NEGOTIATE_ALGORITHMS (R418): The SPDM NEGOTIATE_ALGORITHMS request is answered with ECDSA P-384 and SHA-384. -/
  | negotiateAlgorithms
  /-- GET_DIGESTS (R418): The SPDM GET_DIGESTS request returns the digest of the slot 0 certificate chain. -/
  | getDigests
  /-- GET_CERTIFICATE (R418): The SPDM GET_CERTIFICATE request returns the slot 0 certificate chain. -/
  | getCertificate
  /-- CHALLENGE (R418): The SPDM CHALLENGE request is answered with a signature by the derived leaf key. -/
  | challenge
  /-- GET_MEASUREMENTS (R419): The SPDM GET_MEASUREMENTS request returns the signed measurement blocks. -/
  | getMeasurements
  /-- PORT_DOWN (R121): A host port goes down, so host-page accesses through it raise PAGE_FAULT, swap uses the other port, and checkpoint frames go through the remaining port. -/
  | portDown
  /-- PORT_UP (R124): A host port that was down comes up again, and swapping that stopped because both ports were down resumes. -/
  | portUp
  /-- COMPLETION_TIMEOUT (R102): A checkpoint or restore ring access gets no completion in time, and the operation enters STATE 6 with FAILPORT. -/
  | completionTimeout
  /-- CXL_CACHE_SNOOP (R121): The host, through CXL.cache, takes back or checks a host line cached in a port die's L2 slice, which keeps that line coherent with the host. -/
  | cxlCacheSnoop
  /-- CORE_DISABLE (R406): After a LASTING core SRAM result with no redundant column left, firmware disables the core, which then stays a routing node only and reads CORECTL STATE 4. -/
  | coreDisable
deriving DecidableEq, Repr

end Sys2Proof
end

