-- ==== Sys2Proof/WellFormed.lean ====
section
/-! DEFINITION. Which lanes are instructions: the guard check and the field check that the Shuttle makes at dispatch
(spec 02_bundles_and_encodings R24, R31, R33, R35, R36, R38, R40, and each entry's own limits). Events have no encoding. -/

namespace Sys2Proof

/-- The lane has no literal. -/
def Lit.isNone : Lit → Bool
  | .none => true
  | .one _ => false
  | .two _ => false

/-- The value a literal gives (R19), or the format's own. -/
def Lit.value (own : BitVec 64) : Lit → BitVec 64
  | .none => own
  | .one l => l.signExtend 64
  | .two v => v

/-- A destination field that names an x register (R33). -/
def xDst (d : BitVec 6) : Bool := d != 62
/-- A predicate destination: 1 to 7 (R33). -/
def pDst (d : BitVec 6) : Bool := 1 ≤ d.toNat && d.toNat ≤ 7
/-- A predicate source: 0 to 7 (R33). -/
def pSrc (a : BitVec 6) : Bool := a.toNat ≤ 7
/-- The F types of R236: FP32, BF16, FP16. -/
def isF (ty : BitVec 3) : Bool := ty.toNat ≤ 2
/-- The I types of R236: INT32, INT16, INT8. -/
def isI (ty : BitVec 3) : Bool := 5 ≤ ty.toNat
/-- F or I, integers with rounding field 00 (R236). -/
def isFI (f : VA) : Bool := isF f.ty || (isI f.ty && f.v == 0)

/-- A guard field pair that is legal where guards are allowed: not p0 with negate (R31). -/
def guardPair (p : BitVec 3) (n : Bool) : Bool := !(n && p == 0)
/-- Bits 4:1 of an unguardable SA lane are zero (R31). -/
def SA.noGuard (f : SA) : Bool := f.p == 0 && !f.n

/-- The literal's target field is zero when a literal follows (R19). -/
def SI.litOk (f : SI) : Bool := f.lit.isNone || f.imm == 0
/-- The literal's target field is zero when a literal follows (R19). -/
def SS.litOk (f : SS) : Bool := f.lit.isNone || f.off == 0
/-- The literal's target field is zero when a literal follows (R19). -/
def SL.litOk (f : SL) : Bool := f.lit.isNone || f.imm == 0
/-- The literal's target field is zero when a literal follows (R19). -/
def VC.litOk (f : VC) : Bool := f.lit.isNone || f.xs == 0
/-- The literal's target field is zero when a literal follows (R19). -/
def MX.litOk (f : MX) : Bool := f.lit.isNone || f.xs == 0

/-- The immediate of a format SI lane: imm12 sign-extended, or the literal (R19, R206). -/
def SI.value (f : SI) : BitVec 64 := f.lit.value (f.imm.signExtend 64)
/-- The immediate of a format SL lane, unscaled (R207). -/
def SL.value (f : SL) : BitVec 64 := f.lit.value (f.imm.signExtend 64)

/-- System register numbers that Table 10.2 and Table 18.4 list (R200, R398). -/
def sysRegListed (r : Nat) : Bool :=
  r ≤ 5 || (0x100 ≤ r && r ≤ 0x103) || (0x110 ≤ r && r ≤ 0x117) || (0x180 ≤ r && r ≤ 0x18F)
/-- System registers that SWR may write (R200, R398). -/
def sysRegWritable (r : Nat) : Bool :=
  r == 1 || r == 2 || r == 3 || r == 5 || (0x100 ≤ r && r ≤ 0x103)

/-- sel values of Table 12.3 (R262). -/
def mcfgSel (s : Nat) : Bool := s ≤ 0x17 || (0x20 ≤ s && s ≤ 0x24) || (0x30 ≤ s && s ≤ 0x4F)
/-- sel values of Table 12.4 (R263). -/
def mdescSel (s : Nat) : Bool := s ≤ 4 || (0x10 ≤ s && s ≤ 0x14)

/-- acq = rel = 0 needs scope 000, and scope codes stop at 100 (R36). -/
def FM.scopeOk (f : FM) : Bool := f.scope.toNat ≤ 4 && (f.acq || f.rel || f.scope == 0)
/-- A lane of the load queue (R40). -/
def FM.load (f : FM) : Bool := !f.st && f.scopeOk
/-- A lane of the store queue (R40). -/
def FM.store (f : FM) : Bool := f.st && f.scopeOk
/-- A gather lane whose tile field is unused (R38, R184). -/
def GM.noTile (f : GM) : Bool := f.tile == 0 && f.tag == 0

/-- The guard check of R31: false gives ILLEGAL_GUARD. -/
def Instr.guardOk : Instr → Bool
  | .sel f | .aadd f | .aand f | .aor f | .axor f | .amin f | .amax f | .aswap f | .acas f | .afadd f
  | .jr f | .callr f | .ret f => guardPair f.p f.n
  | .stb f | .sth f | .stw f | .std f | .stn f => guardPair f.p f.n
  | .br f | .call f => guardPair f.p f.n
  | .add f | .sub f | .mul f | .mulh f | .div f | .divu f | .rem f | .and f | .or f | .xor f | .shl f | .shr f | .sar f
  | .clz f | .popc f | .min f | .max f | .ceq f | .clt f | .cltu f | .pand f | .por f | .pxor f | .movp f | .pset f
  | .fadd f | .fsub f | .fmul f | .fdiv f | .fsqrt f | .fma f | .fmin f | .fmax f | .fceq f | .fclt f | .fcvti f
  | .fcvtf f | .fkey f | .ldblk f | .bind f | .acq f | .rel f | .flagw f | .flagadd f
  | .spawn f | .take f | .takeW f | .done f | .cancel f | .repri f | .join f | .tstat f | .tkv f | .hcfg f | .hflush f
  | .hstat f | .nalloc f | .nfree f | .nld f | .nst f | .nvloss f | .nback f
  | .tlbinv f | .ctxsave f | .ctxload f | .launch f | .pick f | .rtset f => f.noGuard
  | _ => true

/-- The field check of R24 ("opcodes; guard fields; reserved field values" and each entry's limits): false gives
ILLEGAL_OP. -/
def Instr.fieldsOk : Instr → Bool
  -- SA, x destination, w selects the 32-bit form (R203)
  | .add f | .sub f | .mul f | .mulh f | .div f | .divu f | .rem f | .and f | .or f | .xor f | .shl f | .shr f | .sar f
  | .min f | .max f | .aadd f | .aand f | .aor f | .axor f | .amin f | .amax f | .aswap f | .acas f | .acq f | .rel f =>
      xDst f.d
  | .clz f | .popc f | .fcvti f | .fcvtf f => xDst f.d && f.b == 0
  | .afadd f => xDst f.d && f.w
  | .sel f | .fadd f | .fsub f | .fmul f | .fdiv f | .fma f | .fmin f | .fmax f | .ldblk f | .takeW f | .cancel f
  | .repri f | .tkv f | .hcfg f | .nalloc f | .nst f | .nvloss f | .nback f | .tlbinv f | .ctxsave f | .ctxload f
  | .rtset f => xDst f.d && !f.w
  | .fsqrt f | .fkey f | .spawn f | .take f | .done f | .join f | .tstat f | .hflush f | .hstat f | .nfree f | .nld f
  | .launch f => xDst f.d && f.b == 0 && !f.w
  | .pick f => xDst f.d && f.a == 0 && f.b == 0 && !f.w
  | .ceq f | .clt f | .cltu f => pDst f.d
  | .pand f | .por f | .pxor f => pDst f.d && pSrc f.a && pSrc f.b && !f.w
  | .movp f => xDst f.d && pSrc f.a && f.b == 0 && !f.w
  | .pset f => pDst f.d && f.b == 0 && !f.w
  | .fceq f | .fclt f => pDst f.d && !f.w
  | .jr f | .callr f => f.d == 0 && f.b == 0 && !f.w
  | .ret f => f.d == 0 && f.a == 0 && f.b == 0 && !f.w
  | .bind f => !f.w
  | .flagw f | .flagadd f => 8 ≤ f.d.toNat && f.d.toNat ≤ 31 && !f.w
  -- SI
  | .addi f | .andi f | .ori f | .xori f | .ldb f | .ldbu f | .ldh f | .ldhu f | .ldw f | .ldwu f | .ldd f | .ldn f =>
      xDst f.d && f.litOk
  | .shli f | .shri f | .sari f => xDst f.d && f.litOk && f.value.toNat ≤ 63
  | .ceqi f | .clti f => pDst f.d && f.litOk
  | .pref f => f.d.toNat ≤ 1 && f.litOk
  | .trap f => f.d == 0 && f.litOk
  | .unbind f => f.d == 0 && f.a == 0 && f.lit.isNone && bits f.imm 11 6 == 0 && (!bit f.imm 5 || bits f.imm 4 0 == 0)
  | .acqAll f | .relAll f =>
      f.lit.isNone && bits f.imm 2 0 ≤ 4 && bits f.imm 11 4 == 0 && (f.a != 0 || (f.d == 0 && !bit f.imm 3))
  | .mfence f => f.d == 0 && f.a == 0 && f.lit.isNone && bits f.imm 11 5 == 0 && bits f.imm 4 0 != 0
  | .flagr f => xDst f.d && f.a == 0 && f.lit.isNone && bits f.imm 11 5 == 0
  | .srd f => xDst f.d && f.a == 0 && f.lit.isNone && sysRegListed f.imm.toNat
  | .swr f => f.d == 0 && f.lit.isNone && sysRegWritable f.imm.toNat
  | .tlbinva f => xDst f.d && f.a == 0 && f.litOk && f.value.toNat ≤ 1
  | .phaseB f => f.d == 0 && f.a == 0 && f.imm == 0 && f.lit.isNone
  | .phaseC f => f.d == 0 && f.a == 0 && f.lit.isNone && bits f.imm 11 5 == 0 && (f.imm == 0 || 8 ≤ f.imm.toNat)
  | .phaseX f => xDst f.d && f.a == 0 && f.imm == 0 && f.lit.isNone
  | .rte f => f.d == 0 && f.a == 0 && f.lit.isNone && f.imm.toNat ≤ 2
  | .rtdrain f => xDst f.d && f.lit.isNone && (f.imm == 0 || (f.imm == 1 && f.a == 0))
  | .rtfence f => xDst f.d && f.lit.isNone && bits f.imm 7 2 == 0 && bits f.imm 11 9 == 0
  -- SS, SB, SL
  | .stb f | .sth f | .stw f | .std f | .stn f => f.litOk
  | .br _ | .call _ => true
  | .li f | .addpc f => xDst f.d && f.litOk
  | .loop f => xDst f.d && f.d != 0 && f.litOk && (f.lit.isNone || f.value.toNat % 32 == 0)
  -- vector, VC
  | .vshape f => f.c3 == 0 && f.xs == 0 && f.lit.isNone && (f.c1.toNat + 1) * ((f.c2.toNat + 1) * 32) ≤ 2048
  | .vrot f => f.c1.toNat ≤ 15 && f.c2 == 0 && f.c3 == 0 && f.xs == 0 && f.lit.isNone
  | .vadv f => 1 ≤ f.c1.toNat && f.c1.toNat ≤ 15 && f.c2 == 0 && f.c3 == 0 && f.xs == 0 && f.lit.isNone
  | .rep f => f.c2.toNat ≤ 7 && ((f.c3 == 0 && f.xs == 0 && f.lit.isNone) || (f.c3 == 1 && f.c1 == 0 && f.litOk))
  | .vsets f => f.c1.toNat ≤ 7 && f.c2 == 0 && f.c3 == 0 && f.litOk
  | .vcnt f => f.c1 == 0 && f.c2 == 0 && f.c3 == 0 && f.xs == 0 && f.lit.isNone
  -- vector, VA
  | .vadd f | .vsub f | .vmul f | .vfma f | .vdiv f => isFI f
  | .vmin f | .vmax f => isFI f && !f.sat
  | .vabs f | .vneg f => f.vb == 0 && f.v == 0 && ((isF f.ty && !f.sat) || isI f.ty)
  | .vand f | .vor f | .vxor f | .vshl f | .vshr f | .vsar f => isI f.ty && !f.sat && f.v == 0
  | .vcmpeq f | .vcmplt f | .vcmple f => isFI f && !f.sat && 1 ≤ f.vd.toNat && f.vd.toNat ≤ 7
  | .vsel f => f.m != 0 && !f.sat && (!isI f.ty || f.v == 0)
  | .vadds f | .vmuls f | .vfmas f => isFI f && f.vb.toNat ≤ 7
  | .vexp2 f | .vlog2 f | .vrcp f | .vrsqrt f | .vtanh f | .vsinpi f | .vcospi f => isF f.ty && f.vb == 0 && !f.sat
  | .vrsum f | .vrmax f | .vrmin f | .vscan f => (isF f.ty || isI f.ty) && f.vb == 0 && f.v != 3
  | .vtopk f => (isF f.ty || f.ty == 5) && f.vb.toNat ≤ 7 && f.v.toNat ≤ 1 && !f.sat
  | .vargmax f => (isF f.ty || isI f.ty) && f.vb == 0 && f.v != 3 && !f.sat
  | .vcvt f => !bit f.vb 4 && (!bit f.vb 3 || f.ty == 7)
  | .vcvtsr f => f.v == 0 && ((f.ty == 0 && 1 ≤ f.vb.toNat && f.vb.toNat ≤ 4) ||
      ((f.ty == 1 || f.ty == 2) && (f.vb == 3 || f.vb == 4)))
  | .vqmx f => isF f.ty && f.vb.toNat ≤ 4 && f.m == 0 && !f.sat
  | .vdqmx f => isF f.ty && f.vb.toNat ≤ 4
  | .vperm f => !f.sat && f.v == 0
  | .vtrans f => f.m == 0 && f.vb == 0 && !f.sat && f.v == 0
  | .vbcast f => !f.sat && (if f.v == 3 then f.va == 0 && f.vb.toNat ≤ 7 else f.vb == 0)
  | .vgath f => f.m == 0 && !f.sat && f.v == 0 && isI f.ty
  | .vmov f => f.vb == 0 && !f.sat && f.v != 3 &&
      (f.v == 0 || (f.ty == 0 && f.m == 0 && (if f.v == 1 then f.va.toNat ≤ 7 else 1 ≤ f.vd.toNat && f.vd.toNat ≤ 7)))
  -- vector, VT
  | .vldt f => f.va == 0 && f.ty == 0 && !f.sat && (f.v != 3 || (f.tile.toNat ≤ 7 && f.tag == 0))
  | .vstt f => (bit f.vd 4 || f.vd == 0) && !f.sat && (f.v != 3 || (f.tile.toNat ≤ 7 && f.tag == 0))
  -- matrix and draw
  | .mcfg f => f.litOk && mcfgSel f.sel.toNat
  | .mdesc f => f.litOk && mdescSel f.sel.toNat
  | .munf f => f.litOk && f.sel.toNat ≤ 4
  | .mgo f | .mjoin f => f.acc == 0 && f.mode.toNat ≤ 1
  | .mout f => f.ben || f.k == 0
  | .msave f | .mload f => f.slot.toNat ≤ 5
  | .mzero f => f.slot.toNat ≤ 2
  | .mstat f => f.slot == 0 && f.acc == 0
  | .mclrf f => f.slot == 0
  | .dcfg f => f.litOk && f.sel.toNat ≤ 4
  | .dkey f => f.litOk && bits f.sel 5 0 ≤ 47 && bits f.sel 8 6 ≤ 4 && bits f.sel 11 9 == 0
  | .dctr f => f.litOk && f.sel.toNat ≤ 47
  | .dctrr f => f.sel.toNat ≤ 47 && f.xs == 0 && f.lit.isNone
  | .dgram f => f.acc == 0 && f.tb == 0 && f.gb == 0 && f.mode.toNat ≤ 1
  | .dsamp f => f.acc == 0 && f.ta == 0 && f.ga == 0 && f.tb == 0 && f.gb == 0 && f.mode.toNat ≤ 1
  | .dclus f | .dargmax f => f.acc == 0 && f.ta == 0 && f.ga == 0 && f.tb == 0 && f.gb == 0 && f.mode == 0
  | .daccept f => f.acc == 0 && f.tb == 0 && f.gb == 0 && f.mode == 0
  -- Ferry
  | .fld f | .fldp f | .fswi f | .ffill f => f.load
  | .fst f | .fstp f | .ftt f | .fttp f | .fswp f | .fnear f | .fred f => f.store
  | .fbb f => f.store && f.tile == 0 && f.tag == 0
  | .fpbinv f => f.tile == 0 && f.tag == 0 && !f.acq && !f.rel && f.scope == 0 && !f.cnt && f.ch == 0
  | .fwp f => f.tag == 0 && !f.acq && !f.rel && f.scope == 0 && (f.tile == 0 || (8 ≤ f.tile.toNat && f.tile.toNat ≤ 31))
  -- gather
  | .gkv _ | .gapp _ | .gemb _ | .gscore _ | .gcompact _ | .glen _ => true
  | .gref f | .gcow f | .gtrunc f | .gbminv f | .gfree f | .galloc f => f.noTile
  -- events have no fields in a lane
  | _ => true

/-- A well-formed instruction: it passes both checks. -/
def Instr.wf (i : Instr) : Bool := i.guardOk && i.fieldsOk

end Sys2Proof
end

