-- ==== Sys2Proof/Decode.lean ====
section
/-! DEFINITION. Decoding and encoding (spec 02_bundles_and_encodings): the fields of each format (Tables 2.5 and 2.6),
the opcode spaces of the five engines (Tables 2.8 to 2.12), the decode of one lane with its literals, the decode of a
whole bundle with every check of R24 in its order, and the encoder. -/

namespace Sys2Proof

/-- The five opcode spaces (R39); a Ferry lane's tag names its queue (R40). -/
inductive Eng where
  | shuttle | vector | matrix | ferryLoad | ferryStore | gather
deriving DecidableEq, Repr

/-- The decode faults of Table 2.13. -/
inductive DecodeFault where
  | illegalLane | illegalOp | illegalGuard
deriving DecidableEq, Repr

/-- The engine of a tag 0x1 to 0x6 (Table 2.2). -/
def engOfTag : Nat → Option Eng
  | 1 => some .shuttle
  | 2 => some .vector
  | 3 => some .matrix
  | 4 => some .ferryLoad
  | 5 => some .ferryStore
  | 6 => some .gather
  | _ => none

/-- The tag of an engine (Table 2.2). -/
def tagOfEng : Eng → Nat
  | .shuttle => 1
  | .vector => 2
  | .matrix => 3
  | .ferryLoad => 4
  | .ferryStore => 5
  | .gather => 6

/-- The queue of an engine; none for the Shuttle (Table 2.2). -/
def queueOfEng : Eng → Option Queue
  | .shuttle => none
  | .vector => some .vector
  | .matrix => some .matrix
  | .ferryLoad => some .ferryLoad
  | .ferryStore => some .ferryStore
  | .gather => some .gather

/-! ### Fields (Tables 2.5 and 2.6) -/

/-- Format SA. -/
def readSA (w : LaneWord) : SA :=
  { d := w.extractLsb' 18 6, a := w.extractLsb' 12 6, b := w.extractLsb' 6 6, t := bit w 5,
    p := w.extractLsb' 2 3, n := bit w 1, w := bit w 0 }
/-- Format SI. -/
def readSI (w : LaneWord) (l : Lit) : SI :=
  { d := w.extractLsb' 18 6, a := w.extractLsb' 12 6, imm := w.extractLsb' 0 12, lit := l }
/-- Format SS. -/
def readSS (w : LaneWord) (l : Lit) : SS :=
  { data := w.extractLsb' 18 6, base := w.extractLsb' 12 6, off := w.extractLsb' 5 7,
    p := w.extractLsb' 2 3, n := bit w 1, t := bit w 0, lit := l }
/-- Format SB. -/
def readSB (w : LaneWord) : SB := { p := w.extractLsb' 21 3, n := bit w 20, disp := w.extractLsb' 0 20 }
/-- Format SL. -/
def readSL (w : LaneWord) (l : Lit) : SL := { d := w.extractLsb' 18 6, imm := w.extractLsb' 0 18, lit := l }
/-- Format VA. -/
def readVA (w : LaneWord) : VA :=
  { vd := w.extractLsb' 19 5, va := w.extractLsb' 14 5, vb := w.extractLsb' 9 5, ty := w.extractLsb' 6 3,
    m := w.extractLsb' 3 3, sat := bit w 2, v := w.extractLsb' 0 2 }
/-- Format VT. -/
def readVT (w : LaneWord) : VT :=
  { vd := w.extractLsb' 19 5, va := w.extractLsb' 14 5, tile := w.extractLsb' 8 6, tag := w.extractLsb' 6 2,
    ty := w.extractLsb' 3 3, sat := bit w 2, v := w.extractLsb' 0 2 }
/-- Format VC. -/
def readVC (w : LaneWord) (l : Lit) : VC :=
  { c1 := w.extractLsb' 18 6, c2 := w.extractLsb' 12 6, c3 := w.extractLsb' 6 6, xs := w.extractLsb' 0 6, lit := l }
/-- Format MT. -/
def readMT (w : LaneWord) : MT :=
  { acc := w.extractLsb' 22 2, ta := w.extractLsb' 16 6, ga := w.extractLsb' 14 2, tb := w.extractLsb' 8 6,
    gb := w.extractLsb' 6 2, cnt := bit w 5, mode := w.extractLsb' 0 5 }
/-- Format MX. -/
def readMX (w : LaneWord) (l : Lit) : MX :=
  { xs := w.extractLsb' 18 6, sel := w.extractLsb' 6 12, cnt := bit w 5, lit := l }
/-- Format MO. -/
def readMO (w : LaneWord) : MO :=
  { acc := w.extractLsb' 22 2, tile := w.extractLsb' 16 6, tag := w.extractLsb' 14 2, ty := w.extractLsb' 11 3,
    rnd := w.extractLsb' 9 2, ben := bit w 8, k := w.extractLsb' 4 4, cnt := bit w 3 }
/-- Format MS. -/
def readMS (w : LaneWord) : MS := { acc := w.extractLsb' 22 2, slot := w.extractLsb' 19 3, cnt := bit w 5 }
/-- Format FM, in the queue that the tag names. -/
def readFM (st : Bool) (w : LaneWord) : FM :=
  { st := st, tile := w.extractLsb' 18 6, tag := w.extractLsb' 16 2, xa := w.extractLsb' 10 6, acq := bit w 9,
    rel := bit w 8, scope := w.extractLsb' 5 3, cnt := bit w 4, ch := w.extractLsb' 0 4 }
/-- Format GM. -/
def readGM (w : LaneWord) : GM :=
  { tile := w.extractLsb' 18 6, tag := w.extractLsb' 16 2, xs := w.extractLsb' 10 6, xb := w.extractLsb' 4 6,
    cnt := bit w 3 }

/-- One row of an opcode table: the opcode, whether its format takes a literal (Tables 2.5 and 2.6), the bits that
must be zero because the format marks them Reserved (R34), and the instruction read from the lane. -/
abbrev OpRow := Nat × Bool × Nat × (LaneWord → Lit → Instr)

/-! ### Opcode maps -/

/-- Table 2.8, the Shuttle, part 1. -/
def shuttleOps0 : List OpRow :=
  [(0x01, false, 0x0, fun w _ => .add (readSA w)),
   (0x02, false, 0x0, fun w _ => .sub (readSA w)),
   (0x03, false, 0x0, fun w _ => .mul (readSA w)),
   (0x04, false, 0x0, fun w _ => .mulh (readSA w)),
   (0x05, false, 0x0, fun w _ => .div (readSA w)),
   (0x06, false, 0x0, fun w _ => .divu (readSA w)),
   (0x07, false, 0x0, fun w _ => .rem (readSA w)),
   (0x08, false, 0x0, fun w _ => .and (readSA w)),
   (0x09, false, 0x0, fun w _ => .or (readSA w)),
   (0x0A, false, 0x0, fun w _ => .xor (readSA w)),
   (0x0B, false, 0x0, fun w _ => .shl (readSA w)),
   (0x0C, false, 0x0, fun w _ => .shr (readSA w)),
   (0x0D, false, 0x0, fun w _ => .sar (readSA w)),
   (0x0E, false, 0x0, fun w _ => .clz (readSA w)),
   (0x0F, false, 0x0, fun w _ => .popc (readSA w)),
   (0x10, false, 0x0, fun w _ => .min (readSA w)),
   (0x11, false, 0x0, fun w _ => .max (readSA w)),
   (0x12, false, 0x0, fun w _ => .sel (readSA w)),
   (0x13, true, 0x0, fun w l => .addi (readSI w l)),
   (0x14, true, 0x0, fun w l => .andi (readSI w l)),
   (0x15, true, 0x0, fun w l => .ori (readSI w l)),
   (0x16, true, 0x0, fun w l => .xori (readSI w l)),
   (0x17, true, 0x0, fun w l => .shli (readSI w l)),
   (0x18, true, 0x0, fun w l => .shri (readSI w l))]

/-- Table 2.8, the Shuttle, part 2. -/
def shuttleOps1 : List OpRow :=
  [(0x19, true, 0x0, fun w l => .sari (readSI w l)),
   (0x1A, true, 0x0, fun w l => .li (readSL w l)),
   (0x1B, true, 0x0, fun w l => .addpc (readSL w l)),
   (0x1C, false, 0x0, fun w _ => .ceq (readSA w)),
   (0x1D, false, 0x0, fun w _ => .clt (readSA w)),
   (0x1E, false, 0x0, fun w _ => .cltu (readSA w)),
   (0x1F, true, 0x0, fun w l => .ceqi (readSI w l)),
   (0x20, true, 0x0, fun w l => .clti (readSI w l)),
   (0x21, false, 0x0, fun w _ => .pand (readSA w)),
   (0x22, false, 0x0, fun w _ => .por (readSA w)),
   (0x23, false, 0x0, fun w _ => .pxor (readSA w)),
   (0x24, false, 0x0, fun w _ => .movp (readSA w)),
   (0x25, false, 0x0, fun w _ => .pset (readSA w)),
   (0x30, false, 0x0, fun w _ => .fadd (readSA w)),
   (0x31, false, 0x0, fun w _ => .fsub (readSA w)),
   (0x32, false, 0x0, fun w _ => .fmul (readSA w)),
   (0x33, false, 0x0, fun w _ => .fdiv (readSA w)),
   (0x34, false, 0x0, fun w _ => .fsqrt (readSA w)),
   (0x35, false, 0x0, fun w _ => .fma (readSA w)),
   (0x36, false, 0x0, fun w _ => .fmin (readSA w)),
   (0x37, false, 0x0, fun w _ => .fmax (readSA w)),
   (0x38, false, 0x0, fun w _ => .fceq (readSA w)),
   (0x39, false, 0x0, fun w _ => .fclt (readSA w)),
   (0x3A, false, 0x0, fun w _ => .fcvti (readSA w))]

/-- Table 2.8, the Shuttle, part 3. -/
def shuttleOps2 : List OpRow :=
  [(0x3B, false, 0x0, fun w _ => .fcvtf (readSA w)),
   (0x3C, false, 0x0, fun w _ => .fkey (readSA w)),
   (0x40, true, 0x0, fun w l => .ldb (readSI w l)),
   (0x41, true, 0x0, fun w l => .ldbu (readSI w l)),
   (0x42, true, 0x0, fun w l => .ldh (readSI w l)),
   (0x43, true, 0x0, fun w l => .ldhu (readSI w l)),
   (0x44, true, 0x0, fun w l => .ldw (readSI w l)),
   (0x45, true, 0x0, fun w l => .ldwu (readSI w l)),
   (0x46, true, 0x0, fun w l => .ldd (readSI w l)),
   (0x47, true, 0x0, fun w l => .stb (readSS w l)),
   (0x48, true, 0x0, fun w l => .sth (readSS w l)),
   (0x49, true, 0x0, fun w l => .stw (readSS w l)),
   (0x4A, true, 0x0, fun w l => .std (readSS w l)),
   (0x4B, false, 0x0, fun w _ => .ldblk (readSA w)),
   (0x4C, true, 0x0, fun w l => .pref (readSI w l)),
   (0x4D, true, 0x0, fun w l => .ldn (readSI w l)),
   (0x4E, true, 0x0, fun w l => .stn (readSS w l)),
   (0x50, false, 0x0, fun w _ => .aadd (readSA w)),
   (0x51, false, 0x0, fun w _ => .aand (readSA w)),
   (0x52, false, 0x0, fun w _ => .aor (readSA w)),
   (0x53, false, 0x0, fun w _ => .axor (readSA w)),
   (0x54, false, 0x0, fun w _ => .amin (readSA w)),
   (0x55, false, 0x0, fun w _ => .amax (readSA w)),
   (0x56, false, 0x0, fun w _ => .aswap (readSA w))]

/-- Table 2.8, the Shuttle, part 4. -/
def shuttleOps3 : List OpRow :=
  [(0x57, false, 0x0, fun w _ => .acas (readSA w)),
   (0x58, false, 0x0, fun w _ => .afadd (readSA w)),
   (0x60, false, 0x0, fun w _ => .br (readSB w)),
   (0x61, false, 0x0, fun w _ => .call (readSB w)),
   (0x62, false, 0x0, fun w _ => .jr (readSA w)),
   (0x63, false, 0x0, fun w _ => .callr (readSA w)),
   (0x64, false, 0x0, fun w _ => .ret (readSA w)),
   (0x65, true, 0x0, fun w l => .loop (readSL w l)),
   (0x66, true, 0x0, fun w l => .trap (readSI w l)),
   (0x70, false, 0x0, fun w _ => .bind (readSA w)),
   (0x71, true, 0x0, fun w l => .unbind (readSI w l)),
   (0x72, false, 0x0, fun w _ => .acq (readSA w)),
   (0x73, false, 0x0, fun w _ => .rel (readSA w)),
   (0x74, true, 0x0, fun w l => .acqAll (readSI w l)),
   (0x75, true, 0x0, fun w l => .relAll (readSI w l)),
   (0x76, true, 0x0, fun w l => .mfence (readSI w l)),
   (0x77, false, 0x0, fun w _ => .flagw (readSA w)),
   (0x78, false, 0x0, fun w _ => .flagadd (readSA w)),
   (0x79, true, 0x0, fun w l => .flagr (readSI w l)),
   (0x80, false, 0x0, fun w _ => .spawn (readSA w)),
   (0x81, false, 0x0, fun w _ => .take (readSA w)),
   (0x82, false, 0x0, fun w _ => .takeW (readSA w)),
   (0x83, false, 0x0, fun w _ => .done (readSA w)),
   (0x84, false, 0x0, fun w _ => .cancel (readSA w))]

/-- Table 2.8, the Shuttle, part 5. -/
def shuttleOps4 : List OpRow :=
  [(0x85, false, 0x0, fun w _ => .repri (readSA w)),
   (0x86, false, 0x0, fun w _ => .join (readSA w)),
   (0x87, false, 0x0, fun w _ => .tstat (readSA w)),
   (0x88, false, 0x0, fun w _ => .tkv (readSA w)),
   (0x89, false, 0x0, fun w _ => .hcfg (readSA w)),
   (0x8A, false, 0x0, fun w _ => .hflush (readSA w)),
   (0x8B, false, 0x0, fun w _ => .hstat (readSA w)),
   (0x90, false, 0x0, fun w _ => .nalloc (readSA w)),
   (0x91, false, 0x0, fun w _ => .nfree (readSA w)),
   (0x92, false, 0x0, fun w _ => .nld (readSA w)),
   (0x93, false, 0x0, fun w _ => .nst (readSA w)),
   (0x94, false, 0x0, fun w _ => .nvloss (readSA w)),
   (0x95, false, 0x0, fun w _ => .nback (readSA w)),
   (0xA0, true, 0x0, fun w l => .srd (readSI w l)),
   (0xA1, true, 0x0, fun w l => .swr (readSI w l)),
   (0xA2, false, 0x0, fun w _ => .tlbinv (readSA w)),
   (0xA3, true, 0x0, fun w l => .tlbinva (readSI w l)),
   (0xA4, false, 0x0, fun w _ => .ctxsave (readSA w)),
   (0xA5, false, 0x0, fun w _ => .ctxload (readSA w)),
   (0xA6, false, 0x0, fun w _ => .launch (readSA w)),
   (0xA7, true, 0x0, fun w l => .phaseB (readSI w l)),
   (0xA8, true, 0x0, fun w l => .phaseC (readSI w l)),
   (0xA9, true, 0x0, fun w l => .phaseX (readSI w l)),
   (0xAA, true, 0x0, fun w l => .rte (readSI w l))]

/-- Table 2.8, the Shuttle, part 6. -/
def shuttleOps5 : List OpRow :=
  [(0xAB, false, 0x0, fun w _ => .pick (readSA w)),
   (0xAC, true, 0x0, fun w l => .rtdrain (readSI w l)),
   (0xAD, false, 0x0, fun w _ => .rtset (readSA w)),
   (0xAE, true, 0x0, fun w l => .rtfence (readSI w l))]

/-- Table 2.8, the Shuttle. -/
def shuttleOps : List OpRow := shuttleOps0 ++ shuttleOps1 ++ shuttleOps2 ++ shuttleOps3 ++ shuttleOps4 ++ shuttleOps5

/-- Table 2.9, the vector engine, part 1. -/
def vectorOps0 : List OpRow :=
  [(0x01, true, 0x0, fun w l => .vshape (readVC w l)),
   (0x02, true, 0x0, fun w l => .vrot (readVC w l)),
   (0x03, true, 0x0, fun w l => .vadv (readVC w l)),
   (0x04, true, 0x0, fun w l => .rep (readVC w l)),
   (0x05, true, 0x0, fun w l => .vsets (readVC w l)),
   (0x06, true, 0x0, fun w l => .vcnt (readVC w l)),
   (0x10, false, 0x0, fun w _ => .vadd (readVA w)),
   (0x11, false, 0x0, fun w _ => .vsub (readVA w)),
   (0x12, false, 0x0, fun w _ => .vmul (readVA w)),
   (0x13, false, 0x0, fun w _ => .vfma (readVA w)),
   (0x14, false, 0x0, fun w _ => .vmin (readVA w)),
   (0x15, false, 0x0, fun w _ => .vmax (readVA w)),
   (0x16, false, 0x0, fun w _ => .vabs (readVA w)),
   (0x17, false, 0x0, fun w _ => .vneg (readVA w)),
   (0x18, false, 0x0, fun w _ => .vdiv (readVA w)),
   (0x19, false, 0x0, fun w _ => .vand (readVA w)),
   (0x1A, false, 0x0, fun w _ => .vor (readVA w)),
   (0x1B, false, 0x0, fun w _ => .vxor (readVA w)),
   (0x1C, false, 0x0, fun w _ => .vshl (readVA w)),
   (0x1D, false, 0x0, fun w _ => .vshr (readVA w)),
   (0x1E, false, 0x0, fun w _ => .vsar (readVA w)),
   (0x1F, false, 0x0, fun w _ => .vcmpeq (readVA w)),
   (0x20, false, 0x0, fun w _ => .vcmplt (readVA w)),
   (0x21, false, 0x0, fun w _ => .vcmple (readVA w))]

/-- Table 2.9, the vector engine, part 2. -/
def vectorOps1 : List OpRow :=
  [(0x22, false, 0x0, fun w _ => .vsel (readVA w)),
   (0x23, false, 0x0, fun w _ => .vadds (readVA w)),
   (0x24, false, 0x0, fun w _ => .vmuls (readVA w)),
   (0x25, false, 0x0, fun w _ => .vfmas (readVA w)),
   (0x40, false, 0x0, fun w _ => .vexp2 (readVA w)),
   (0x41, false, 0x0, fun w _ => .vlog2 (readVA w)),
   (0x42, false, 0x0, fun w _ => .vrcp (readVA w)),
   (0x43, false, 0x0, fun w _ => .vrsqrt (readVA w)),
   (0x44, false, 0x0, fun w _ => .vtanh (readVA w)),
   (0x45, false, 0x0, fun w _ => .vsinpi (readVA w)),
   (0x46, false, 0x0, fun w _ => .vcospi (readVA w)),
   (0x50, false, 0x0, fun w _ => .vrsum (readVA w)),
   (0x51, false, 0x0, fun w _ => .vrmax (readVA w)),
   (0x52, false, 0x0, fun w _ => .vrmin (readVA w)),
   (0x53, false, 0x0, fun w _ => .vscan (readVA w)),
   (0x54, false, 0x0, fun w _ => .vtopk (readVA w)),
   (0x55, false, 0x0, fun w _ => .vargmax (readVA w)),
   (0x60, false, 0x0, fun w _ => .vcvt (readVA w)),
   (0x61, false, 0x0, fun w _ => .vcvtsr (readVA w)),
   (0x62, false, 0x0, fun w _ => .vqmx (readVA w)),
   (0x63, false, 0x0, fun w _ => .vdqmx (readVA w)),
   (0x70, false, 0x0, fun w _ => .vldt (readVT w)),
   (0x71, false, 0x0, fun w _ => .vstt (readVT w)),
   (0x72, false, 0x0, fun w _ => .vperm (readVA w))]

/-- Table 2.9, the vector engine, part 3. -/
def vectorOps2 : List OpRow :=
  [(0x73, false, 0x0, fun w _ => .vtrans (readVA w)),
   (0x74, false, 0x0, fun w _ => .vbcast (readVA w)),
   (0x75, false, 0x0, fun w _ => .vgath (readVA w)),
   (0x76, false, 0x0, fun w _ => .vmov (readVA w))]

/-- Table 2.9, the vector engine. -/
def vectorOps : List OpRow := vectorOps0 ++ vectorOps1 ++ vectorOps2

/-- Table 2.10, the matrix engine and the draw unit, part 1. -/
def matrixOps0 : List OpRow :=
  [(0x01, true, 0x1F, fun w l => .mcfg (readMX w l)),
   (0x02, false, 0x0, fun w _ => .mgo (readMT w)),
   (0x03, false, 0x0, fun w _ => .mjoin (readMT w)),
   (0x04, true, 0x1F, fun w l => .mdesc (readMX w l)),
   (0x05, true, 0x1F, fun w l => .munf (readMX w l)),
   (0x06, false, 0x7, fun w _ => .mout (readMO w)),
   (0x07, false, 0x7FFDF, fun w _ => .msave (readMS w)),
   (0x08, false, 0x7FFDF, fun w _ => .mload (readMS w)),
   (0x09, false, 0x7FFDF, fun w _ => .mzero (readMS w)),
   (0x0A, false, 0x7FFDF, fun w _ => .mstat (readMS w)),
   (0x0B, false, 0x7FFDF, fun w _ => .mclrf (readMS w)),
   (0x20, true, 0x1F, fun w l => .dcfg (readMX w l)),
   (0x21, true, 0x1F, fun w l => .dkey (readMX w l)),
   (0x22, true, 0x1F, fun w l => .dctr (readMX w l)),
   (0x23, true, 0x1F, fun w l => .dctrr (readMX w l)),
   (0x24, false, 0x0, fun w _ => .dgram (readMT w)),
   (0x25, false, 0x0, fun w _ => .dsamp (readMT w)),
   (0x26, false, 0x0, fun w _ => .dclus (readMT w)),
   (0x27, false, 0x0, fun w _ => .daccept (readMT w)),
   (0x28, false, 0x0, fun w _ => .dargmax (readMT w))]

/-- Table 2.10, the matrix engine and the draw unit. -/
def matrixOps : List OpRow := matrixOps0

/-- Table 2.11, the Ferry; the queue is checked with the fields (R40), part 1. -/
def ferryOps0 (st : Bool) : List OpRow :=
  [(0x01, false, 0x0, fun w _ => .fld (readFM st w)),
   (0x02, false, 0x0, fun w _ => .fldp (readFM st w)),
   (0x03, false, 0x0, fun w _ => .fst (readFM st w)),
   (0x04, false, 0x0, fun w _ => .fstp (readFM st w)),
   (0x05, false, 0x0, fun w _ => .ftt (readFM st w)),
   (0x06, false, 0x0, fun w _ => .fttp (readFM st w)),
   (0x07, false, 0x0, fun w _ => .fbb (readFM st w)),
   (0x08, false, 0x0, fun w _ => .fswp (readFM st w)),
   (0x09, false, 0x0, fun w _ => .fswi (readFM st w)),
   (0x0A, false, 0x0, fun w _ => .ffill (readFM st w)),
   (0x0B, false, 0x0, fun w _ => .fnear (readFM st w)),
   (0x0C, false, 0x0, fun w _ => .fred (readFM st w)),
   (0x0D, false, 0x0, fun w _ => .fpbinv (readFM st w)),
   (0x0E, false, 0x0, fun w _ => .fwp (readFM st w))]

/-- Table 2.11, the Ferry; the queue is checked with the fields (R40). -/
def ferryOps (st : Bool) : List OpRow := ferryOps0 st

/-- Table 2.12, the gather engine, part 1. -/
def gatherOps0 : List OpRow :=
  [(0x01, false, 0x7, fun w _ => .gkv (readGM w)),
   (0x02, false, 0x7, fun w _ => .gapp (readGM w)),
   (0x03, false, 0x7, fun w _ => .gemb (readGM w)),
   (0x04, false, 0x7, fun w _ => .gref (readGM w)),
   (0x05, false, 0x7, fun w _ => .gcow (readGM w)),
   (0x06, false, 0x7, fun w _ => .gscore (readGM w)),
   (0x07, false, 0x7, fun w _ => .gcompact (readGM w)),
   (0x08, false, 0x7, fun w _ => .gtrunc (readGM w)),
   (0x09, false, 0x7, fun w _ => .glen (readGM w)),
   (0x0A, false, 0x7, fun w _ => .gbminv (readGM w)),
   (0x0B, false, 0x7, fun w _ => .gfree (readGM w)),
   (0x0C, false, 0x7, fun w _ => .galloc (readGM w))]

/-- Table 2.12, the gather engine. -/
def gatherOps : List OpRow := gatherOps0

/-- The opcode table of an engine (R39). -/
def opTable : Eng → List OpRow
  | .shuttle => shuttleOps
  | .vector => vectorOps
  | .matrix => matrixOps
  | .ferryLoad => ferryOps false
  | .ferryStore => ferryOps true
  | .gather => gatherOps

/-- The row of an opcode, none where Tables 2.8 to 2.12 do not list it. -/
def findOp (e : Eng) (op : Nat) : Option OpRow := (opTable e).find? (fun r => r.1 == op)

/-- The guard check of R31. -/
def laneGuardOk (i : Instr) : Bool := i.guardOk
/-- The field checks of R24 that the entries give. -/
def laneFieldsOk (i : Instr) : Bool := i.fieldsOk

/-- Decode one lane with its literals: opcode, guard fields, reserved field values, in the order of R24. -/
def decodeLane (e : Eng) (w : LaneWord) (l : Lit) : Except DecodeFault Instr :=
  match findOp e (bits w 31 24) with
  | none => .error .illegalOp
  | some (_, _, res, mk) =>
    if !laneGuardOk (mk w l) then .error .illegalGuard
    else if w.toNat &&& res != 0 || !laneFieldsOk (mk w l) then .error .illegalOp
    else .ok (mk w l)

/-- The lane's format takes a literal (R19); an undefined opcode's takes none. -/
def takesLit (e : Eng) (w : LaneWord) : Bool :=
  match findOp e (bits w 31 24) with
  | some (_, lit, _, _) => lit
  | none => false

/-! ### The repeat prefix's decode rules (R224, R225) -/

/-- The files that the vd, va and vb (or tile) fields of a vector instruction name, as their moduli of R225; none where
the field holds neither a register nor a tile number. -/
def stepMods : Instr → Option Nat × Option Nat × Option Nat
  | .vadd _ | .vsub _ | .vmul _ | .vfma _ | .vmin _ | .vmax _ | .vdiv _ | .vand _ | .vor _ | .vxor _ | .vshl _
  | .vshr _ | .vsar _ | .vsel _ | .vperm _ | .vgath _ => (some 32, some 32, some 32)
  | .vcmpeq _ | .vcmplt _ | .vcmple _ => (some 8, some 32, some 32)
  | .vadds _ | .vmuls _ | .vfmas _ | .vtopk _ => (some 32, some 32, some 8)
  | .vabs _ | .vneg _ | .vexp2 _ | .vlog2 _ | .vrcp _ | .vrsqrt _ | .vtanh _ | .vsinpi _ | .vcospi _ | .vrsum _
  | .vrmax _ | .vrmin _ | .vscan _ | .vargmax _ | .vcvt _ | .vcvtsr _ | .vqmx _ | .vdqmx _ | .vtrans _ =>
      (some 32, some 32, none)
  | .vmov f => if f.v == 1 then (some 32, some 8, none) else if f.v == 2 then (some 8, some 32, none)
      else (some 32, some 32, none)
  | .vbcast f => if f.v == 3 then (some 32, none, some 8) else (some 32, some 32, none)
  | .vldt f => (some 32, none, if f.v == 3 then none else some 64)
  | .vstt f => (none, some 32, if f.v == 3 then none else some 64)
  | _ => (none, none, none)

/-- The stepping check of R225 for a partner under the step bits of its REP. -/
def stepOk (c2 : BitVec 6) (i : Instr) : Bool :=
  (!bit c2 0 || (stepMods i).1.isSome) && (!bit c2 1 || (stepMods i).2.1.isSome)
    && (!bit c2 2 || (stepMods i).2.2.isSome)

/-- A lane of format VC, which cannot be a partner (R224). -/
def isVC : Instr → Bool
  | .vshape _ | .vrot _ | .vadv _ | .rep _ | .vsets _ | .vcnt _ => true
  | _ => false

/-- A Shuttle lane that would push an entry into the vector queue (R224): the phase markers, an MFENCE that names the
vector queue, an SRD or SWR of SRCTR or VSTAT. -/
def pushesVector : Instr → Bool
  | .phaseB _ | .phaseC _ | .phaseX _ => true
  | .mfence f => bit f.imm 0
  | .srd f => f.imm == 3 || f.imm == 5
  | .swr f => f.imm == 3 || f.imm == 5
  | _ => false

/-- A Shuttle lane with an opcode in 0x60 to 0x6F (R26). -/
def isControl : Instr → Bool
  | .br _ | .call _ | .jr _ | .callr _ | .ret _ | .loop _ | .trap _ => true
  | _ => false

/-- An RTE lane (R400). -/
def isRte : Instr → Bool
  | .rte _ => true
  | _ => false

/-- A DCTRR lane, after which no literal may follow (R290). -/
def isDctrr : Instr → Bool
  | .dctrr _ => true
  | _ => false

/-- An RTSET lane with a literal lane behind it, which R324 gives ILLEGAL_OP although the format takes no literal
(R20); reported at the extended lane as R235 reports it (DEDUCED, log 77). -/
def routeLit (i : Instr) (rest : List (Nat × LaneWord)) : Bool :=
  match i, rest with
  | .rtset _, (7, _) :: _ => true
  | _, _ => false

/-! ### The bundle -/

/-- One lane of a decoded bundle: its number, its queue (none for the Shuttle) and its instruction. -/
structure Slot where
  lane : Nat
  queue : Option Queue
  instr : Instr
deriving DecidableEq, Repr

/-- A decoded bundle: its kind, lane 1 (the wait word or the time) and its instruction lanes in ascending order. -/
structure Bundle where
  kind : Nat
  word1 : BitVec 32
  slots : List Slot
deriving DecidableEq, Repr

/-- What the decode of a bundle carries from lane to lane. -/
structure DecodeCtx where
  takes : Bool
  lits : Nat
  afterDctrr : Bool
  control : Bool
  rte : Bool
  rep : Option (BitVec 6)
deriving DecidableEq, Repr

/-- The literals that follow a lane (R19): at most two. -/
def litOf : List (Nat × LaneWord) → Lit
  | (7, l1) :: (7, l2) :: _ => .two (l2 ++ l1)
  | (7, l1) :: _ => .one l1
  | _ => .none

/-- The literals as a decode of one lane sees them: a format without literals, and DCTRR, see none. -/
def laneLit (e : Eng) (w : LaneWord) (rest : List (Nat × LaneWord)) : Lit :=
  if takesLit e w && !(e == .matrix && bits w 31 24 == 0x23) then litOf rest else .none

/-- The pending REP after a lane, or the fault of the repeat-prefix rules; lanes before `start` have been taken
already, so their REP stands in the context (R28). -/
def repAfter (rep : Option (BitVec 6)) (i : Instr) (e : Eng) : Except DecodeFault (Option (BitVec 6)) :=
  match rep, e with
  | some c2, .vector => if isVC i || !stepOk c2 i then .error .illegalOp else .ok none
  | some c2, .shuttle => if pushesVector i then .error .illegalOp else .ok (some c2)
  | none, .vector => match i with
    | .rep f => .ok (some f.c2)
    | _ => .ok none
  | r, _ => .ok r

/-- Decode lanes n to 7 in order (R24): the first lane at fault is the lowest. -/
def decodeLanes (start : Nat) : Nat → List (Nat × LaneWord) → DecodeCtx → Except (Nat × DecodeFault) (List Slot)
  | _, [], _ => .ok []
  | n, (tag, w) :: rest, c =>
    if tag == 0 then decodeLanes start (n + 1) rest { c with takes := false, lits := 0, afterDctrr := false }
    else if tag == 7 then
      if !c.takes || 2 ≤ c.lits then .error (n, .illegalLane)
      else if c.afterDctrr then .error (n, .illegalOp)
      else if c.rte then .error (n, .illegalLane)
      else decodeLanes start (n + 1) rest { c with lits := c.lits + 1 }
    else match engOfTag tag with
      | none => .error (n, .illegalLane)
      | some e =>
        match decodeLane e w (laneLit e w rest) with
        | .error x => .error (n, x)
        | .ok i =>
          if routeLit i rest then .error (n, .illegalOp) else
          match (if n < start then .ok c.rep else repAfter c.rep i e) with
          | .error x => .error (n, x)
          | .ok rep =>
            if c.control && isControl i then .error (n, .illegalLane)
            else if c.rte then .error (n, .illegalLane)
            else match decodeLanes start (n + 1) rest
                { takes := takesLit e w, lits := 0, afterDctrr := isDctrr i, control := c.control || isControl i,
                  rte := isRte i, rep := rep } with
              | .error x => .error x
              | .ok r => .ok ({ lane := n, queue := queueOfEng e, instr := i } :: r)

/-- The first lane of a list with a tag other than 0, where kind 3 allows none (Table 2.3). -/
def firstTagged : Nat → List (Nat × LaneWord) → Option Nat
  | _, [] => none
  | n, (tag, _) :: rest => if tag != 0 then some n else firstTagged (n + 1) rest

/-- The lanes 1 to 7 of a bundle with their tags (R16, Table 2.1). -/
def taggedLanes (ws : List LaneWord) : List (Nat × LaneWord) :=
  match ws with
  | h :: rest => (List.range 7).map (fun i => (bits h (4 * i + 7) (4 * i + 4), rest.getD i 0))
  | [] => []

/-- Decode a whole bundle of eight lane words, resumed at lane `start` with the pending REP `rep`
(R24, R28, Table 2.13). -/
def decodeBundle (start : Nat) (rep : Option (BitVec 6)) (ws : List LaneWord) : Except (Nat × DecodeFault) Bundle :=
  let kind := bits (ws.getD 0 0) 3 0
  let lanes := taggedLanes ws
  let ctx : DecodeCtx := ⟨false, 0, false, false, false, rep⟩
  let w1 := ws.getD 1 0
  if 4 ≤ kind then .error (0, .illegalLane)
  else if kind == 3 then
    if rep.isSome then .error (0, .illegalOp)
    else match firstTagged 1 lanes with
      | some n => .error (n, .illegalLane)
      | none => .ok ⟨3, w1, []⟩
  else if kind == 0 then
    match decodeLanes start 1 lanes ctx with
    | .error x => .error x
    | .ok l => .ok ⟨0, w1, l⟩
  else if (lanes.getD 0 (0, 0)).1 != 0 || (kind == 1 && bits w1 26 25 == 3) then .error (1, .illegalLane)
  else match decodeLanes start 2 (lanes.drop 1) ctx with
    | .error x => .error x
    | .ok l => .ok ⟨kind, w1, l⟩

/-- The eight lane words of 32 bytes, little-endian (R2, R16). -/
def laneWords : List Byte → List LaneWord
  | b0 :: b1 :: b2 :: b3 :: rest => (b3 ++ b2 ++ b1 ++ b0) :: laneWords rest
  | _ => []

/-! ### The encoder -/

/-- The engine whose opcode space an instruction stands in; none for an event. -/
def engOf : Instr → Option Eng
  | .add _ | .sub _ | .mul _ | .mulh _ | .div _ | .divu _ | .rem _ | .and _
  | .or _ | .xor _ | .shl _ | .shr _ | .sar _ | .clz _ | .popc _ | .min _
  | .max _ | .sel _ | .addi _ | .andi _ | .ori _ | .xori _ | .shli _ | .shri _
  | .sari _ | .li _ | .addpc _ | .ceq _ | .clt _ | .cltu _ | .ceqi _ | .clti _
  | .pand _ | .por _ | .pxor _ | .movp _ | .pset _ | .fadd _ | .fsub _ | .fmul _
  | .fdiv _ | .fsqrt _ | .fma _ | .fmin _ | .fmax _ | .fceq _ | .fclt _ | .fcvti _
  | .fcvtf _ | .fkey _ | .ldb _ | .ldbu _ | .ldh _ | .ldhu _ | .ldw _ | .ldwu _
  | .ldd _ | .stb _ | .sth _ | .stw _ | .std _ | .ldblk _ | .pref _ | .ldn _
  | .stn _ | .aadd _ | .aand _ | .aor _ | .axor _ | .amin _ | .amax _ | .aswap _
  | .acas _ | .afadd _ | .br _ | .call _ | .jr _ | .callr _ | .ret _ | .loop _
  | .trap _ | .bind _ | .unbind _ | .acq _ | .rel _ | .acqAll _ | .relAll _ | .mfence _
  | .flagw _ | .flagadd _ | .flagr _ | .spawn _ | .take _ | .takeW _ | .done _ | .cancel _
  | .repri _ | .join _ | .tstat _ | .tkv _ | .hcfg _ | .hflush _ | .hstat _ | .nalloc _
  | .nfree _ | .nld _ | .nst _ | .nvloss _ | .nback _ | .srd _ | .swr _ | .tlbinv _
  | .tlbinva _ | .ctxsave _ | .ctxload _ | .launch _ | .phaseB _ | .phaseC _ | .phaseX _ | .rte _
  | .pick _ | .rtdrain _ | .rtset _ | .rtfence _
    => some .shuttle
  | .vshape _ | .vrot _ | .vadv _ | .rep _ | .vsets _ | .vcnt _ | .vadd _ | .vsub _
  | .vmul _ | .vfma _ | .vmin _ | .vmax _ | .vabs _ | .vneg _ | .vdiv _ | .vand _
  | .vor _ | .vxor _ | .vshl _ | .vshr _ | .vsar _ | .vcmpeq _ | .vcmplt _ | .vcmple _
  | .vsel _ | .vadds _ | .vmuls _ | .vfmas _ | .vexp2 _ | .vlog2 _ | .vrcp _ | .vrsqrt _
  | .vtanh _ | .vsinpi _ | .vcospi _ | .vrsum _ | .vrmax _ | .vrmin _ | .vscan _ | .vtopk _
  | .vargmax _ | .vcvt _ | .vcvtsr _ | .vqmx _ | .vdqmx _ | .vldt _ | .vstt _ | .vperm _
  | .vtrans _ | .vbcast _ | .vgath _ | .vmov _
    => some .vector
  | .mcfg _ | .mgo _ | .mjoin _ | .mdesc _ | .munf _ | .mout _ | .msave _ | .mload _
  | .mzero _ | .mstat _ | .mclrf _ | .dcfg _ | .dkey _ | .dctr _ | .dctrr _ | .dgram _
  | .dsamp _ | .dclus _ | .daccept _ | .dargmax _
    => some .matrix
  | .fld f | .fldp f | .fst f | .fstp f | .ftt f | .fttp f | .fbb f | .fswp f
  | .fswi f | .ffill f | .fnear f | .fred f | .fpbinv f | .fwp f
    => some (if f.st then .ferryStore else .ferryLoad)
  | .gkv _ | .gapp _ | .gemb _ | .gref _ | .gcow _ | .gscore _ | .gcompact _ | .gtrunc _
  | .glen _ | .gbminv _ | .gfree _ | .galloc _
    => some .gather
  | _ => none

/-- The literals of an instruction. -/
def litsOf : Instr → Lit
  | .addi f | .andi f | .ori f | .xori f | .shli f | .shri f | .sari f | .ceqi f
  | .clti f | .ldb f | .ldbu f | .ldh f | .ldhu f | .ldw f | .ldwu f | .ldd f
  | .pref f | .ldn f | .trap f | .unbind f | .acqAll f | .relAll f | .mfence f | .flagr f
  | .srd f | .swr f | .tlbinva f | .phaseB f | .phaseC f | .phaseX f | .rte f | .rtdrain f
  | .rtfence f
    => f.lit
  | .li f | .addpc f | .loop f
    => f.lit
  | .stb f | .sth f | .stw f | .std f | .stn f
    => f.lit
  | .vshape f | .vrot f | .vadv f | .rep f | .vsets f | .vcnt f
    => f.lit
  | .mcfg f | .mdesc f | .munf f | .dcfg f | .dkey f | .dctr f | .dctrr f
    => f.lit
  | _ => .none

/-- Format SA with its opcode. -/
def putSA (op : BitVec 8) (f : SA) : LaneWord := op ++ f.d ++ f.a ++ f.b ++ b1 f.t ++ f.p ++ b1 f.n ++ b1 f.w
/-- Format SI with its opcode. -/
def putSI (op : BitVec 8) (f : SI) : LaneWord := op ++ f.d ++ f.a ++ f.imm
/-- Format SS with its opcode. -/
def putSS (op : BitVec 8) (f : SS) : LaneWord := op ++ f.data ++ f.base ++ f.off ++ f.p ++ b1 f.n ++ b1 f.t
/-- Format SB with its opcode. -/
def putSB (op : BitVec 8) (f : SB) : LaneWord := op ++ f.p ++ b1 f.n ++ f.disp
/-- Format SL with its opcode. -/
def putSL (op : BitVec 8) (f : SL) : LaneWord := op ++ f.d ++ f.imm
/-- Format VA with its opcode. -/
def putVA (op : BitVec 8) (f : VA) : LaneWord := op ++ f.vd ++ f.va ++ f.vb ++ f.ty ++ f.m ++ b1 f.sat ++ f.v
/-- Format VT with its opcode. -/
def putVT (op : BitVec 8) (f : VT) : LaneWord := op ++ f.vd ++ f.va ++ f.tile ++ f.tag ++ f.ty ++ b1 f.sat ++ f.v
/-- Format VC with its opcode. -/
def putVC (op : BitVec 8) (f : VC) : LaneWord := op ++ f.c1 ++ f.c2 ++ f.c3 ++ f.xs
/-- Format MT with its opcode. -/
def putMT (op : BitVec 8) (f : MT) : LaneWord := op ++ f.acc ++ f.ta ++ f.ga ++ f.tb ++ f.gb ++ b1 f.cnt ++ f.mode
/-- Format MX with its opcode. -/
def putMX (op : BitVec 8) (f : MX) : LaneWord := op ++ f.xs ++ f.sel ++ b1 f.cnt ++ 0#5
/-- Format MO with its opcode. -/
def putMO (op : BitVec 8) (f : MO) : LaneWord :=
  op ++ f.acc ++ f.tile ++ f.tag ++ f.ty ++ f.rnd ++ b1 f.ben ++ f.k ++ b1 f.cnt ++ 0#3
/-- Format MS with its opcode. -/
def putMS (op : BitVec 8) (f : MS) : LaneWord := op ++ f.acc ++ f.slot ++ 0#13 ++ b1 f.cnt ++ 0#5
/-- Format FM with its opcode. -/
def putFM (op : BitVec 8) (f : FM) : LaneWord :=
  op ++ f.tile ++ f.tag ++ f.xa ++ b1 f.acq ++ b1 f.rel ++ f.scope ++ b1 f.cnt ++ f.ch
/-- Format GM with its opcode. -/
def putGM (op : BitVec 8) (f : GM) : LaneWord := op ++ f.tile ++ f.tag ++ f.xs ++ f.xb ++ b1 f.cnt ++ 0#3

/-- The 32-bit word of a lane instruction; 0 for an event, which has none. -/
def encodeWord : Instr → LaneWord
  | .add f => putSA 0x01 f
  | .sub f => putSA 0x02 f
  | .mul f => putSA 0x03 f
  | .mulh f => putSA 0x04 f
  | .div f => putSA 0x05 f
  | .divu f => putSA 0x06 f
  | .rem f => putSA 0x07 f
  | .and f => putSA 0x08 f
  | .or f => putSA 0x09 f
  | .xor f => putSA 0x0A f
  | .shl f => putSA 0x0B f
  | .shr f => putSA 0x0C f
  | .sar f => putSA 0x0D f
  | .clz f => putSA 0x0E f
  | .popc f => putSA 0x0F f
  | .min f => putSA 0x10 f
  | .max f => putSA 0x11 f
  | .sel f => putSA 0x12 f
  | .addi f => putSI 0x13 f
  | .andi f => putSI 0x14 f
  | .ori f => putSI 0x15 f
  | .xori f => putSI 0x16 f
  | .shli f => putSI 0x17 f
  | .shri f => putSI 0x18 f
  | .sari f => putSI 0x19 f
  | .li f => putSL 0x1A f
  | .addpc f => putSL 0x1B f
  | .ceq f => putSA 0x1C f
  | .clt f => putSA 0x1D f
  | .cltu f => putSA 0x1E f
  | .ceqi f => putSI 0x1F f
  | .clti f => putSI 0x20 f
  | .pand f => putSA 0x21 f
  | .por f => putSA 0x22 f
  | .pxor f => putSA 0x23 f
  | .movp f => putSA 0x24 f
  | .pset f => putSA 0x25 f
  | .fadd f => putSA 0x30 f
  | .fsub f => putSA 0x31 f
  | .fmul f => putSA 0x32 f
  | .fdiv f => putSA 0x33 f
  | .fsqrt f => putSA 0x34 f
  | .fma f => putSA 0x35 f
  | .fmin f => putSA 0x36 f
  | .fmax f => putSA 0x37 f
  | .fceq f => putSA 0x38 f
  | .fclt f => putSA 0x39 f
  | .fcvti f => putSA 0x3A f
  | .fcvtf f => putSA 0x3B f
  | .fkey f => putSA 0x3C f
  | .ldb f => putSI 0x40 f
  | .ldbu f => putSI 0x41 f
  | .ldh f => putSI 0x42 f
  | .ldhu f => putSI 0x43 f
  | .ldw f => putSI 0x44 f
  | .ldwu f => putSI 0x45 f
  | .ldd f => putSI 0x46 f
  | .stb f => putSS 0x47 f
  | .sth f => putSS 0x48 f
  | .stw f => putSS 0x49 f
  | .std f => putSS 0x4A f
  | .ldblk f => putSA 0x4B f
  | .pref f => putSI 0x4C f
  | .ldn f => putSI 0x4D f
  | .stn f => putSS 0x4E f
  | .aadd f => putSA 0x50 f
  | .aand f => putSA 0x51 f
  | .aor f => putSA 0x52 f
  | .axor f => putSA 0x53 f
  | .amin f => putSA 0x54 f
  | .amax f => putSA 0x55 f
  | .aswap f => putSA 0x56 f
  | .acas f => putSA 0x57 f
  | .afadd f => putSA 0x58 f
  | .br f => putSB 0x60 f
  | .call f => putSB 0x61 f
  | .jr f => putSA 0x62 f
  | .callr f => putSA 0x63 f
  | .ret f => putSA 0x64 f
  | .loop f => putSL 0x65 f
  | .trap f => putSI 0x66 f
  | .bind f => putSA 0x70 f
  | .unbind f => putSI 0x71 f
  | .acq f => putSA 0x72 f
  | .rel f => putSA 0x73 f
  | .acqAll f => putSI 0x74 f
  | .relAll f => putSI 0x75 f
  | .mfence f => putSI 0x76 f
  | .flagw f => putSA 0x77 f
  | .flagadd f => putSA 0x78 f
  | .flagr f => putSI 0x79 f
  | .spawn f => putSA 0x80 f
  | .take f => putSA 0x81 f
  | .takeW f => putSA 0x82 f
  | .done f => putSA 0x83 f
  | .cancel f => putSA 0x84 f
  | .repri f => putSA 0x85 f
  | .join f => putSA 0x86 f
  | .tstat f => putSA 0x87 f
  | .tkv f => putSA 0x88 f
  | .hcfg f => putSA 0x89 f
  | .hflush f => putSA 0x8A f
  | .hstat f => putSA 0x8B f
  | .nalloc f => putSA 0x90 f
  | .nfree f => putSA 0x91 f
  | .nld f => putSA 0x92 f
  | .nst f => putSA 0x93 f
  | .nvloss f => putSA 0x94 f
  | .nback f => putSA 0x95 f
  | .srd f => putSI 0xA0 f
  | .swr f => putSI 0xA1 f
  | .tlbinv f => putSA 0xA2 f
  | .tlbinva f => putSI 0xA3 f
  | .ctxsave f => putSA 0xA4 f
  | .ctxload f => putSA 0xA5 f
  | .launch f => putSA 0xA6 f
  | .phaseB f => putSI 0xA7 f
  | .phaseC f => putSI 0xA8 f
  | .phaseX f => putSI 0xA9 f
  | .rte f => putSI 0xAA f
  | .pick f => putSA 0xAB f
  | .rtdrain f => putSI 0xAC f
  | .rtset f => putSA 0xAD f
  | .rtfence f => putSI 0xAE f
  | .vshape f => putVC 0x01 f
  | .vrot f => putVC 0x02 f
  | .vadv f => putVC 0x03 f
  | .rep f => putVC 0x04 f
  | .vsets f => putVC 0x05 f
  | .vcnt f => putVC 0x06 f
  | .vadd f => putVA 0x10 f
  | .vsub f => putVA 0x11 f
  | .vmul f => putVA 0x12 f
  | .vfma f => putVA 0x13 f
  | .vmin f => putVA 0x14 f
  | .vmax f => putVA 0x15 f
  | .vabs f => putVA 0x16 f
  | .vneg f => putVA 0x17 f
  | .vdiv f => putVA 0x18 f
  | .vand f => putVA 0x19 f
  | .vor f => putVA 0x1A f
  | .vxor f => putVA 0x1B f
  | .vshl f => putVA 0x1C f
  | .vshr f => putVA 0x1D f
  | .vsar f => putVA 0x1E f
  | .vcmpeq f => putVA 0x1F f
  | .vcmplt f => putVA 0x20 f
  | .vcmple f => putVA 0x21 f
  | .vsel f => putVA 0x22 f
  | .vadds f => putVA 0x23 f
  | .vmuls f => putVA 0x24 f
  | .vfmas f => putVA 0x25 f
  | .vexp2 f => putVA 0x40 f
  | .vlog2 f => putVA 0x41 f
  | .vrcp f => putVA 0x42 f
  | .vrsqrt f => putVA 0x43 f
  | .vtanh f => putVA 0x44 f
  | .vsinpi f => putVA 0x45 f
  | .vcospi f => putVA 0x46 f
  | .vrsum f => putVA 0x50 f
  | .vrmax f => putVA 0x51 f
  | .vrmin f => putVA 0x52 f
  | .vscan f => putVA 0x53 f
  | .vtopk f => putVA 0x54 f
  | .vargmax f => putVA 0x55 f
  | .vcvt f => putVA 0x60 f
  | .vcvtsr f => putVA 0x61 f
  | .vqmx f => putVA 0x62 f
  | .vdqmx f => putVA 0x63 f
  | .vldt f => putVT 0x70 f
  | .vstt f => putVT 0x71 f
  | .vperm f => putVA 0x72 f
  | .vtrans f => putVA 0x73 f
  | .vbcast f => putVA 0x74 f
  | .vgath f => putVA 0x75 f
  | .vmov f => putVA 0x76 f
  | .mcfg f => putMX 0x01 f
  | .mgo f => putMT 0x02 f
  | .mjoin f => putMT 0x03 f
  | .mdesc f => putMX 0x04 f
  | .munf f => putMX 0x05 f
  | .mout f => putMO 0x06 f
  | .msave f => putMS 0x07 f
  | .mload f => putMS 0x08 f
  | .mzero f => putMS 0x09 f
  | .mstat f => putMS 0x0A f
  | .mclrf f => putMS 0x0B f
  | .dcfg f => putMX 0x20 f
  | .dkey f => putMX 0x21 f
  | .dctr f => putMX 0x22 f
  | .dctrr f => putMX 0x23 f
  | .dgram f => putMT 0x24 f
  | .dsamp f => putMT 0x25 f
  | .dclus f => putMT 0x26 f
  | .daccept f => putMT 0x27 f
  | .dargmax f => putMT 0x28 f
  | .fld f => putFM 0x01 f
  | .fldp f => putFM 0x02 f
  | .fst f => putFM 0x03 f
  | .fstp f => putFM 0x04 f
  | .ftt f => putFM 0x05 f
  | .fttp f => putFM 0x06 f
  | .fbb f => putFM 0x07 f
  | .fswp f => putFM 0x08 f
  | .fswi f => putFM 0x09 f
  | .ffill f => putFM 0x0A f
  | .fnear f => putFM 0x0B f
  | .fred f => putFM 0x0C f
  | .fpbinv f => putFM 0x0D f
  | .fwp f => putFM 0x0E f
  | .gkv f => putGM 0x01 f
  | .gapp f => putGM 0x02 f
  | .gemb f => putGM 0x03 f
  | .gref f => putGM 0x04 f
  | .gcow f => putGM 0x05 f
  | .gscore f => putGM 0x06 f
  | .gcompact f => putGM 0x07 f
  | .gtrunc f => putGM 0x08 f
  | .glen f => putGM 0x09 f
  | .gbminv f => putGM 0x0A f
  | .gfree f => putGM 0x0B f
  | .galloc f => putGM 0x0C f
  | _ => 0

/-- The literal lanes as words, the first after the lane first (R19). -/
def litWords : Lit → List LaneWord
  | .none => []
  | .one l => [l]
  | .two v => [v.extractLsb' 0 32, v.extractLsb' 32 32]

/-- The words of an instruction: its lane and its literal lanes; nothing for an event. -/
def encode (i : Instr) : List LaneWord :=
  match engOf i with
  | some _ => encodeWord i :: litWords (litsOf i)
  | none => []

/-- Decode the words that `encode` gives, in the opcode space of an engine. -/
def decodeWords (e : Eng) (ws : List LaneWord) : Except DecodeFault Instr :=
  match ws with
  | [w] => decodeLane e w .none
  | [w, l1] => decodeLane e w (.one l1)
  | [w, l1, l2] => decodeLane e w (.two (l2 ++ l1))
  | _ => .error .illegalOp

/-- The opcode spaces in the order in which `decodeTableWord` tries them: a row's 32 bits do not hold the lane's tag,
which stands in the bundle's header (R16). -/
def engOrder : List Eng := [.shuttle, .vector, .matrix, .ferryLoad, .ferryStore, .gather]

/-- The engine and instruction of 32 bits without a tag: the first opcode space that accepts them. -/
def decodeAny (w : LaneWord) : Option (Eng × Instr) :=
  engOrder.findSome? (fun e => match decodeLane e w .none with
    | .ok i => some (e, i)
    | .error _ => none)

/-- The instruction of a word of the opcode table; an event has no bits, so a row of no bits gives none. -/
def decodeTableWord (nbits w : Nat) : Option Instr :=
  if nbits == 32 then (decodeAny (BitVec.ofNat 32 w)).map (·.2) else none

/-! ### Words written out from the encodings -/

/-- ADD x5, x3, x4 (the spec's own encoding). -/
theorem decode_add_word : decodeLane .shuttle 0x01143100 .none = .ok (.add ⟨5, 3, 4, false, 0, false, false⟩) := by decide +kernel

/-- MUL.w x9, x9, x10 (the spec's own encoding). -/
theorem decode_mul_word : decodeLane .shuttle 0x03249281 .none = .ok (.mul ⟨9, 9, 10, false, 0, false, true⟩) := by decide +kernel

/-- SEL p3, x7, x5, x6 (the spec's own encoding). -/
theorem decode_sel_word : decodeLane .shuttle 0x121C518C .none = .ok (.sel ⟨7, 5, 6, false, 3, false, false⟩) := by decide +kernel

/-- LI x7 with a literal (the spec's own encoding). -/
theorem decode_li_word : decodeLane .shuttle 0x1A1C0000 (.one 0x12345678) = .ok (.li ⟨7, 0, .one 0x12345678⟩) := by decide +kernel

/-- CLT p2, x7, x9 (the spec's own encoding). -/
theorem decode_clt_word : decodeLane .shuttle 0x1D087240 .none = .ok (.clt ⟨2, 7, 9, false, 0, false, false⟩) := by decide +kernel

/-- CEQI p1, x4, 0 (the spec's own encoding). -/
theorem decode_ceqi_word : decodeLane .shuttle 0x1F044000 .none = .ok (.ceqi ⟨1, 4, 0, .none⟩) := by decide +kernel

/-- FMA x8, x6, x7 (the spec's own encoding). -/
theorem decode_fma_word : decodeLane .shuttle 0x352061C0 .none = .ok (.fma ⟨8, 6, 7, false, 0, false, false⟩) := by decide +kernel

/-- LDW x5, 16(x3) (the spec's own encoding). -/
theorem decode_ldw_word : decodeLane .shuttle 0x44143010 .none = .ok (.ldw ⟨5, 3, 16, .none⟩) := by decide +kernel

/-- STD x5, -8(x3) (the spec's own encoding). -/
theorem decode_std_word : decodeLane .shuttle 0x4A143FE0 .none = .ok (.std ⟨5, 3, 0x7F, 0, false, false, .none⟩) := by decide +kernel

/-- BR p2, three bundles back (the spec's own encoding). -/
theorem decode_br_word : decodeLane .shuttle 0x604FFFFD .none = .ok (.br ⟨2, false, 0xFFFFD⟩) := by decide +kernel

/-- RET p2 (the spec's own encoding). -/
theorem decode_ret_word : decodeLane .shuttle 0x64000008 .none = .ok (.ret ⟨0, 0, 0, false, 2, false, false⟩) := by decide +kernel

/-- LOOP x20, two bundles back (the spec's own encoding). -/
theorem decode_loop_word : decodeLane .shuttle 0x6553FFFE .none = .ok (.loop ⟨20, 0x3FFFE, .none⟩) := by decide +kernel

/-- TRAP x4, 7 (the spec's own encoding). -/
theorem decode_trap_word : decodeLane .shuttle 0x66004007 .none = .ok (.trap ⟨0, 4, 7, .none⟩) := by decide +kernel

/-- SRD x5, FSTAT (the spec's own encoding). -/
theorem decode_srd_word : decodeLane .shuttle 0xA0140001 .none = .ok (.srd ⟨5, 0, 1, .none⟩) := by decide +kernel

/-- VADD v3, v1, v2 (the spec's own encoding). -/
theorem decode_vadd_word : decodeLane .vector 0x10184400 .none = .ok (.vadd ⟨3, 1, 2, 0, 0, false, 0⟩) := by decide +kernel

/-- VSHAPE 16, 128 (the spec's own encoding). -/
theorem decode_vshape_word : decodeLane .vector 0x013C3000 .none = .ok (.vshape ⟨15, 3, 0, 0, .none⟩) := by decide +kernel

/-- VLDT v2, t5:c (the spec's own encoding). -/
theorem decode_vldt_word : decodeLane .vector 0x70100580 .none = .ok (.vldt ⟨2, 0, 5, 2, 0, false, 0⟩) := by decide +kernel

/-- VSTT t6:f, v2, k3 (the spec's own encoding). -/
theorem decode_vstt_word : decodeLane .vector 0x71988640 .none = .ok (.vstt ⟨19, 2, 6, 1, 0, false, 0⟩) := by decide +kernel

/-- MGO t0:k, t8:c, cnt (the spec's own encoding). -/
theorem decode_mgo_word : decodeLane .matrix 0x020048A0 .none = .ok (.mgo ⟨0, 0, 1, 8, 2, true, 0⟩) := by decide +kernel

/-- MOUT.bf16 t20:f, a1, k3 (the spec's own encoding). -/
theorem decode_mout_word : decodeLane .matrix 0x06544930 .none = .ok (.mout ⟨1, 20, 1, 1, 0, true, 3, false⟩) := by decide +kernel

/-- MSAVE a2, c2 (the spec's own encoding). -/
theorem decode_msave_word : decodeLane .matrix 0x07900000 .none = .ok (.msave ⟨2, 2, false⟩) := by decide +kernel

/-- DKEY 2, seq, x7 (the spec's own encoding). -/
theorem decode_dkey_word : decodeLane .matrix 0x211C4080 .none = .ok (.dkey ⟨7, 0x102, false, .none⟩) := by decide +kernel

/-- DGRAM start, t12:k, cnt (the spec's own encoding). -/
theorem decode_dgram_word : decodeLane .matrix 0x240C4021 .none = .ok (.dgram ⟨0, 12, 1, 0, 0, true, 1⟩) := by decide +kernel

/-- FLD.ld t5:f, x10, ch3, cnt (the spec's own encoding). -/
theorem decode_fld_word : decodeLane .ferryLoad 0x01152813 .none = .ok (.fld ⟨false, 5, 1, 10, false, false, 0, true, 3⟩) := by decide +kernel

/-- GKV t8:f, x10, x11, cnt (the spec's own encoding). -/
theorem decode_gkv_word : decodeLane .gather 0x012128B8 .none = .ok (.gkv ⟨8, 1, 10, 11, true⟩) := by decide +kernel

end Sys2Proof
end

