-- ==== Sys2Proof/Machine/State.lean ====
section
/-! DEFINITION. The state of one island (device) of PX-7680 as plain data: one core inline (the core whose turn it
is), the other cores in a list, the dies with their Loom, Heddle, NSM and rings, main memory, the Strait, the host side;
and the machine right after reset. -/

namespace Sys2Proof.Machine

/-! ### Faults of the hardware (Table 18.1) -/

/-- The fault codes of Table 18.1. Raising one is no end of the run: it is taken as R396 to R399 say. -/
inductive FaultCode where
  | illegalLane | illegalOp | illegalGuard | misaligned | emptyTrap | tagTrap | phaseHazard | phaseOverflow | jointLost
  | boundTrap | badOperand | badParam | noRight | nearBusy | addrRange | trap | kvHole | kvFull | kvNoslot | kvRefcnt
  | kvLayout | pageFault | pteMalformed | nlcReserved | memE2 | memE3 | sramUe | loomFull | loomStale | remoteFail
deriving DecidableEq, Repr

/-- What the engines do on a fault (Table 18.5): DRAIN, HOLD of the queue at fault, ABANDON of the executing phase. -/
inductive FaultAction where
  | drain
  | hold (q : Queue)
  | abandon
  /-- PHASE_OVERFLOW: the open phase is abandoned (R354). -/
  | abandonOpen
deriving DecidableEq, Repr

/-- A fault on its way into a record: its code, the fields of Tables 18.2 and 18.3 that the raiser knows, and, for a
fault of R198, the bundle address and lane of the producer. -/
structure FaultInfo where
  code : FaultCode
  /-- ENGINE of Table 18.2. -/
  engine : Nat
  precise : Bool := true
  addr : Word := 0
  cause : Nat := 0
  opc : Nat := 0
  rep : Nat := 0
  w4 : Word := 0
  w5 : Word := 0
  w6 : Word := 0
  w7 : Word := 0
  producer : Option (Word × Nat) := none
  action : FaultAction := .drain
  /-- The resume point where it is not the lane at fault (R217). -/
  resume : Option (Word × Nat) := none
  /-- STREAMPOS of a command that has left its head (R272). -/
  pos : Option Nat := none
deriving DecidableEq, Repr

/-- Why a lane or command cannot go on yet (R218, R351). -/
inductive Stall where
  | emptyRegister | emptyDestination | queueFull | replyQueue | condition | pageMiss | logWait | tagWait | marker
  | pointer | sector | bufferFull | drain | held | nest | join | boot | selfTest | hold | pinTable | backPressure | outcome
deriving DecidableEq, Repr

/-- How the last instruction or command ended; the model's own field. -/
inductive Ended where
  /-- It completed. -/
  | done
  /-- It completed one repeat of several (R226) or one part of its work; its next turn goes on. -/
  | again
  /-- It waits, with no effect yet. -/
  | stalled (r : Stall)
  /-- It raised a fault, which has been taken. -/
  | faulted (c : FaultCode)
  /-- It cancelled the executing phase (R360). -/
  | cancelled
  /-- There was nothing for it to do. -/
  | idle
deriving DecidableEq, Repr

/-! ### One core -/

/-- The poison mark and the E1 mark of a sector or line (R87), with the memory error record (bits 63:0) and the pick
time of the detection that set them, for words 4 and 5 of a MEM_E2 record (Table 18.3). -/
structure Marks where
  poison : Bool := false
  e1 : Bool := false
  log : Word := 0
  found : Word := 0
deriving DecidableEq, Repr

/-- An access that a long-latency instruction performs again at its home point after a phase cancel (R358). -/
inductive Access where
  | load (va : Word) (n : Nat) (signed : Bool)
  | near (na : Word)
  | atomic (op : Nat) (va : Word) (n : Nat) (v cmp : Word)
  /-- SRD of FSTAT, which waits for the core's outstanding AFADDs (R200). -/
  | fstat
  /-- SPAWN, whose Loom has still to read the template at this address (R373). -/
  | spawn (va : Word)
  /-- TKV on a task, whose Loom has still to read the request at this address and take the references (R386). -/
  | tkv (task : BitVec 32) (va : Word)
deriving DecidableEq, Repr

/-- The outstanding result of a long-latency instruction (R196, R198). -/
structure Pending where
  /-- The destination; x0 takes no result. -/
  d : BitVec 6
  value : Word := 0
  /-- The result has come back and can be delivered. -/
  ready : Bool := true
  fault : Option FaultInfo := none
  bundle : Word := 0
  lane : Nat := 0
  /-- The flag that rises with the result (R140, R373, R146), 32 for none. -/
  flag : Nat := 32
  /-- The phase whose markers the instruction stands between, if any (R358). -/
  phase : Option Nat := none
  redo : Option Access := none
  /-- The ticket under which a Loom, a router or a remote island answers. -/
  ticket : Nat := 0
  /-- A Q update of the NSM, whose result goes to the reply queue (R393). -/
  toQueue : Bool := false
deriving DecidableEq, Repr

/-- An entry of the reply queue: its source (0 draw unit, 1 Loom, 2 NSM) and its value (R199). -/
structure Reply where
  src : BitVec 2
  value : Word
  /-- While it is held: the flag that rises when it is posted (R393), 32 for none. -/
  flag : Nat := 32
  /-- While it is held: the ticket of the result that is held with it (R376). -/
  ticket : Option Nat := none
deriving DecidableEq, Repr

/-- A leaf translation in a TLB (R107): the address space, the page's base, whether it is a 256 MiB page, the entry
and where the entry lies. -/
structure TlbEntry where
  asn : Nat
  base : Nat
  big : Bool
  pte : Word
  pteAddr : Nat
deriving DecidableEq, Repr

/-- A pointer entry in a walk cache (R107). -/
structure WalkEntry where
  asn : Nat
  level : Nat
  base : Nat
  pte : Word
deriving DecidableEq, Repr

/-- A 64-byte line of an L1 cache with its marks (R132, R133); `key` numbers lines of device memory and of the two
ports' host memory apart. -/
structure Line where
  key : Nat
  data : BitVec 512
  marks : Marks
deriving DecidableEq, Repr

/-- An entry of the parameter-block cache (R152). -/
structure PbEntry where
  asn : Nat
  va : Nat
  data : BitVec 512
deriving DecidableEq, Repr

/-- An entry of the block map cache (R172). -/
structure BmcEntry where
  sd : Nat
  block : Nat
  epoch : Nat
  slot : Nat
deriving DecidableEq, Repr

/-- An entry of a store side log (R119); `op` 0 is a write, 1 + OP a Ferry reduction. -/
structure SdlEntry where
  /-- ENGINE of the log: 2 vector, 3 matrix, 5 Ferry, 6 gather. -/
  engine : Nat
  asn : Nat
  va : Nat
  data : BitVec 512
  mask : BitVec 64
  marks : Marks
  op : Nat
  /-- The write pointer channel that counts the write when it is replayed, and the bytes that it then counts (R158). -/
  ch : Option Nat
  count : Nat := 0
  /-- The stream position of the command that wrote it, and the bytes of later writes that count behind it, by theirs (R158). -/
  pos : Nat := 0
  parked : List (Nat × Nat) := []
deriving DecidableEq, Repr

/-- A binding register (Table 15.2). -/
structure Binding where
  sync : Word := 0
  len : BitVec 48 := 0
  scope : BitVec 3 := 0
  valid : Bool := false
  base : BitVec 52 := 0
deriving DecidableEq, Repr

/-- A write of up to one sector that a gather command has still to perform (R185): its address, bytes and marks; whether
it waits for every earlier one (R179); the reserved slot that it writes into a table. -/
structure PlanWrite where
  va : Nat
  bytes : List Byte
  marks : Marks := {}
  release : Bool := false
  slot : Option Nat := none
  /-- References (false) and drops (true) on the pool, made in one step with the write, if it has bytes (R174). -/
  ops : List (Nat × Bool) := []
  /-- The bytes are FP32 words added to the words in memory (R191). -/
  add : Bool := false
deriving DecidableEq, Repr

/-- A command in an engine queue, with its captured or popped operand values (R27) and, once started, its progress
(R161, R226). -/
structure Cmd where
  instr : Instr
  /-- The value of xs or xa: captured at the push, or popped at the head; none until popped. -/
  opa : Option Word := none
  opb : Option Word := none
  /-- Tag waits granted (TAGS of Table 8.3). -/
  tags : Bool := false
  /-- The tag waits granted so far, in order: tile and action, a destination's action plus 4 (R138). -/
  grants : List (Nat × Nat) := []
  /-- The tag wait at which the command stands (R138). -/
  waits : Option (Nat × Nat) := none
  /-- TLEN as read at the head (R150); for other Ferry commands the address of the row, or the slots of the block, in
  progress. -/
  len : Option Nat := none
  /-- A write of the command has been refused by its target (R314). -/
  refused : Bool := false
  /-- The slots that a gather command has reserved and not yet written into a table, in pop order (R185). -/
  reserved : List Nat := []
  /-- The stream pins that a gather command holds: its pool descriptor's physical place and the slot (R175). -/
  pins : List (Nat × Nat) := []
  /-- The physical place of the pool descriptor of its reserved slots (R185). -/
  poolAt : Nat := 0
  /-- The writes that a gather command has still to perform. -/
  plan : Option (List PlanWrite) := none
  /-- Acquire performed (ACQD). -/
  acqd : Bool := false
  /-- The parameter block as read at the head (PBV). -/
  block : Option (BitVec 512) := none
  /-- Next row; of a GAPP the reached blocks that take a reserved slot, bit by block. -/
  row : Nat := 0
  sect : Nat := 0
  blk : Nat := 0
  bytes : Nat := 0
  /-- All writes done; release pending (RELP). -/
  relp : Bool := false
  /-- The command has put a write into its store side log (R119). -/
  logged : Bool := false
  /-- The phase that the command belongs to. -/
  phase : Option Nat := none
  /-- Set aside until the commit, and run then (R181, R160, R231). -/
  deferred : Bool := false
  /-- A gather command past its head whose phase has been cancelled or abandoned: it completes, with no tag action and no
  count (R182, R360). -/
  orphan : Bool := false
  /-- The void mask as it stood when the command reached its head (R283, R301). -/
  voids : Option Nat := none
  /-- The address and bytes of a memory-form VSTT write held until the commit (R231). -/
  dest : Word := 0
  held : List Byte := []
deriving DecidableEq, Repr

/-- An entry of an engine queue: a command; the markers of a phase (R353); an MFENCE marker (R339); the vector-queue
entry of an SRD or SWR of SRCTR or VSTAT (R200). -/
inductive Entry where
  | cmd (c : Cmd)
  | phaseB (id : Nat)
  | phaseC (id : Nat)
  | fence
  | srd (reg : Nat) (ticket : Nat)
  | swr (reg : Nat) (v : Word)
deriving DecidableEq, Repr

/-- One engine queue: the entries not yet executed, the head first; the entries that the executing phase has executed
and that a cancel executes again (R354, R360); the stream position (R28) and its value at the PHASE.B marker; HOLD. -/
structure EngQueue where
  entries : List Entry := []
  kept : List Entry := []
  pos : Nat := 0
  posB : Nat := 0
  held : Bool := false
  /-- The place of the held command among the entries: 0, but behind the entries that a cancel has brought back. -/
  heldAt : Nat := 0
  /-- The Ferry's commands that have issued their last read and have still to complete, in order (R148). -/
  ending : List Cmd := []
deriving DecidableEq, Repr

/-- The vector engine (Table 11.1); the registers' bytes lie in the core's window. -/
structure VecState where
  rows : Nat := 16
  rowb : Nat := 128
  vbase : Nat := 0
  /-- m1 to m7; m0 reads all ones. -/
  m : SMap (BitVec 2048) := []
  s : SMap Word := []
  vstat : BitVec 6 := 0
  srctr : Word := 0
deriving DecidableEq, Repr

/-- A pending REP (R224, R226): its count, its step bits and the next repeat index. -/
structure RepState where
  n : Nat
  step : BitVec 6
  j : Nat
deriving DecidableEq, Repr

/-- A row stream of the draw unit (R288). -/
structure RowStream where
  key : BitVec 256 := 0
  seq : BitVec 32 := 0
  ctr : BitVec 64 := 0
  tbase : BitVec 32 := 0
deriving DecidableEq, Repr

/-- The draw unit's registers (Table 13.2) and row streams. -/
structure DrawState where
  cfg : SMap Word := []
  streams : SMap RowStream := []
deriving DecidableEq, Repr

/-- A bank's metadata word (Table 12.1): MODE 0 FP32, 1 FP16, 2 INT32. -/
structure BankMeta where
  mode : Nat := 0
  inv : Bool := false
  sat : Bool := false
  ovf : Bool := false
deriving DecidableEq, Repr

/-- A running nest (R261): the working configuration, its command and the completions held behind it. -/
structure Nest where
  cmd : Cmd
  cfg : SMap Word
  desc : SMap Word
  unf : SMap Word
  joint : Bool
  /-- Counts of f1 by configuration commands that wait for the nest (R261). -/
  counts : Nat
  /-- The stream position of its command. -/
  pos : Nat
  /-- The steps that a joint nest has issued, and the tick of its join or last issue (R278, R279). -/
  issued : Nat := 0
  tick : Nat := 0
deriving DecidableEq, Repr

/-- A member's arrival at a join (R278): its command and the tick. -/
structure Arrival where
  cmd : Cmd
  tick : Nat
deriving DecidableEq, Repr

/-- The executing phase (R355): its number; what a cancel restores; its deferred effects; the tiles and vector
registers it has used. -/
structure PhaseExec where
  id : Nat
  /-- The engines that have passed the PHASE.B marker, bit by queue. -/
  passed : BitVec 5
  vec : VecState
  draw : DrawState
  /-- Deferred increments of f0 to f5 and FWP adds: flag and count (R355). -/
  counts : List (Nat × Nat)
  /-- Commands set aside until the commit, in order, with their queues (Table 16.4). -/
  deferred : List (Queue × Cmd)
  heldFull : BitVec 64
  consumePend : BitVec 64
  /-- Tiles that were FULL when a pending consume was taken (R356). -/
  wasFull : BitVec 64
  readTiles : BitVec 64
  wroteTiles : BitVec 64
  inherited : BitVec 32
  vwritten : BitVec 32
  slotsRead : BitVec 8
  /-- The phase holds an MJOIN (R280). -/
  joint : Bool
  /-- A cancel has still to rewind the queues: it waits for self-tests (R402), by unit and location. -/
  rewind : Bool
  awaits : List (Nat × Nat) := []
  /-- The pre-emption window has cancelled the phase, and no command of it goes on before the core is saved (R365). -/
  parked : Bool := false
  /-- The tick from which a member waits at its PHASE.C for its partners (R280). -/
  atC : Option Nat
deriving DecidableEq, Repr

/-- Phases of a core (R352, R353). -/
structure PhaseState where
  /-- The number of the next phase. -/
  next : Nat := 0
  openId : Option Nat := none
  /-- Closed phases not yet committed, with the flag of their PHASE.C, oldest first (R352, R361). -/
  closed : List (Nat × Nat) := []
  exec : Option PhaseExec := none
  /-- Committed phases whose flag rises when their deferred commands have completed (R359). -/
  flagDue : List (Nat × Nat) := []
deriving DecidableEq, Repr

/-- The attributes of a launch on a core (R345). -/
structure Attrs where
  launch : Nat := 0
  asn : BitVec 12 := 0
  tbase : Nat := 0
  rights : BitVec 6 := 0
  e1pol : Nat := 0
  kvpools : Word := 0
  pwin : Nat := 65536
  joint : Bool := false
  stage : BitVec 6 := 0
deriving DecidableEq, Repr

/-- What a core does (Table 19.2): free, running, halted after its halt bundle, halted at a fault, stopped by a
pre-emption request, disabled. -/
inductive RunState where
  | free | running | haltedDone | haltedFault | stopped | disabled
deriving DecidableEq, Repr

/-- The MFENCE join slot (R339): not in use, markers pushed, or joined. -/
inductive Fence where
  | none | waiting (mask : BitVec 5) | joined
deriving DecidableEq, Repr

/-- The Shuttle (R195) and its fault-handling registers (Table 18.4). -/
structure Shuttle where
  /-- x1 to x61 and x63. -/
  x : SMap Word := []
  /-- Bit i: xi is EMPTY. -/
  empty : BitVec 64 := 0
  /-- p0 to p7; bit 0 reads 1. -/
  p : BitVec 8 := 1
  /-- The address of the bundle at which the Shuttle stands, and the lane (the resume point, R28). -/
  pc : Word := 0
  lane : Nat := 0
  /-- The bundle once decoded (R24), and whether its wait or timed condition has held (R21, R22). -/
  buf : Option Bundle := none
  ready : Bool := false
  /-- The target that a taken branch of the bundle has set (R26). -/
  target : Option Word := none
  /-- The step bits of a REP that awaits its partner (R224). -/
  rep : Option (BitVec 6) := none
  fstat : BitVec 5 := 0
  frm : BitVec 2 := 0
  tvec : Word := 0
  epc : Word := 0
  ecount : BitVec 3 := 0
  eretry : BitVec 3 := 2
  more : Bool := false
  hmode : Bool := false
  errinj : Word := 0
  /-- The code checked at the SWR, kept with the armed injection (R404). -/
  errinjCode : Nat := 0
  /-- The physical sector that the armed injection names (R404). -/
  errinjSector : Nat := 0
  frec : List Word := [0, 0, 0, 0, 0, 0, 0, 0]
  /-- FREC holds the record of a fault since the last RTE or launch start (R396). -/
  frecHeld : Bool := false
  pending : List Pending := []
  nextTicket : Nat := 0
  replies : List Reply := []
  /-- Loom and NSM entries held at the core while the queue is full (R199). -/
  heldReplies : List Reply := []
  fence : Fence := .none
  /-- What a handler entry has set aside: the resume point, the target of a branch taken in that bundle (R26), the MFENCE that
  waited there (R339). -/
  savedAt : Word := 0
  savedTarget : Option Word := none
  savedFence : Fence := .none
  /-- A context restored while its Shuttle waited at a timed bundle (R363). -/
  timedNow : Bool := false
deriving DecidableEq, Repr

/-- The tiles of a core (Table 7.3): TLEN, TAG, ARRIVED, OVERRUN; the marks of their sectors (sector 64i + s); the consuming reads granted and not yet complete (R138). -/
structure Tiles where
  /-- TLEN where it is not 4,096. -/
  tlen : SMap Nat := []
  tag : BitVec 64 := 0
  arrived : SMap Nat := []
  overrun : BitVec 64 := 0
  marks : SMap Marks := []
  granted : BitVec 64 := 0
  /-- Granted reads that leave a tile FULL and are not complete, by tile; consumed tiles that wait for them (Table 7.4). -/
  readers : SMap Nat := []
  drain : BitVec 64 := 0
deriving DecidableEq, Repr

/-- The matrix engine (R258 to R264, R284). -/
structure MatState where
  /-- Metadata words 0 to 13 (R259). -/
  metas : SMap BankMeta := []
  bretry : Bool := false
  loss : Nat := 0
  /-- MCFG registers (Table 12.3); the shadowed ones are the shadow set. COUNT is held less 1. -/
  cfg : SMap Word := []
  desc : SMap Word := []
  unf : SMap Word := []
  /-- k0 to k15. -/
  bounds : SMap (BitVec 256) := []
  nest : Option Nest := none
  arrival : Option Arrival := none
deriving DecidableEq, Repr

/-- One core. -/
structure Core where
  run : RunState := .free
  attrs : Attrs := {}
  sh : Shuttle := {}
  /-- The bytes of the near-map window (Table 7.1): scratchpad, accumulator SRAM, vector registers. -/
  win : Memory := []
  tiles : Tiles := {}
  flags : SMap (BitVec 32) := []
  /-- Channel write pointers (Table 8.2). -/
  wp : SMap (BitVec 56) := []
  binds : SMap Binding := []
  vq : EngQueue := {}
  mq : EngQueue := {}
  lq : EngQueue := {}
  sq : EngQueue := {}
  gq : EngQueue := {}
  vec : VecState := {}
  rep : Option RepState := none
  mat : MatState := {}
  draw : DrawState := {}
  /-- The outbound reply buffer (R302), with the held entries of the executing phase marked true (R303). -/
  outbuf : List (Word × Bool) := []
  ph : PhaseState := {}
  tlb : List TlbEntry := []
  /-- The four stream TLBs, by ENGINE number (2 vector, 3 matrix, 4 Ferry, 6 gather). -/
  stlb : List (Nat × TlbEntry) := []
  l1d : List Line := []
  l1i : List Line := []
  pbc : List PbEntry := []
  bmc : List BmcEntry := []
  sdl : List SdlEntry := []
  /-- Requests answered REFUSED that a held requester has yet to see: ENGINE, ASN, page, CAUSE (R117). -/
  refused : List (Nat × Nat × Nat × Nat) := []
  /-- A pre-emption request: its tick (R364, R365). -/
  preempt : Option Nat := none
  /-- The CTXSAVEs that wait for it: issuing core, ticket and image address (R367). -/
  saver : List (Nat × Nat × Word) := []
  ended : Ended := .idle
deriving DecidableEq, Repr

/-! ### Main memory -/

/-- A sector's stored code (none: unwritten, R77) and its marks (R87); the stored bits that have flipped since they were
written, and those whose cell fails and flips again after each write (R82, R405): 0 to 511 data bits, from 512 check
bits. -/
structure SectorMeta where
  code : Option Nat := none
  marks : Marks := {}
  flips : List Nat := []
  cells : List Nat := []
deriving DecidableEq, Repr

/-- A 64-byte line of an L2 slice (R90, R134): the data and marks of its fill or of the writes since, the code, whether HBM
has still to be written, the order of its fill, and the bits that have flipped since: 0 to 511 data bits, from 512 the
check bits of its words. -/
structure L2Line where
  data : BitVec 512
  code : Option Nat
  marks : Marks := {}
  dirty : Bool := false
  age : Nat := 0
  flips : List Nat := []
deriving DecidableEq, Repr

/-- An error of an on-chip array that a read of the array meets (Table 18.6): the unit code; of a core array the core, of a
die array the die; the place: of units 1 to 3 the word's offset in the core's window, of units 4 and 5 the line's key,
of unit 6 the sector, of unit 7 the node, of unit 8 the slot, of unit 10 the queue (0 to 4) or the entry of a cache;
whether SEC-DED cannot correct it; whether a cell of the array fails. -/
structure ArrayError where
  unit : Nat
  at' : Nat
  core : Nat := 0
  die : Nat := 0
  /-- Of unit 6 the bit of the sector's line; of unit 10 the structure: 0 queues, 1 Shuttle TLB, 2 stream TLBs, 3 walk cache,
  4 block map cache, 5 parameter-block cache. -/
  sub : Nat := 0
  uncorrectable : Bool := false
  cell : Bool := false
deriving DecidableEq, Repr

/-- A prefetch block (R122). -/
structure PrefBlock where
  asn : Nat
  base : Nat
  s : Nat
  theta : Nat
  q : Nat
  fresh : Bool
deriving DecidableEq, Repr

/-- What the world outside does for which the opcode table has no event: a bit of a stored sector flips, for good where its cell
fails; a read of an on-chip array meets an error (log entry 64); firmware describes or rewrites a prefetch block (R122, log
entry 24). -/
inductive Outside where
  | flip (sector bit : Nat) (cell : Bool)
  | array (e : ArrayError)
  | prefetch (b : PrefBlock)
deriving DecidableEq, Repr

/-- A copy of a frame that the device makes while writes may reach the frame (R97, R99, R125): 0 of a requantisation, 1 of a
frame retirement, 2 of a swap-out. -/
structure FrameCopy where
  kind : Nat
  /-- The frame and the place that it is copied to: frame numbers, of a swap-out the host frame's number in host memory. -/
  old : Nat
  new : Nat
  /-- A write has reached the frame since the copy began. -/
  hit : Bool := false
  /-- How often the copy has been made again. -/
  restarts : Nat := 0
  /-- The copy is complete; of a requantisation the entry names the new frame. -/
  copied : Bool := false
  /-- Of a requantisation: a write to the old frame is held (R97). -/
  wanted : Bool := false
  /-- Of a requantisation and a swap-out: the entry's address and the entry as it was, the ASN and address of the page. -/
  pteAddr : Nat := 0
  pte : Nat := 0
  asn : Nat := 0
  va : Nat := 0
deriving DecidableEq, Repr

/-- A ring of the control window (R412). -/
structure Ring where
  base : Word := 0
  size : Word := 0
  head : Word := 0
  tail : Word := 0
deriving DecidableEq, Repr

/-- A self-test that runs (R405): its unit, its location, the sectors at fault. -/
structure SelfTest where
  unit : Nat
  location : Nat
  sectors : List Nat
  lasting : Bool
  die : Nat
  /-- The tick of its detection; the part is held from the next tick on (log entry 20). -/
  since : Word
deriving DecidableEq, Repr

/-- A page request that firmware has not answered (R115), with its waiting requesters (core, ENGINE). -/
structure PageReq where
  asn : Nat
  page : Nat
  cause : Nat
  waiters : List (Nat × Nat)
  /-- Written into the ring; a request waits while the ring is full (R116). -/
  written : Bool
  record : BitVec 256
deriving DecidableEq, Repr

/-- A bring-in in progress (R123): the address space, its table, the page, the core whose miss started it with the missing
address and KIND, the requesters that wait for the page (core, ENGINE). -/
structure BringIn where
  asn : Nat
  tbase : Nat
  page : Nat
  core : Nat
  va : Nat
  kind : Nat
  waiters : List (Nat × Nat) := []
  /-- The die whose migration unit serves it (R115). -/
  die : Nat := 0
deriving DecidableEq, Repr

/-- The swap group in progress on a die (R124): its table index, the next page of its list, whether swapping goes on. -/
structure Swap where
  group : Nat
  next : Nat
  active : Bool
deriving DecidableEq, Repr

/-! ### A die -/

/-- Who awaits what a Loom or an NSM does: an instruction of a core under a ticket, or another island under the tag of its
message (R373). -/
inductive Client where
  | core (n ticket : Nat)
  | island (isl tag : Nat)
deriving DecidableEq, Repr

/-- A task slot (Table 17.1) with the links, stamp and counters kept outside the record (R369). -/
structure Task where
  payload : Word := 0
  kvhead : BitVec 32 := 0xFFFFFFFF
  node : BitVec 32 := 0
  pendingN : Nat := 0
  pflags : BitVec 4 := 0
  cancel : Bool := false
  shedtask : Bool := false
  batch : Bool := false
  /-- Table 17.2: 0 FREE, 1 QUEUED, 2 HELD, 3 SHED, 4 RUNNING, 5 WAITING, 6 DONE, 7 CANCELLED. -/
  state : Nat := 0
  cls : Nat := 0
  key : BitVec 32 := 0
  parent : BitVec 32 := 0xFFFFFFFF
  gen : Nat := 0
  children : List (BitVec 32) := []
  stamp : Nat := 0
  donec : Nat := 0
  cancc : Nat := 0
  /-- The parent has been told of the end (R375). -/
  told : Bool := false
  /-- The formed shed whose member it is: the shed task's slot (R385). -/
  shed : Option Nat := none
  /-- A FREE slot taken by a SPAWN whose parent has still to count the child (R375). -/
  claimed : Bool := false
  /-- The task's KV drops are under way: the blocks of the first attachment already dropped (R388). -/
  dropAt : Option Nat := none
  /-- The attachment record that the drops have reached (none: the head of the list), and those they have passed (R388). -/
  dropRec : Option Nat := none
  dropped : List Nat := []
  /-- The bit of the void mask that a CANCEL has still to set: the descriptor's page misses (R384). -/
  voidDue : Bool := false
  /-- The DONE whose result waits for the task's drops and for its parent, with that result (R377). -/
  ending : Option (Client × Word) := none
deriving DecidableEq, Repr

/-- A shed in its place (R382): its class, weight key, rows (task id, SEQID, POS), opening tick, whether closed. -/
structure Shed where
  cls : Nat := 0
  wkey : BitVec 32 := 0
  rows : List (BitVec 32 × BitVec 32 × BitVec 32) := []
  opened : Nat := 0
  /-- The pick tick at which it closed. -/
  closed : Option Word := none
  used : Bool := false
  /-- The class's configuration as the shed opened (R381). -/
  rowmax : Nat := 192
  window : Nat := 0
  desc : Nat := 0
  ndesc : Nat := 0
  sdbase : Word := 0
  /-- The core whose HCFG last wrote DESC, its address space and level-3 table (R381). -/
  owner : Nat := 0
  asn : Nat := 0
  tbase : Nat := 0
deriving DecidableEq, Repr

/-- A formed shed (R385): its task slot, its class and descriptor slot, the descriptor's place (in host memory or not; the
address; the page's NLC), the slots of its members by row. -/
structure Formed where
  slot : Nat
  cls : Nat
  desc : Nat
  host : Bool
  addr : Nat
  nlc : Nat
  members : List Nat
  /-- The descriptor's virtual address, with the core, the address space and the level-3 table under which it is reached (R381). -/
  va : Nat := 0
  owner : Nat := 0
  asn : Nat := 0
  tbase : Nat := 0
deriving DecidableEq, Repr

/-- A node record (Table 17.6). -/
structure Node where
  pword : Word := 0
  p : BitVec 32 := 0
  w : BitVec 32 := 0
  vl : BitVec 32 := 0
  n : BitVec 32 := 0
  depth : BitVec 16 := 0
  gen : BitVec 16 := 0
  parent : BitVec 32 := 0xFFFFFFFF
  live : Bool := false
deriving DecidableEq, Repr

/-- Who last wrote DESC of a class (R381): its core, its ASN and level-3 table. -/
structure DescOwner where
  core : Nat := 0
  asn : Nat := 0
  tbase : Nat := 0
deriving DecidableEq, Repr

/-- What the device keeps beside an attachment record (R386): that it is in use, the launch's level-3 table and KVPOOLS. -/
structure AttSide where
  used : Bool := false
  tbase : Nat := 0
  kvpools : Word := 0
deriving DecidableEq, Repr

/-- A slot whose count reached 0 while a stream pin was held (R175): the pool descriptor's physical place, its virtual
address with the translation under which it was released, and the slot. -/
structure PinnedFree where
  pool : Nat
  va : Nat
  asn : Nat
  tbase : Nat
  slot : Nat
  /-- Its count is still to be set to 0: a reserved slot that could not be pushed back at once (R185). -/
  zero : Bool := false
deriving DecidableEq, Repr

/-- One die: Loom, Heddle, NSM, walk cache, rings and counters. -/
structure Die where
  tasks : SMap Task := []
  hcfg : SMap Word := []
  owners : SMap DescOwner := []
  sheds : SMap Shed := []
  formed : List Formed := []
  /-- Descriptor slots in use: 256 × class + slot. -/
  descUsed : SMap Bool := []
  attBase : Nat := 0
  /-- Attachment records in use (R386). -/
  attUsed : SMap AttSide := []
  nodes : SMap Node := []
  walk : List WalkEntry := []
  pinned : List PinnedFree := []
  errRing : Ring := {}
  errDrops : Word := 0
  testLog : Ring := {}
  ffr : Ring := {}
  hfr : Ring := {}
  released : Ring := {}
  /-- The counters of Table 18.7 by index 0 to 15. -/
  counters : SMap Nat := []
  /-- Frames retired (R99). -/
  retired : SMap Bool := []
  /-- Rows spared: the row's first sector (R99). -/
  spared : SMap Bool := []
  /-- Way sets of the L2 slice, node records and task slots retired until reset (R403, R406). -/
  waysOff : Nat := 0
  nodesOff : SMap Bool := []
  slotsOff : SMap Bool := []
deriving DecidableEq, Repr

/-- A TAKE.W that waits (R376): its core and ticket, its mask, its deadline. -/
structure TakeWait where
  core : Nat
  ticket : Nat
  mask : Nat
  deadline : Option Nat
deriving DecidableEq, Repr

/-- A JOIN that waits (R380). -/
structure JoinWait where
  client : Client
  task : BitVec 32
deriving DecidableEq, Repr

/-- A SPAWN of a batchable class that waits for a shed place (R382): its die, slot, weight key and client. -/
structure SpawnWait where
  die : Nat
  slot : Nat
  wkey : BitVec 32
  client : Client
deriving DecidableEq, Repr

/-- What the reply to a Loom's or NSM's message continues. -/
inductive LoomCont where
  /-- The reply is the client's. -/
  | client (cl : Client)
  /-- A parent has counted the child, of a SPAWN into a slot (R375). -/
  | counted (die slot : Nat) (wkey : BitVec 32) (cl : Client)
  /-- A parent has been told of the end of the task in a slot (R375). -/
  | told (die slot : Nat)
  /-- A CANCEL's message to a remote child has been handled; a flag of the issuing core of an island rises (R384). -/
  | flag (isl core flag : Nat)
  /-- One of the remote subtrees of a cancel that another island asked for has been handled. -/
  | group (g : Nat)
  /-- The DEPTH of a remote parent node, for the record just allocated (R391). -/
  | depth (die index : Nat) (cl : Client)
deriving DecidableEq, Repr

/-- A message that awaits its reply: its tag, its target, what it asked for; the cause of its failure (R314). -/
structure LoomWait where
  tag : Nat
  /-- The node that sent it: 256 × die + node number (R320). -/
  node : Nat
  island : Nat
  op : Nat
  arg : Word
  cont : LoomCont
  fail : Option Nat := none
deriving DecidableEq, Repr

/-- A cancel on behalf of another island whose own remote subtrees are not all handled: how many remain (R384). -/
structure CancelGroup where
  id : Nat
  left : Nat
  client : Client
  /-- The tasks of its visit that became CANCELLED and have still to become FREE (R384). -/
  tasks : List (BitVec 32) := []
deriving DecidableEq, Repr

/-! ### The Strait -/

/-- The kinds of Table 14.6. -/
inductive FlitKind where
  | read | readData | write | writeAck | atomic | atomicData | tileWrite | msg | nack | time | mgmt
deriving DecidableEq, Repr

/-- A remote request that awaits its reply, or holds it until its command takes it (R314): its tag, target island,
core, ENGINE, ticket, address and kind; for a load its size and extension; once answered, the data with its marks, or
the cause of a failure. -/
structure RemoteReq where
  tag : Nat
  island : Nat
  core : Nat
  engine : Nat
  ticket : Nat := 0
  addr : Word
  kind : FlitKind
  n : Nat := 8
  signed : Bool := false
  done : Bool := false
  data : BitVec 512 := 0
  marks : Marks := {}
  e3 : Bool := false
  fail : Option Nat := none
  /-- The opcode, operand and comparand of an atomic. -/
  op : Nat := 0
  operand : Word := 0
  comparand : Word := 0
  /-- The issuing core's write pointer channel that counts the write once it is acknowledged, and the bytes (R158). -/
  ch : Option Nat := none
  count : Nat := 0
  /-- The opcode and stream position of the engine command that sent it (Table 18.2). -/
  opc : Nat := 0
  pos : Nat := 0
  /-- The bytes of later writes that count behind it, by the position of their command (R158). -/
  parked : List (Nat × Nat) := []
  /-- An earlier write of its command has failed: its own failure is not delivered (R314). -/
  quiet : Bool := false
deriving DecidableEq, Repr

/-- The routing state (R322). -/
inductive Routing where
  | normal | draining | drained
deriving DecidableEq, Repr

/-- An RTDRAIN that waits (R322): core, ticket, mode, and whether it receives the discard count. -/
structure DrainWait where
  core : Nat
  ticket : Nat
  mode : Nat
  first : Bool
deriving DecidableEq, Repr

/-- The Strait ports, tables and windows (R309, R317, R321, R325) and the pick-clock synchronisation (R319). -/
structure Strait where
  /-- AASWIN0 to AASWIN15. -/
  windows : SMap (BitVec 128) := []
  /-- Stage-class entries that differ from s mod 6. -/
  stages : SMap Nat := []
  /-- Mesh entries written by RTSET, by 1280 × router + 256 × class + node. -/
  mesh : SMap Nat := []
  /-- Island route entries, by 1024 × die + island; 0x1F where not listed. -/
  islands : SMap Nat := []
  fencedRouters : SMap Bool := []
  fencedBridges : SMap Bool := []
  fencedPorts : SMap Bool := []
  fencedIslands : SMap Bool := []
  routing : Routing := .normal
  drainEnd : Nat := 0
  drainCore : Nat := 0
  drains : List DrainWait := []
  /-- Flits this island has sent, oldest first. -/
  sent : List (FlitKind × Flit) := []
  /-- Messages that a Loom or NSM cannot inject yet (R318, R323): the node, the target island and the flit. -/
  heldMsgs : List (Nat × Nat × Flit) := []
  /-- Flits of this island that wait at their ports (R318, R323): replies and NACKs; the ports that owe a TIME flit. -/
  heldFlits : List (FlitKind × Flit) := []
  heldTimes : List Nat := []
  /-- Of the flits sent, those that a port still holds in its replay buffer after a failed transmission (R316): the flits in
  flight on the island. -/
  flying : List (FlitKind × Flit) := []
  waiting : List RemoteReq := []
  nextTag : Nat := 0
  stopped : SMap Bool := []
  retries : SMap Nat := []
  testing : SMap Bool := []
  /-- Lanes removed of each port (R406). -/
  lanesOff : SMap (BitVec 8) := []
  /-- The error counters of the ports: flits discarded for reserved kinds and fields (R315). -/
  discarded : SMap Nat := []
  /-- The tables of routes and stages in force since the drain, before what RTSET has written (R324). -/
  before : Option (SMap Nat × SMap Nat × SMap Nat) := none
  pickMaster : Bool := false
  pickLocked : Bool := false
  pickOffset : BitVec 16 := 0
  /-- The master's pick value as last estimated, and the local pick value then. -/
  masterPick : Word := 0
  lastTime : Nat := 0
  /-- What is left of OFFSET to slew away; the pick value from which the clock may slew again (R319), and that of the last
  TIME flits sent. -/
  slew : BitVec 16 := 0
  slewAt : Nat := 0
  lastSend : Nat := 0
deriving DecidableEq, Repr

/-! ### The host side -/

/-- A launch record (Tables 16.2 and R346), checked. -/
structure Record where
  entry : Word
  die : Nat
  row0 : Nat
  col0 : Nat
  nrows : Nat
  ncols : Nat
  joint : Bool
  stage : BitVec 6
  e1pol : Nat
  rights : BitVec 6
  asn : BitVec 12
  tbase : Nat
  kvpools : Word
  doneAddr : Word
  doneVal : Word
  pwin : Nat
  inits : List (Nat × Word)
  tlens : List (Nat × Nat)
  binds : List (Nat × Binding)
deriving DecidableEq, Repr

/-- A launch (R347, R350): claimed cores with their leaves (none unreached; some true status ERROR), the link that
submitted it, whether it has started and its completion word. -/
structure Launch where
  number : Nat
  record : Record
  link : Option Nat
  started : Bool
  leaves : List (Nat × Option Bool)
deriving DecidableEq, Repr

/-- A launch port (R413). -/
structure LaunchPort where
  buf : Memory := []
  stat : Nat := 0
deriving DecidableEq, Repr

/-- The checkpoint registers (Table 5.7) and how far the operation has come. -/
structure Checkpoint where
  status : Nat := 0
  failPort : Nat := 0
  frames : Nat := 0
  crcErr : Nat := 0
  base : SMap Word := []
  size : SMap Word := []
  head : SMap Word := []
  tail : SMap Word := []
  /-- 1 a checkpoint, 2 a restore, while awaiting quiescence. -/
  op : Nat := 0
  nextFrame : Nat := 0
  /-- The last frame read from each ring, plus 1. -/
  lastFrame : SMap Nat := []
  /-- Rings whose end record has been read. -/
  ended : SMap Bool := []
deriving DecidableEq, Repr

/-- One SPDM responder's transcript (R418): requests answered since GET_VERSION, the last answer's code. -/
structure Spdm where
  version : Bool := false
  caps : Bool := false
  algs : Bool := false
  transcript : Nat := 0
  answer : BitVec 1536 := 0
  code : Nat := 0
deriving DecidableEq, Repr

/-- The host side and the Ramrin controller. -/
structure HostSide where
  power : Bool := true
  boot : Nat := 1
  island : BitVec 10 := 0
  hbmwin : Word := 0
  ports : SMap LaunchPort := []
  /-- Ports split into two links (fuses, R409). -/
  split : SMap Bool := []
  portsDown : SMap Bool := []
  launches : List Launch := []
  nextLaunch : Nat := 1
  /-- Submissions held by a checkpoint (R413): link and copied record bytes. -/
  heldSubmits : List (Nat × List Byte) := []
  ck : Checkpoint := {}
  pwrcap : Nat := 1800
  telemetry : SMap Word := []
  throttled : Bool := false
  withheld : Nat := 0
  /-- Functions in D3hot, by link. -/
  d3hot : SMap Bool := []
  /-- Cores stopped because every function is in D3hot (R420). -/
  d3stopped : List Nat := []
  minSvn : Nat := 0
  /-- The fused revocation bits of the key slots (R416): bits 3:0 the ECDSA slots, bits 7:4 the LMS slots. -/
  revoked : BitVec 8 := 0
  /-- The fused SHA-384 digests of the keys (R416): slots 0 to 3 ECDSA, 4 to 7 LMS. -/
  keyDigests : SMap (List Byte) := []
  /-- The image in module flash (R415). -/
  flash : Memory := []
  /-- Step 2 takes the image from the recovery mailbox (R417). -/
  fromMailbox : Bool := false
  /-- The SVN of the image in use, and the digests of its payload and header (R416, R419). -/
  imageSvn : Nat := 0
  payloadSum : List Byte := []
  headerSum : List Byte := []
  /-- The number of the acceptance of the image in use, by which the attestation values are fixed at step 2 (R419). -/
  measured : Nat := 0
  mailbox : Memory := []
  thermalEvents : Nat := 0
  debugOpened : Bool := false
  spdm : SMap Spdm := []
  /-- MSI-X signals sent: link and vector. -/
  msix : List (Nat × Nat) := []
  /-- The answer to the last host access: 0 none, 1 success, 2 Unsupported Request, 3 Configuration Request Retry
  Status, 4 a poisoned completion; and its data. -/
  reply : Nat := 0
  replyData : Word := 0
  swapLow : Word := 0
  swapHigh : Word := 0
  groupTable : Word := 0
  groupCount : Word := 0
  rqCap : Nat := 0
  /-- PCIe configuration space trained, by link. -/
  trained : SMap Bool := []
deriving DecidableEq, Repr

/-- Whose turn it is (the model's own field): a core's Shuttle, one of its engine queues, an event with its data, what the
world outside does beside the events. -/
inductive Turn where
  | shuttle (c : Nat)
  | engine (c : Nat) (q : Queue)
  | event (i : Instr) (inp : Input)
  | outside (u : Outside)
deriving DecidableEq, Repr

/-- The island. -/
structure State where
  /-- The core whose turn it is, and its number (R9). -/
  core : Core
  cur : Nat
  /-- Every other core that differs from one that has never run. -/
  others : SMap Core
  /-- The turns to come; when empty, the model's own round robin decides. -/
  agenda : List Turn
  rr : Nat
  /-- The counter of free values. -/
  fresh : Nat
  /-- The data of the event in progress. -/
  input : Input
  pick : Word
  /-- Device memory by physical address (R75): what its home slice has performed, or HBM holds (R134). -/
  hbm : Memory
  /-- By sector number, PA[38:6]. -/
  sectors : SMap SectorMeta
  /-- The lines resident in the home L2 slices, by sector number (R134), and the order of the next fill. -/
  l2 : SMap (Option L2Line)
  l2Age : Nat
  /-- Copies of frames under way (R97, R99, R125). -/
  copies : List FrameCopy
  /-- Host memory by port: 2^52 × port + address. -/
  hostMem : Memory
  /-- Host lines that CXL returns as poisoned (R91), by line number of `hostMem`. -/
  hostPoison : SMap Bool
  /-- Host lines cached in a port die's L2 slice (R121), by line number of `hostMem`. -/
  hostLines : SMap Bool
  /-- LDBLK blocks resident in L2 slices (R146): first line and count; host lines count from 2^60. -/
  blocks : List (Nat × Nat)
  selfTests : List SelfTest
  /-- Parts of on-chip arrays with a failing cell: unit and location (R405). -/
  failing : List (Nat × Nat)
  /-- Redundant columns in use, by unit and array: unit × 1024 + core or die (R406). -/
  columns : SMap Nat
  /-- Parts found LASTING and not repaired (R405): unit and location. -/
  lasting : List (Nat × Nat)
  prq : Ring
  pageReqs : List PageReq
  frq : Ring
  rq : Ring
  prefetch : List PrefBlock
  bringIns : List BringIn
  /-- The swap group in progress on each die (R124). -/
  swaps : SMap (Option Swap)
  /-- Sequence descriptors held (R178): address space, SD address, core. -/
  holds : List (Nat × Nat × Nat)
  dies : SMap Die
  takes : List TakeWait
  joins : List JoinWait
  spawns : List SpawnWait
  /-- Messages of the Looms and NSMs that await replies, and cancels for other islands in progress. -/
  loomWaits : List LoomWait
  groups : List CancelGroup
  nextGroup : Nat
  strait : Strait
  host : HostSide
  /-- Saved contexts by number: the CRC-32 of the image (R366), and at 2^32 + i the core from which image i was saved. The
  context of image i is kept as core 1024 + i. -/
  images : SMap Nat
  nextImage : Nat
deriving DecidableEq, Repr

/-- Why a step stops for good. -/
inductive Fault where
  /-- Raised by `step` when the module has no power (R422: after a thermal shutdown power is removed from the dies)
  and the turn is not a fundamental reset. Safe: nothing runs there. -/
  | noPower
deriving DecidableEq, Repr

/-- Why an instruction has no meaning. -/
inductive Refusal where
  /-- The arm of an instruction that the model does not give a meaning yet. Safe. -/
  | notModelled (mnemonic : String)
deriving DecidableEq, Repr

/-- The machine right after a fundamental reset (R415): every register at its reset value, BOOT at step 1, memory
unwritten (R77), no launch; core 0 is the core inline. -/
def State.reset : State :=
  { core := {}, cur := 0, others := [], agenda := [], rr := 0, fresh := 0, input := {}, pick := 0, hbm := [],
    sectors := [], l2 := [], l2Age := 0, copies := [], hostMem := [], hostPoison := [], hostLines := [], blocks := [], selfTests := [], failing := [], columns := [], lasting := [],
    prq := {}, pageReqs := [], frq := {}, rq := {}, prefetch := [], bringIns := [], swaps := [], holds := [],
    dies := [], takes := [], joins := [], spawns := [], loomWaits := [], groups := [], nextGroup := 0, strait := {}, host := {}, images := [], nextImage := 0 }

end Sys2Proof.Machine
end

