-- ==== Sys2Proof/Machine/Home.lean ====
section
/-! DEFINITION. Main memory at its home point (spec 05_main_memory_protection R75 to R92): cores and dies by number, sectors, the
strengths of the numeric layout codes, severity classes, L2 lines, memory error records, and reads and writes of
sectors by everything that reaches them. -/

namespace Sys2Proof.Machine

/-! ### Cores and dies (R8, R9) -/

/-- A core of the island by number. -/
def coreOf (s : State) (n : Nat) : Core := if n = s.cur then s.core else mget {} s.others n
/-- Replace a core of the island. -/
def withCore (s : State) (n : Nat) (c : Core) : State :=
  if n = s.cur then { s with core := c } else { s with others := mset {} s.others n c }
/-- Make another core the one whose turn it is. -/
def switchTo (s : State) (n : Nat) : State :=
  if n = s.cur then s
  else { s with core := mget {} s.others n, others := mset {} (mset {} s.others s.cur s.core) n {}, cur := n }
/-- Change every core of the island. -/
def mapCores (f : Core → Core) (s : State) : State :=
  { s with core := f s.core, others := (s.others.map (fun p => (p.1, f p.2))).filter (fun p => p.2 ≠ {}) }
/-- The numbers of every core that has ever been used. -/
def coreNumbers (s : State) : List Nat := s.cur :: (s.others.map (·.1)).filter (· ≠ s.cur)

/-- A die. -/
def dieOf (s : State) (d : Nat) : Die := mget {} s.dies d
/-- Replace a die. -/
def withDie (s : State) (d : Nat) (x : Die) : State := { s with dies := mset {} s.dies d x }
/-- The die of a core number (R9). -/
def dieOfCore (n : Nat) : Nat := n / 192
/-- The quad of a core within its die (R9). -/
def quadOf (n : Nat) : Nat := 8 * (n % 192 / 16 / 2) + n % 16 / 2
/-- The position of a core within its quad (R9). -/
def qcOf (n : Nat) : Nat := 2 * (n % 192 / 16 % 2) + n % 16 % 2
/-- The four cores of a core's quad, by QC (R9). -/
def quadMembers (n : Nat) : List Nat :=
  let b := 192 * (n / 192) + 32 * (n % 192 / 32) + 2 * (n % 16 / 2)
  [b, b + 1, b + 16, b + 17]

/-- Add to counter i of Table 18.7 on a die; the counters saturate (R408). -/
def addCounter (d i n : Nat) (s : State) : State :=
  let x := dieOf s d
  let v := min (mget 0 x.counters i + n) (2 ^ 64 - 1)
  withDie s d { x with counters := mset 0 x.counters i v }

/-- A bit set by number. -/
def setBit {n : Nat} (v : BitVec n) (i : Nat) (b : Bool) : BitVec n :=
  if b then v ||| (1#n <<< i) else v &&& ~~~(1#n <<< i)

/-! ### Rings of the control window -/

/-- The bytes of words, little-endian (R2). -/
def wordBytes (ws : List Word) : List Byte := ws.flatMap (fun w => leBytes 8 w.toNat)

/-- The ring is full (R116; the counts run as those of R102 do, log entry 8). -/
def Ring.full (r : Ring) : Bool := r.size.toNat ≤ (r.head - r.tail).toNat
/-- The address of entry number n of a ring of entries of `sz` bytes. -/
def Ring.slot (r : Ring) (n : Word) (sz : Nat) : Nat := r.base.toNat + sz * (n.toNat % r.size.toNat)

/-! ### Physical addresses (R75, R76) -/

/-- The end of device memory (R75). -/
def memEnd : Nat := 0x6000000000
/-- The stack of a physical address (R76). -/
def stackOf (pa : Nat) : Nat := (pa / 4096 % 8) ^^^ (pa / 4096 / 8 % 8)
/-- The home die (R76). -/
def homeDie (pa : Nat) : Nat := stackOf pa / 2
/-- The byte address within the stack (R76). -/
def localAddr (pa : Nat) : Nat := pa / 4096 / 8 * 4096 + pa % 4096
/-- The row of a sector: the 4 KiB chunk (R76; log entry 9). -/
def rowLocation (sec : Nat) : Nat := stackOf (64 * sec) * 2 ^ 36 + localAddr (sec / 64 * 4096)
/-- The frame has been retired (R99). -/
def retiredSector (s : State) (sec : Nat) : Bool := mget false (dieOf s (homeDie (sec / 1024 * 65536))).retired (sec / 1024)

/-! ### Classes of a sector's bits (Table 5.1, R79 to R81) -/

/-- Element width, highest and lowest Minor bit, Minor bits in a parity group; none where the code has no Minor bits. -/
def minorOf : Nat → Option (Nat × Nat × Nat × Nat)
  | 1 => some (8, 4, 3, 4)
  | 2 => some (32, 19, 8, 12)
  | 3 => some (32, 22, 12, 11)
  | 4 => some (16, 6, 3, 4)
  | 5 => some (16, 9, 5, 5)
  | 6 | 11 | 14 => some (8, 2, 1, 4)
  | 7 | 12 => some (8, 1, 1, 2)
  | 8 => some (4, 0, 0, 4)
  | 9 => some (6, 2, 1, 6)
  | 10 => some (6, 1, 1, 3)
  | _ => none

/-- Codes under which an uncorrectable error is E3 (Table 5.2): RAW, SCALE, CODE, TABLE. -/
def isE3Code (c : Nat) : Bool := c == 0 || c == 13 || c == 15 || c == 16

/-- Element number and position within the element of bit i of a sector (R79, R80). -/
def elemOf (code w sec i : Nat) : Nat × Nat :=
  let b := if code == 9 || code == 10 then 512 * (sec % 1024) + i else i
  (b / w, b % w)

/-- The Minor bits of a sector, ascending (R80). -/
def minorBits (code sec : Nat) : List Nat :=
  match minorOf code with
  | none => []
  | some (w, hi, lo, _) => (List.range (if code == 14 then 384 else 512)).filter fun i =>
      let p := (elemOf code w sec i).2
      lo ≤ p && p ≤ hi

/-- E1 delivery (Table 5.2): every element with a Minor bit in a failing group (`none`: all groups) has its Minor and
Bulk bits that lie in the sector zeroed. -/
def zeroE1 (code sec : Nat) (groups : Option (List Nat)) (v : BitVec 512) : BitVec 512 :=
  match minorOf code with
  | none => v
  | some (w, hi, _, g) =>
    let ms := minorBits code sec
    let hit := match groups with
      | none => ms
      | some gs => ((List.range ms.length).filter (fun k => gs.contains (k / g))).filterMap (fun k => ms[k]?)
    let elems := (hit.map (fun i => (elemOf code w sec i).1)).eraseDups
    (List.range (if code == 14 then 384 else 512)).foldl (fun v i =>
      let (e, p) := elemOf code w sec i
      if p ≤ hi && elems.contains e then setBit v i false else v) v

/-- n copies of a w-bit pattern. -/
def repeatPat (w n pat : Nat) : Nat := (List.range n).foldl (fun a k => a + pat * 2 ^ (w * k)) 0

/-- The poison pattern of a sector (Table 5.3). -/
def poisonPattern (code : Nat) : BitVec 512 :=
  BitVec.ofNat 512 <| match code with
  | 3 => repeatPat 32 16 0x7FC002E2
  | 4 => repeatPat 16 32 0x7FE2
  | 5 => repeatPat 16 32 0x7EE2
  | 6 | 11 => repeatPat 8 64 0x7F
  | 7 | 12 => repeatPat 8 64 0x7E
  | 14 => repeatPat 8 48 0x7F + repeatPat 16 3 0x7EE2 * 2 ^ 384
  | 13 => repeatPat 8 64 0xFF
  | _ => 0

/-! ### What the check bits show (R82) -/

/-- Bit i of a sector is Critical under a code (Table 5.1). -/
def isCritical (code sec i : Nat) : Bool :=
  match minorOf code with
  | none => true
  | some (_, hi, _, _) => (code == 14 && 384 ≤ i) || hi < (elemOf code ((minorOf code).elim 64 (·.1)) sec i).2

/-- The first check bit of the Minor parity groups; those below it belong to the Critical code (not architectural, log
entry 64). -/
def parityBits : Nat := 547

/-- An error that a read finds: its class, the bits corrected, the failing groups (none: all), MULTI. -/
structure FoundErr where
  cls : Nat
  cbits : Nat
  groups : Option (List Nat)
  multi : Bool
deriving DecidableEq, Repr

/-- Bits of a sector flipped. -/
def flipBits (ps : List Nat) (v : BitVec 512) : BitVec 512 := ps.foldl (fun v i => if i < 512 then v ^^^ (1#512 <<< i) else v) v

/-- The bits of `a` where the mask is 1, of `b` elsewhere. -/
def blend (mask a b : BitVec 512) : BitVec 512 := (a &&& mask) ||| (b &&& ~~~mask)

/-- The bits of a sector that satisfy a test, as a mask. -/
def bitsWhere (p : Nat → Bool) : BitVec 512 := (List.range 512).foldl (fun v i => if p i then v ||| (1#512 <<< i) else v) 0

/-- The word of a bit under a code with SEC-DED for each word: a data bit's word, a check bit's word. -/
def wordOf (i : Nat) : Nat := if i < 512 then i / 64 else (i - 512) / 8

/-- The flips of each word that holds one, with the word. -/
def wordFlips (flips : List Nat) : List (Nat × Nat) :=
  ((List.range 8).map (fun w => (w, flips.countP (fun i => wordOf i == w)))).filter (fun p => p.2 != 0)

/-- The Minor parity group of a flipped bit of a sector: of a Minor bit its group, of a parity bit the group that it
protects. -/
def groupOf (code sec i : Nat) : Option Nat :=
  if 512 ≤ i then (if parityBits ≤ i then some (i - parityBits) else none)
  else match minorOf code with
    | none => none
    | some (_, _, _, g) => ((minorBits code sec).findIdx? (· == i)).map (· / g)

/-- The Minor parity groups of a sector that fail: an odd number of flips, the parity bit's own among them (R82). -/
def failingGroups (code sec : Nat) (flips : List Nat) : List Nat :=
  let gs := flips.filterMap (groupOf code sec)
  gs.eraseDups.filter (fun g => gs.count g % 2 == 1)

/-- The error of a read: `fixed` bits corrected, the failing groups, whether some Critical pattern is uncorrectable (R85,
R89). -/
def classify (code fixed : Nat) (groups : List Nat) (lost : Bool) : Option FoundErr :=
  let multi := decide (1 < ([fixed != 0, !groups.isEmpty, lost].countP id))
  if lost then some ⟨if isE3Code code then 3 else 2, fixed, some groups, multi⟩
  else if !groups.isEmpty then some ⟨1, fixed, some groups, multi⟩
  else if fixed != 0 then some ⟨0, fixed, some groups, multi⟩
  else none

/-- What the check bits make of flipped bits of a sector stored as `v` (R82): the data with what is corrected or undetected,
and the error found. A pattern beyond the detection strength gives free data and no record. -/
def decodeFlips (code sec : Nat) (flips : List Nat) (v : BitVec 512) : BitVec 512 × Option FoundErr :=
  if flips.isEmpty then (v, none)
  else if code == 0 then
    let ws := wordFlips flips
    let beyond := bitsWhere (fun i => ws.any (fun p => p.1 == i / 64 && 2 < p.2))
    (blend beyond (Config.miscorrected flips v) v,
      classify code (ws.countP (fun p => p.2 == 1)) [] (ws.any (fun p => p.2 == 2)))
  else
    let mine := fun (i : Nat) => if i < 512 then isCritical code sec i else ((minorOf code).isNone || i < parityBits)
    let n := flips.countP mine
    let fix := if isE3Code code then 6 else 3
    let data := flipBits (flips.filter (fun i => !mine i)) v
    let data := if n ≤ fix + 1 then data else blend (bitsWhere (isCritical code sec)) (Config.miscorrected flips v) data
    (data, classify code (if n ≤ fix then n else 0) (failingGroups code sec flips) (n == fix + 1))

/-- The bits of a stored sector that a read finds flipped. -/
def SectorMeta.flipped (m : SectorMeta) : List Nat := (m.flips ++ m.cells).eraseDups

/-! ### Lines of the L2 slices (R8, R90, R134, R146) -/

/-- The line of a sector in its home L2 slice. -/
def homeLine (s : State) (sec : Nat) : Option L2Line := mget none s.l2 sec

/-- The lines that a slice of 64 MiB holds, without the way sets that are retired (R8, R406). -/
def sliceLines (s : State) (die : Nat) : Nat := 1048576 - (dieOf s die).waysOff

/-- The lines that leave with a line: those of its LDBLK block (R146), else the line alone. -/
def evicted (s : State) (sec : Nat) : List Nat :=
  match s.blocks.find? (fun b => b.1 ≤ sec && sec < b.1 + b.2) with
  | some b => (List.range b.2).map (b.1 + ·)
  | none => [sec]

/-- The stored sectors as dirty lines that leave write them back (R134): no bit of them has flipped since. -/
def writtenBack (secs : List Nat) (s : State) : SMap SectorMeta :=
  secs.foldl (fun m k => if (homeLine s k).any (·.dirty) then mset {} m k { mget {} m k with flips := [] } else m) s.sectors

/-- Lines leave a slice; `hbm` holds what a dirty line writes back (R134). -/
def dropLines (secs : List Nat) (s : State) : State :=
  { s with
    sectors := writtenBack secs s
    l2 := secs.foldl (fun m k => mset none m k none) s.l2
    blocks := s.blocks.filter (fun b => !secs.any (fun k => b.1 ≤ k && k < b.1 + b.2)) }

/-- The line of a die's slice that leaves first: the oldest that goes without a line whose words show errors (log entry 10). -/
def victim (s : State) (die : Nat) : Option Nat :=
  let sound := fun (k : Nat) => (evicted s k).all (fun j => (homeLine s j).all (fun l => l.flips.isEmpty))
  let ls := s.l2.filterMap (fun p => p.2.bind (fun l => if homeDie (64 * p.1) == die && sound p.1 then some (l.age, p.1) else none))
  (ls.foldl (fun best p => match best with
    | none => some p
    | some b => if p.1 < b.1 then some p else some b) none).map (·.2)

/-- Room for one more line of a die. -/
def makeRoom (die : Nat) (s : State) : State :=
  if s.l2.countP (fun p => homeDie (64 * p.1) == die) < sliceLines s die then s
  else match victim s die with
    | some k => dropLines (evicted s k) s
    | none => s

/-- A sector's line enters its home slice, or takes new content there. -/
def putLine (sec : Nat) (v : BitVec 512) (code : Option Nat) (mk : Marks) (dirty : Bool) (s : State) : State :=
  match homeLine s sec with
  | some l => { s with l2 := mset none s.l2 sec (some { l with data := v, code := code, marks := mk, dirty := dirty, flips := [] }) }
  | none =>
    let s := makeRoom (homeDie (64 * sec)) s
    { s with l2 := mset none s.l2 sec (some { data := v, code := code, marks := mk, dirty := dirty, age := s.l2Age }), l2Age := s.l2Age + 1 }

/-! ### Memory error records and self-tests (R92, R405) -/

/-- A sector as delivered: its data and marks, and whether this read itself found it at E3 (Table 5.2). -/
structure SecRead where
  data : BitVec 512
  marks : Marks
  e3 : Bool
deriving DecidableEq, Repr

/-- The low half of a memory error record (Table 5.4). -/
def memRecord (cls code source stack cbits sec : Nat) (multi mismatch : Bool) : Word :=
  BitVec.ofNat 64 (cls * 2 ^ 62 + code * 2 ^ 56 + source * 2 ^ 52 + stack * 2 ^ 49 + (if multi then 2 ^ 48 else 0)
    + min cbits 255 * 2 ^ 40 + (if mismatch then 2 ^ 33 else 0) + sec % 2 ^ 33)

/-- Start the targeted self-test of a part (R405): a part already under test, or found LASTING and not repaired, starts
none. -/
def startTest (unit location die : Nat) (sectors : List Nat) (lasting : Bool) (s : State) : State :=
  if s.lasting.contains (unit, location) then s
  else if s.selfTests.any (fun t => t.unit == unit && t.location == location) then
    { s with selfTests := s.selfTests.map (fun t =>
        if t.unit == unit && t.location == location then
          { t with sectors := (t.sectors ++ sectors).eraseDups, lasting := t.lasting || lasting } else t) }
  else { s with selfTests := s.selfTests ++ [{ unit, location, sectors, lasting, die, since := s.pick }] }

/-- A self-test of the sector's row, or of its home L2 slice, runs; foreground accesses wait (Table 18.8), from the tick after the detection on, so that
the access that detects the error is not held by its own test. -/
def rowTested (s : State) (sec : Nat) : Bool :=
  s.selfTests.any (fun t => t.since != s.pick &&
    ((t.unit == 0 && t.location == rowLocation sec) || (t.unit == 6 && t.die == homeDie (64 * sec))))

/-- The self-test of a part runs. -/
def testRuns (s : State) (unit location : Nat) : Bool := s.selfTests.any (fun t => t.unit == unit && t.location == location)

/-- The running self-test that the detection behind a mark started, if any (R402): that of the sector's row, or of its home L2
slice for a record of SOURCE 7. -/
def markTests (s : State) (mk : Marks) : List (Nat × Nat) :=
  let sec := mk.log.toNat % 2 ^ 33
  let source := mk.log.toNat / 2 ^ 52 % 16
  let t := if source == 7 then (6, homeDie (64 * sec) * 2 ^ 38) else (0, rowLocation sec)
  if testRuns s t.1 t.2 then [t] else []

/-! ### Reads of sectors at the home point (R78, R83 to R85, R89, R90, R404) -/

/-- The stored bytes of a sector. -/
def sectorData (s : State) (sec : Nat) : BitVec 512 := BitVec.ofNat 512 (leNat (s.hbm.readN (64 * sec) 64))

/-- The data of a sector as its home slice serves it: its line's, else what HBM stores. -/
def homeData (s : State) (sec : Nat) : BitVec 512 := ((homeLine s sec).map (·.data)).getD (sectorData s sec)
/-- The marks of a sector as its home slice serves it. -/
def homeMarks (s : State) (sec : Nat) : Marks := ((homeLine s sec).map (·.marks)).getD (mget {} s.sectors sec).marks
/-- The code of a sector as its home slice serves it; none of an unwritten one. -/
def homeCode (s : State) (sec : Nat) : Option Nat :=
  match homeLine s sec with
  | some l => l.code
  | none => (mget {} s.sectors sec).code

/-- The core whose armed injection names the sector (R404). -/
def injector (s : State) (sec : Nat) : Option Nat :=
  (coreNumbers s).find? (fun n => n < 768 && bit (coreOf s n).sh.errinj 63 && (coreOf s n).sh.errinjSector == sec)

/-- The injected class under the governing code (R404). -/
def injectedClass (code cls : Nat) : Nat :=
  if cls == 0 then 0
  else if cls == 1 then (if isE3Code code then 0 else 1)
  else if isE3Code code then 3 else 2

/-- The core whose armed injection a read takes; background work (`fg` false) uses up none. -/
def injectionOf (fg : Bool) (s : State) (sec : Nat) : Option Nat := if fg then injector s sec else none
/-- The injection that a read takes is used up (R404). -/
def spendInjection (inj : Option Nat) (s : State) : State :=
  match inj with
  | some n => withCore s n { coreOf s n with sh := { (coreOf s n).sh with errinj := setBit (coreOf s n).sh.errinj 63 false } }
  | none => s
/-- The code under which a read takes a sector: the stored code; of an unwritten sector that checked as the injection was
armed, or the reader's. -/
def readCode (s : State) (inj reader : Option Nat) (sec : Nat) : Nat :=
  match homeCode s sec, inj with
  | some c, _ => c
  | none, some n => (coreOf s n).sh.errinjCode
  | none, none => reader.getD 0

/-- The reader's code is not the governing one (R78, R84, R404); an unwritten sector shows that under an injection only. -/
def readMismatch (s : State) (inj reader : Option Nat) (sec : Nat) : Bool :=
  ((homeCode s sec).isSome || inj.isSome) && reader.any (· != readCode s inj reader sec)

/-- The error that an injection shows (R404): every group of class 1, one corrected bit of class 0. -/
def injectedErr (s : State) (n code : Nat) : FoundErr :=
  let c := injectedClass code ((coreOf s n).sh.errinj.toNat % 4)
  ⟨c, if c == 0 then 1 else 0, none, false⟩

/-- An injected error beside one that the read itself finds: the higher class, and MULTI where they differ (R89, R404). -/
def joinErr : Option FoundErr → Option FoundErr → Option FoundErr
  | none, e => e
  | e, none => e
  | some a, some b =>
    some ⟨max a.cls b.cls, a.cbits + b.cbits, if b.cls == 1 then none else a.groups, a.multi || a.cls != b.cls⟩

/-- A sector as a read of class `e` delivers it (Table 5.2), from its bits and marks, with the record of the error. -/
def deliverError (e : FoundErr) (code sec : Nat) (raw : BitVec 512) (mk : Marks) (low pick : Word) : SecRead :=
  let mk' : Marks := { mk with log := low, found := pick }
  if e.cls == 0 then ⟨raw, mk, false⟩
  else if e.cls == 1 then ⟨zeroE1 code sec e.groups raw, { mk' with e1 := true }, false⟩
  else ⟨poisonPattern code, { mk' with poison := true }, e.cls == 3⟩

/-- The bits that a read of a sector meets, with the error found: of a resident line its data, of a retired frame E3 (R99), else
what the check bits make of the stored bits, an unwritten sector showing none (R77). -/
def readBits (s : State) (code sec : Nat) : BitVec 512 × Option FoundErr :=
  let m := mget {} s.sectors sec
  if retiredSector s sec then (sectorData s sec, some ⟨3, 0, none, false⟩)
  else match homeLine s sec with
    | some l => (l.data, none)
    | none => if m.code.isNone then (sectorData s sec, none) else decodeFlips code sec m.flipped (sectorData s sec)

/-- A record of an error on its way into the ring of a die. -/
abbrev Recorder := Nat → Word → State → State

/-- What the device notes of an error that a read finds: its record (R92), its count (R408), the test of its row (R405). -/
def noteErrorBy (log : Recorder) (e : FoundErr) (sec : Nat) (low : Word) (s : State) : State :=
  let die := homeDie (64 * sec)
  startTest 0 (rowLocation sec) die [sec] false (addCounter die e.cls 1 (log die low s))

/-- Store a sector's bytes with a code and marks; the check bits are recomputed. -/
def writeHbm (sec : Nat) (v : BitVec 512) (code : Option Nat) (mk : Marks) (s : State) : State :=
  { s with
    hbm := s.hbm.write (64 * sec) (leBytes 64 v.toNat)
    sectors := mset {} s.sectors sec { code := code, marks := mk, cells := (mget {} s.sectors sec).cells } }

/-- The words of a resident line that show an error are corrected, refetched or lost (R90); the answer says whether the read
finds E3. -/
def settleLine (log : Recorder) (sec : Nat) (s : State) : Bool × State :=
  match homeLine s sec with
  | none => (false, s)
  | some l =>
    if l.flips.isEmpty then (false, s)
    else
      let die := homeDie (64 * sec)
      let code := l.code.getD 0
      let ws := wordFlips l.flips
      let fixed := ws.countP (fun p => p.2 == 1)
      let lost := (ws.filter (fun p => p.2 == 2)).map (·.1)
      let beyond := bitsWhere (fun i => ws.any (fun p => p.1 == i / 64 && 2 < p.2))
      let data := blend beyond (Config.miscorrected l.flips l.data) l.data
      let note := fun (cls : Nat) (multi : Bool) (s : State) =>
        startTest 6 (die * 2 ^ 38) die [sec] (s.failing.contains (6, die * 2 ^ 38))
          (log die (memRecord cls code 7 (stackOf (64 * sec)) fixed sec multi false) s)
      if fixed == 0 && lost.isEmpty then (false, putLine sec data l.code l.marks l.dirty s)
      else if lost.isEmpty then
        (false, putLine sec data l.code l.marks l.dirty (note 0 false (addCounter die 5 fixed s)))
      else if !l.dirty then
        let s := note 0 false (addCounter die 5 (fixed + lost.length) s)
        (false, { s with l2 := mset none s.l2 sec none })
      else
        let cls := if isE3Code code then 3 else 2
        let elem := fun (i : Nat) => (elemOf code 6 sec i).1
        let hit := fun (i : Nat) => lost.contains (i / 64)
        let split := code == 9 || code == 10
        let mask := if cls == 3 then BitVec.allOnes 512
          else bitsWhere (fun i => hit i || (split && (List.range 6).any (fun k =>
            (hit (i - k) && elem (i - k) == elem i) || (i + k < 512 && hit (i + k) && elem (i + k) == elem i))))
        let mk : Marks := { l.marks with poison := true, log := memRecord cls code 7 (stackOf (64 * sec)) fixed sec (fixed != 0) false, found := s.pick }
        let v := blend mask (poisonPattern code) data
        let s := addCounter die 7 lost.length (addCounter die cls 1 (note cls (fixed != 0) s))
        (cls == 3, writeHbm sec v l.code mk (putLine sec v l.code mk true s))

/-- What a read of a sector finds and delivers. `reader` is the reader's code (none: untranslated), `source` SOURCE of
Table 5.4; background work (`fg` false) takes no injection. Every error or mismatch is recorded (R92). -/
def readSectorBy (log : Recorder) (fg : Bool) (reader : Option Nat) (source sec : Nat) (s : State) : SecRead × State :=
  let (lost, s) := settleLine log sec s
  let mk := homeMarks s sec
  let inj := injectionOf fg s sec
  let code := readCode s inj reader sec
  let mismatch := readMismatch s inj reader sec
  let stack := stackOf (64 * sec)
  let (raw, own) := readBits s code sec
  match joinErr own (inj.map (fun n => injectedErr s n code)) with
  | none => (⟨raw, mk, lost⟩,
      if mismatch then log (homeDie (64 * sec)) (memRecord 0 code source stack 0 sec false true) (spendInjection inj s)
      else spendInjection inj s)
  | some e =>
    let low := memRecord e.cls code source stack e.cbits sec e.multi mismatch
    (deliverError e code sec raw mk low s.pick, noteErrorBy log e sec low (spendInjection inj s))

/-- What a read of HBM itself finds and delivers, whatever the home slice holds: scrubbing, sparing (R94, R99). -/
def readHbmBy (log : Recorder) (source sec : Nat) (s : State) : Option FoundErr × SecRead × State :=
  let m := mget {} s.sectors sec
  let code := m.code.getD 0
  let (raw, own) :=
    if retiredSector s sec then (sectorData s sec, some ⟨3, 0, none, false⟩)
    else if m.code.isNone then (sectorData s sec, none) else decodeFlips code sec m.flipped (sectorData s sec)
  match own with
  | none => (none, ⟨raw, m.marks, false⟩, s)
  | some e =>
    let low := memRecord e.cls code source (stackOf (64 * sec)) e.cbits sec e.multi false
    (some e, deliverError e code sec raw m.marks low s.pick, noteErrorBy log e sec low s)

/-- A line of HBM is brought into its home slice as its fill reads it, whatever injection is armed (R134, R145, R146, R404). -/
def bringLineBy (log : Recorder) (sec : Nat) (s : State) : State :=
  if (homeLine s sec).isSome || retiredSector s sec || memEnd ≤ 64 * sec then s
  else
    let (_, r, s) := readHbmBy log 0 sec s
    if r.e3 then s else putLine sec r.data (mget {} s.sectors sec).code r.marks false s

/-! ### Writes of sectors at the home point (R78, R83) -/

/-- Replace the bytes of a sector that a mask names. -/
def mergeBytes (mask : BitVec 64) (new old : BitVec 512) : BitVec 512 :=
  BitVec.ofNat 512 (leNat ((List.range 64).map (fun i => (if bit mask i then new else old).extractLsb' (8 * i) 8)))

/-- A write performed at the home slice: the sector's line is dirty until it leaves the slice (R134). -/
def putSector (sec : Nat) (v : BitVec 512) (code : Option Nat) (mk : Marks) (s : State) : State :=
  writeHbm sec v code mk (putLine sec v code mk true s)

/-- A write of a whole sector by the device's background work: HBM takes it, and a line of the sector leaves its slice. -/
def fillSector (sec : Nat) (v : BitVec 512) (code : Option Nat) (mk : Marks) (s : State) : State :=
  writeHbm sec v code mk (dropLines [sec] s)

/-- A write that reaches a frame which the device copies (R97, R99, R125). -/
def noteWriteHit (sec : Nat) (s : State) : State :=
  { s with copies := s.copies.map (fun c => if c.old == sec / 1024 then { c with hit := true } else c) }

/-- Write bytes of a sector (R83). A whole-sector write clears the marks (or stores those that a copy carries, R87); a
partial write is a read-modify-write. `code` none: untranslated, under the stored code, RAW when unwritten (R78). A write
to a retired frame is dropped and recorded (R99). -/
def writeSectorBy (log : Recorder) (code : Option Nat) (sec : Nat) (mask : BitVec 64) (v : BitVec 512) (mk : Marks) (s : State) : State :=
  let c := code.getD ((homeCode s sec).getD 0)
  if retiredSector s sec then
    log (homeDie (64 * sec)) (memRecord 3 c 1 (stackOf (64 * sec)) 0 sec false false) s
  else if mask == BitVec.allOnes 64 then putSector sec v (some c) mk (noteWriteHit sec s)
  else
    let (r, s) := readSectorBy log true code 1 sec (noteWriteHit sec s)
    let keep : Marks := if mk.poison || mk.e1 then
        { r.marks with poison := r.marks.poison || mk.poison, e1 := r.marks.e1 || mk.e1,
                       log := mk.log, found := mk.found } else r.marks
    putSector sec (mergeBytes mask v r.data) (some c) keep s

/-! ### The device's own accesses (R92, R116) -/

/-- The byte mask of n bytes from byte `off` of a sector. -/
def maskOf (off n : Nat) : BitVec 64 := BitVec.ofNat 64 ((2 ^ n - 1) * 2 ^ off)
/-- Bytes placed in a sector at an offset. -/
def placeBytes (off : Nat) (bs : List Byte) : BitVec 512 := BitVec.ofNat 512 (leNat bs * 2 ^ (8 * off))
/-- n bytes of a sector from an offset. -/
def sliceBytes (v : BitVec 512) (off n : Nat) : List Byte := leBytes n (v.toNat / 2 ^ (8 * off))

/-- A write of bytes to device memory by the device itself under one code, sector by sector (R83). -/
def devWriteBy (log : Recorder) (code pa : Nat) (bs : List Byte) (s : State) : State :=
  let lo := pa / 64
  let hi := (pa + bs.length + 63) / 64
  (List.range (hi - lo)).foldl (fun s k =>
    let a := max pa (64 * (lo + k))
    let e := min (pa + bs.length) (64 * (lo + k + 1))
    writeSectorBy log (some code) (lo + k) (maskOf (a % 64) (e - a)) (placeBytes (a % 64) ((bs.drop (a - pa)).take (e - a))) {} s) s

/-- An error met while a record is written into its ring takes no record of its own: it counts as dropped (log entry 16). -/
def dropRecord : Recorder := fun die _ s =>
  addCounter die 12 1 (withDie s die { dieOf s die with errDrops := (dieOf s die).errDrops + 1 })

/-- Append a 16-byte entry to a ring of a die that firmware placed; none when the ring is full (R92, R407). -/
def appendDieRing (r : Ring) (words : List Word) (s : State) : Option (Ring × State) :=
  if r.full then none
  else some ({ r with head := r.head + 1 }, devWriteBy dropRecord 16 (r.slot r.head 16) (wordBytes words) s)

/-- Write a memory error record to the home die's ring, or count the drop (R92). -/
def logMemError : Recorder := fun die low s =>
  match appendDieRing (dieOf s die).errRing [low, s.pick] s with
  | some (r, s') => withDie s' die { dieOf s' die with errRing := r }
  | none => dropRecord die low s

/-- What the device notes of an error that a read finds. -/
def noteError : FoundErr → Nat → Word → State → State := noteErrorBy logMemError
/-- A read of a sector, its errors recorded in the ring of its home die. -/
def readSector : Bool → Option Nat → Nat → Nat → State → SecRead × State := readSectorBy logMemError
/-- A line of HBM is brought into its home slice, its errors recorded in the ring of its home die. -/
def bringLine : Nat → State → State := bringLineBy logMemError
/-- A write of bytes of a sector, its errors recorded in the ring of its home die. -/
def writeSector : Option Nat → Nat → BitVec 64 → BitVec 512 → Marks → State → State := writeSectorBy logMemError
/-- A write of bytes to device memory by the device itself under one code. -/
def devWrite : Nat → Nat → List Byte → State → State := devWriteBy logMemError

/-- A read of bytes within one sector by the device itself (rings, tables of the control window), as delivered. -/
def devRead (pa n : Nat) (s : State) : Nat × State :=
  let (r, s) := readSector true none 0 (pa / 64) s
  (leNat (sliceBytes r.data (pa % 64) n), s)

end Sys2Proof.Machine
end

