-- ==== Sys2Proof/Machine/Mesh.lean ====
section
/-! DEFINITION. The mesh of the dies (spec 14_archipelago R320 to R325): the routing tables, what fenced parts cut off, and the
path of an access from a core to a home slice or to a unit of a die. -/

namespace Sys2Proof.Machine

/-- The reset mesh route (R321): to the destination column first, then along it; edge nodes leave north of row 0. -/
def resetRoute (router node : Nat) : Nat :=
  let row := router % 192 / 16
  let col := router % 16
  let dc := if node < 192 then node % 16 else (node - 192) % 16
  if col < dc then 3 else if dc < col then 4
  else if node < 192 then (if row < node / 16 then 2 else if node / 16 < row then 1 else 0)
  else 1

/-- The output of a router for an input class and node (R321). -/
def meshOut (st : Strait) (router cls node : Nat) : Nat :=
  mget (resetRoute router node) st.mesh (1280 * router + 256 * cls + node)

/-- The tables that route flits: those before the writes of RTSET until the state returns to NORMAL (R324). -/
def Strait.inForce (st : Strait) : Strait :=
  match st.before with
  | some (m, i, g) => { st with mesh := m, islands := i, stages := g }
  | none => st

/-- Injection is released: the state is NORMAL, and what RTSET has written is in force (R322, R324). -/
def Strait.released (st : Strait) : Strait := { st with routing := .normal, before := none }

/-- Whether a flit from a router reaches a node of its die without meeting a fenced router. -/
def meshReaches (st : Strait) : Nat → Nat → Nat → Nat → Bool
  | 0, _, _, _ => false
  | fuel + 1, router, cls, node =>
    let row := router % 192 / 16
    !mget false st.fencedRouters router &&
      match meshOut st router cls node with
      | 0 => true
      | 1 => if row == 0 then true else meshReaches st fuel (router - 16) 4 node
      | 2 => if row == 11 then false else meshReaches st fuel (router + 16) 3 node
      | 3 => if router % 16 == 15 then false else meshReaches st fuel (router + 1) 1 node
      | _ => if router % 16 == 0 then false else meshReaches st fuel (router - 1) 2 node

/-- The island route entry of a die (R321). -/
def islandPort (st : Strait) (die island : Nat) : Nat := mget 0x1F st.islands (1024 * die + island)

/-- The key of the bridge between two dies. -/
def bridgeKey (a b : Nat) : Nat := 4 * min a b + max a b

/-- The router at which an edge node of a die meets the mesh (R320). -/
def nodeRouter (die node : Nat) : Nat := 192 * die + (node - 192) % 16

/-- A flit of a die that leaves by a port of another die passes the bridge and that die's mesh (R321). -/
def bridgeReaches (st : Strait) (die port : Nat) : Bool :=
  port / 4 == die || (!mget false st.fencedBridges (bridgeKey die (port / 4))
    && meshReaches st 64 (nodeRouter (port / 4) (224 + die)) 3 (228 + port % 4))

/-! ### Traffic within the island (R320, R323, R325) -/

/-- A core's new traffic is held: a drain is on, or its end has not released injection, and this core did not start it (R323). -/
def trafficHeld (st : Strait) (core : Nat) : Bool := st.routing != .normal && st.drainCore != core

/-- No router and no bridge is fenced. -/
def noFences (st : Strait) : Bool := st.fencedRouters.isEmpty && st.fencedBridges.isEmpty

/-- A core's traffic reaches a node of a die by its own mesh, the bridge and the mesh of that die without meeting a fence
(R320, R321, R325). -/
def coreReaches (st : Strait) (core die node : Nat) : Bool :=
  let st := st.inForce
  let own := dieOfCore core % 4
  noFences st || (if die == own then meshReaches st 64 (core % 768) 0 node
    else meshReaches st 64 (core % 768) 0 (224 + die) && !mget false st.fencedBridges (bridgeKey own die)
      && meshReaches st 64 (nodeRouter die (224 + own)) 3 node)

/-- A flit that enters the mesh of die `own` at its edge node `from'` reaches a node of a die (R320, R325). -/
def nodeReaches (st : Strait) (own from' die node : Nat) : Bool :=
  let st := st.inForce
  noFences st || (if die == own then meshReaches st 64 (nodeRouter own from') 3 node
    else meshReaches st 64 (nodeRouter own from') 3 (224 + die) && !mget false st.fencedBridges (bridgeKey own die)
      && meshReaches st 64 (nodeRouter die (224 + own)) 3 node)

/-- A flit that has come in by a port reaches a node of a die (R320, R325). -/
def portReaches (st : Strait) (port die node : Nat) : Bool := nodeReaches st (port / 4) (228 + port % 4) die node

/-- The L2 slice port that serves a line, which the spec leaves open (log entry 65). -/
def slicePort (line : Nat) : Nat := Config.slicePort line % 32

end Sys2Proof.Machine
end

