-- ==== Sys2Proof/Machine/Ops.lean ====
section
/-! DEFINITION. The named operations of the machine: how a lane or command ends, registers and the reply queue, flags,
tiles, phases, and taking a fault (spec 18_faults_reliability R395 to R400) and returning from it. -/

namespace Sys2Proof.Machine

/-! ### How an operation ends -/

/-- Why the executing phase is cancelled (R360, R401): a consumed E2, with the self-tests for which its rewind waits (R402), a
bound trap, a joint loss, the pre-emption window, or a cancel in another member with the tests of that one. -/
inductive CancelWhy where
  | e2 (tests : List (Nat × Nat))
  | bound | joint | window
  | other (tests : List (Nat × Nat))
deriving DecidableEq, Repr

/-- The self-tests for which a cancel's rewind waits (R402). -/
def CancelWhy.tests : CancelWhy → List (Nat × Nat)
  | .e2 ts => ts
  | .other ts => ts
  | _ => []

/-- What keeps an operation from completing; `keep` says that the part done so far stays. -/
inductive Stop where
  | wait (r : Stall) (keep : Bool)
  | fault (f : FaultInfo) (keep : Bool)
  | cancel (why : CancelWhy)
deriving DecidableEq, Repr

/-- An operation on the state that may stop. -/
abbrev M := EStateM Stop State

/-- Wait, with no effect on the core. -/
def stall {α : Type} (r : Stall) : M α := throw (.wait r false)
/-- Raise a fault; the lane or command at fault has no effect. -/
def raise {α : Type} (f : FaultInfo) : M α := throw (.fault f false)
/-- A precise fault of the Shuttle (ENGINE 1) with an address. -/
def shFault {α : Type} (c : FaultCode) (addr : Word := 0) : M α := raise { code := c, engine := 1, addr := addr }

/-- Change the core whose turn it is. -/
def modCore (f : Core → Core) : M Unit := modify fun s => { s with core := f s.core }
/-- Change its Shuttle. -/
def modSh (f : Shuttle → Shuttle) : M Unit := modCore fun c => { c with sh := f c.sh }
/-- Change the host side. -/
def modHost (f : HostSide → HostSide) : M Unit := modify fun s => { s with host := f s.host }
/-- Change the Strait. -/
def modStrait (f : Strait → Strait) : M Unit := modify fun s => { s with strait := f s.strait }

/-- Change a die. -/
def modDie (d : Nat) (f : Die → Die) : M Unit := modify fun s => withDie s d (f (dieOf s d))
/-- A free value of w bits (log entry 3). -/
def freeBits (w : Nat) : M (BitVec w) := do
  let s ← get
  set { s with fresh := s.fresh + 1 }
  pure (Config.freeValue w s.fresh)

/-! ### x registers, the reply queue and predicates (R195 to R199, R209) -/

/-- The register's value, x0 reading zero (R195). -/
def Shuttle.get (h : Shuttle) (r : BitVec 6) : Word := if r = 0 then 0 else mget 0 h.x r.toNat
/-- Write a register and set it FULL; x0 discards (R195). -/
def Shuttle.put (h : Shuttle) (r : BitVec 6) (v : Word) : Shuttle :=
  if r = 0 then h else { h with x := mset 0 h.x r.toNat v, empty := setBit h.empty r.toNat false }
/-- Mark a register EMPTY; x0 is always FULL (R196). -/
def Shuttle.mark (h : Shuttle) (r : BitVec 6) : Shuttle :=
  if r = 0 then h else { h with empty := setBit h.empty r.toNat true }

/-- The outstanding fault of a producer of this register (R198). -/
def Shuttle.lateFault (h : Shuttle) (r : BitVec 6) : Option FaultInfo :=
  match h.pending.find? (fun p => p.d == r && p.ready && p.fault.isSome) with
  | some p => p.fault
  | none => none

/-- Read a source register: an EMPTY one blocks, or traps with t = 1 (R30); x62 pops the reply queue (R199); a late
fault of its producer is delivered (R198). -/
def readX (t : Bool) (r : BitVec 6) : M Word := do
  let s ← get
  if r = 62 then
    match s.core.sh.replies with
    | [] => if t then shFault .emptyTrap else stall .replyQueue
    | e :: rest => modSh (fun h => { h with replies := rest }); pure e.value
  else if bit s.core.sh.empty r.toNat && r != 0 then
    match s.core.sh.lateFault r with
    | some f => raise f
    | none => if t then shFault .emptyTrap else stall .emptyRegister
  else pure (s.core.sh.get r)

/-- An EMPTY destination stalls the lane until it is FULL (R197); a late fault of its producer is delivered (R198). -/
def awaitDest (r : BitVec 6) : M Unit := do
  let s ← get
  if bit s.core.sh.empty r.toNat && r != 0 then
    match s.core.sh.lateFault r with
    | some f => raise f
    | none => stall .emptyDestination
  else pure ()

/-- A fixed-latency result (R196). -/
def writeX (r : BitVec 6) (v : Word) : M Unit := modSh (fun h => h.put r v)

/-- A predicate; p0 reads 1 (R195). -/
def Shuttle.pred (h : Shuttle) (i : Nat) : Bool := i == 0 || bit h.p i
/-- Write a predicate. -/
def writeP (r : BitVec 6) (b : Bool) : M Unit := modSh (fun h => { h with p := setBit h.p r.toNat b })
/-- GuardTrue() of R201. -/
def guardTrue (h : Shuttle) (p : BitVec 3) (n : Bool) : Bool := h.pred p.toNat != n

/-- The phase that the Shuttle's lane stands in (R352, R358). -/
def openPhase (s : State) : Option Nat := s.core.ph.openId

/-- The result of a long-latency instruction: its destination becomes EMPTY until it is delivered (R196). -/
def later (p : Pending) : M Unit := modSh fun h =>
  { h.mark p.d with
    pending := h.pending ++ [{ p with
      bundle := h.pc
      lane := h.lane
      fault := p.fault.map (fun f => { f with producer := some (h.pc, h.lane) }) }] }

/-- A ticket for an answer that comes later: from 1 on, since a result that needs no answer has ticket 0. -/
def ticket : M Nat := do
  let s ← get
  modSh (fun h => { h with nextTicket := h.nextTicket + 1 })
  pure (s.core.sh.nextTicket + 1)

/-- Give the answer to the pending result with a ticket, on a core. -/
def answer (core tk : Nat) (f : Pending → Pending) (s : State) : State :=
  let c := coreOf s core
  withCore s core { c with sh := { c.sh with
    pending := c.sh.pending.map (fun p =>
      if p.ticket == tk then
        { f p with fault := (f p).fault.map (fun e => { e with producer := some (p.bundle, p.lane) }) } else p) } }

/-- An entry enters the reply queue: its flag rises and the result held with it is ready (R376, R393). -/
def enterReply (r : Reply) (c : Core) : Core :=
  let c := if r.flag < 32 then { c with flags := mset 0 c.flags r.flag (mget 0 c.flags r.flag + 1) } else c
  { c with sh := { c.sh with
    replies := c.sh.replies ++ [{ src := r.src, value := r.value }]
    pending := c.sh.pending.map (fun p => if r.ticket == some p.ticket then { p with ready := true } else p) } }

/-- An entry enters the reply queue of a core, or is held there while the queue is full (R199). -/
def postReply (core : Nat) (r : Reply) (s : State) : State :=
  let c := coreOf s core
  if c.sh.replies.length < 16 && c.sh.heldReplies.isEmpty then withCore s core (enterReply r c)
  else withCore s core { c with sh := { c.sh with heldReplies := c.sh.heldReplies ++ [r] } }

/-! ### Flags (R140) -/

/-- A flag of a core. -/
def Core.flag (c : Core) (f : Nat) : BitVec 32 := mget 0 c.flags f
/-- Set a flag. -/
def Core.setFlag (c : Core) (f : Nat) (v : BitVec 32) : Core := { c with flags := mset 0 c.flags f v }
/-- Add to a flag, mod 2^32. -/
def Core.addFlag (c : Core) (f n : Nat) : Core := c.setFlag f (c.flag f + BitVec.ofNat 32 n)

/-- Count n completions on a flag of a core, or hold the count to the commit of its phase (R37, R355). -/
def countOn (f n : Nat) (inPhase : Bool) (c : Core) : Core :=
  match inPhase, c.ph.exec with
  | true, some e => { c with ph := { c.ph with exec := some { e with counts := e.counts ++ [(f, n)] } } }
  | _, _ => c.addFlag f n

/-- Count the completion of an engine command (R37). -/
def countFlag (f : Nat) (inPhase : Bool) : M Unit := modCore (countOn f 1 inPhase)

/-- Count the completion of an engine command with cnt = 1 (R37). -/
def countCnt (cnt : Bool) (f : Nat) (inPhase : Bool) : M Unit := if cnt then countFlag f inPhase else pure ()

/-! ### Engine queues -/

/-- The queue of a core by name. -/
def Core.queue (c : Core) : Queue → EngQueue
  | .vector => c.vq
  | .matrix => c.mq
  | .ferryLoad => c.lq
  | .ferryStore => c.sq
  | .gather => c.gq

/-- Replace a queue of a core. -/
def Core.setQueue (c : Core) (q : Queue) (v : EngQueue) : Core :=
  match q with
  | .vector => { c with vq := v }
  | .matrix => { c with mq := v }
  | .ferryLoad => { c with lq := v }
  | .ferryStore => { c with sq := v }
  | .gather => { c with gq := v }

/-- The depths of Table 1.3. -/
def depthOf : Queue → Nat
  | .vector => 64
  | .matrix => 32
  | .ferryLoad => 32
  | .ferryStore => 32
  | .gather => 16

/-- The five queues in the order of their tags. -/
def allQueues : List Queue := [.vector, .matrix, .ferryLoad, .ferryStore, .gather]

/-- ENGINE of Table 18.2 for a queue. -/
def engineOf : Queue → Nat
  | .vector => 2
  | .matrix => 3
  | .ferryLoad => 4
  | .ferryStore => 5
  | .gather => 6

/-- The queue of an ENGINE number 2 to 6. -/
def queueOfEngine : Nat → Option Queue
  | 2 => some .vector
  | 3 => some .matrix
  | 4 => some .ferryLoad
  | 5 => some .ferryStore
  | 6 => some .gather
  | _ => none

/-- The bit of a queue in a mask, as MFENCE numbers them (R339). -/
def queueBit : Queue → Nat
  | .vector => 0
  | .matrix => 1
  | .ferryLoad => 2
  | .ferryStore => 3
  | .gather => 4

/-- An entry that takes one of the queue's command places (R339, R353): phase markers do not. -/
def Entry.takesPlace : Entry → Bool
  | .phaseB _ => false
  | .phaseC _ => false
  | _ => true

/-- The entries held in a queue, the kept ones of the executing phase (R354) and the commands that have still to complete (R148) among
them. -/
def EngQueue.used (q : EngQueue) : Nat := (q.kept ++ q.entries).countP Entry.takesPlace + q.ending.length

/-- A queue with no entry at all. -/
def EngQueue.isEmpty (q : EngQueue) : Bool := q.entries.isEmpty && q.kept.isEmpty && q.ending.isEmpty

/-- The entry that stands at the head of a queue whose earlier commands have all completed: where a marker is passed (R339, R353). -/
def EngQueue.reached (q : EngQueue) : Option Entry := if q.ending.isEmpty then q.entries.head? else none

/-- The stream position of the command at the head (R28). -/
def EngQueue.headPos (q : EngQueue) : Nat := q.pos + q.ending.length

/-- The command at the head of a queue, if its head is a command. -/
def EngQueue.headCmd (q : EngQueue) : Option Cmd :=
  match q.entries with
  | .cmd c :: _ => some c
  | _ => none

/-- Replace the command at the head of a queue. -/
def EngQueue.setHead (q : EngQueue) (c : Cmd) : EngQueue :=
  match q.entries with
  | .cmd _ :: r => { q with entries := .cmd c :: r }
  | _ => q

/-- Change the command of a queue that stands at a stream position: one that has still to complete, or the head (R28, R148). -/
def EngQueue.modPos (q : EngQueue) (p : Nat) (f : Cmd → Cmd) : EngQueue :=
  if p == q.headPos then q.headCmd.elim q (fun k => q.setHead (f k))
  else if q.pos ≤ p then { q with ending := q.ending.modify (p - q.pos) f }
  else q

/-- The command that stands at the head of a queue, or the lane itself when none stands there, so that an instruction
has its meaning on every state. -/
def headOr (s : State) (q : Queue) (i : Instr) : Cmd :=
  match (s.core.queue q).headCmd with
  | some c => c
  | none => { instr := i, phase := s.core.ph.exec.map (·.id) }

/-- Save the progress of the command at the head. -/
def saveHead (q : Queue) (c : Cmd) : M Unit := modCore fun k => k.setQueue q ((k.queue q).setHead c)

/-- A command belongs to the executing phase of its core (R355). -/
def Core.inPhase (c : Core) (k : Cmd) : Bool :=
  match c.ph.exec, k.phase with
  | some e, some p => e.id == p && !k.deferred
  | _, _ => false

/-- The head command belongs to the executing phase (R355). -/
def inPhase (s : State) (c : Cmd) : Bool := s.core.inPhase c

/-- A register operand of an engine command (R27): the value captured at the push; a field of 62 pops the reply queue
at the head and keeps the popped value in the queue entry; without an entry, the register as it stands. -/
def engOperand (q : Queue) (second : Bool) (r : BitVec 6) : M Word := do
  let s ← get
  let h := (s.core.queue q).headCmd
  match h.bind (fun c => if second then c.opb else c.opa) with
  | some v => pure v
  | none =>
    if r = 62 then
      match s.core.sh.replies with
      | [] => throw (.wait .replyQueue false)
      | e :: rest =>
        modSh (fun x => { x with replies := rest })
        match h with
        | some c => saveHead q (if second then { c with opb := some e.value } else { c with opa := some e.value })
        | none => pure ()
        pure e.value
    else pure (s.core.sh.get r)

/-! ### Tiles and tags (R135 to R139, R356, R357) -/

/-- TLEN of a tile (R135). -/
def Tiles.len (t : Tiles) (i : Nat) : Nat := mget 4096 t.tlen i

/-- Set a tile FULL or EMPTY with ARRIVED 0 (Table 7.4). -/
def Tiles.setTag (t : Tiles) (i : Nat) (full : Bool) : Tiles :=
  { t with tag := setBit t.tag i full, arrived := mset 0 t.arrived i 0 }

/-- The executing phase sees the tile FULL: TAG, or held FULL (R356). -/
def fullFor (c : Core) (ph : Bool) (i : Nat) : Bool :=
  bit c.tiles.tag i || (ph && (c.ph.exec.any fun e => bit e.heldFull i))

/-- The tile is open (R138); a consume-pending tile is not (R356). -/
def openFor (c : Core) (ph : Bool) (i : Nat) : Bool :=
  fullFor c ph i && !bit c.tiles.granted i && !bit c.tiles.drain i && !(c.ph.exec.any fun e => bit e.consumePend i)

/-- Change the executing phase. -/
def modExec (f : PhaseExec → PhaseExec) (c : Core) : Core := { c with ph := { c.ph with exec := c.ph.exec.map f } }

/-- The command at the head of a queue waits for a tile as a source, with an action that `p` accepts, and could be granted
it. -/
def sourceWaiter (c : Core) (i : Nat) (p : Nat → Bool) (q : Queue) : Bool :=
  !(c.queue q).held && (c.queue q).headCmd.any (fun k => k.waits.any (fun w => w.1 == i && w.2 < 4 && p w.2)
    && openFor c (c.inPhase k) i)

/-- Record a grant in the command at the head of a queue. -/
def noteGrant (q : Queue) (i act : Nat) (c : Core) : Core :=
  match (c.queue q).headCmd with
  | some k => c.setQueue q ((c.queue q).setHead { k with grants := k.grants ++ [(i, act)], waits := none })
  | none => c

/-- A granted read that leaves the tile FULL begins. -/
def addReader (i : Nat) (c : Core) : Core :=
  { c with tiles := { c.tiles with readers := mset 0 c.tiles.readers i (mget 0 c.tiles.readers i + 1) } }

/-- A granted read that leaves the tile FULL ends: the last of them empties a tile consumed meanwhile (Table 7.4). -/
def dropReader (i : Nat) (c : Core) : Core :=
  let k := mget 0 c.tiles.readers i - 1
  let t := { c.tiles with readers := mset 0 c.tiles.readers i k }
  if k == 0 && bit t.drain i then
    let u := t.setTag i false
    { c with tiles := { u with drain := setBit u.drain i false } }
  else { c with tiles := t }

/-- The grant of a source on an open tile (R138): with a consuming source, every waiting FULL-keep source is granted too. -/
def grantSource (q : Queue) (i act : Nat) (c : Core) : Core :=
  let others := allQueues.filter (fun r => r != q && sourceWaiter c i (· == 1) r)
  let c := noteGrant q i act c
  if act == 1 then addReader i c
  else
    let c := others.foldl (fun c r => addReader i (noteGrant r i 1 c)) c
    { c with tiles := { c.tiles with granted := setBit c.tiles.granted i true } }

/-- A granted source is given back without its read. -/
def ungrant (c : Core) (g : Nat × Nat) : Core :=
  if g.2 == 1 then dropReader g.1 c
  else if g.2 == 2 || g.2 == 3 then { c with tiles := { c.tiles with granted := setBit c.tiles.granted g.1 false } }
  else c

/-- The tag waits granted so far to the command at the head of a queue. -/
def grantsOf (c : Core) (q : Queue) : List (Nat × Nat) := ((c.queue q).headCmd.map (·.grants)).getD []

/-- The command at a queue's head stands at a tag wait. -/
def tagStall {α : Type} (q : Queue) (i act : Nat) : M α := do
  modCore fun c => match (c.queue q).headCmd with
    | some k => c.setQueue q ((c.queue q).setHead { k with waits := some (i, act) })
    | none => c
  throw (.wait .tagWait false)

/-- A consuming source may be granted: no waiting engine of a lower tag asks for the same tile (R138). -/
def firstWaiter (c : Core) (q : Queue) (i : Nat) : Bool :=
  !allQueues.any (fun r => engineOf r < engineOf q && sourceWaiter c i (· == 2) r)

/-- The source tag action of Table 2.7 before the first read, on one tile, the command's wait number k. -/
def tagStartSrc (eng : FaultInfo) (ph : Bool) (act k i : Nat) : M Unit := do
  let s ← get
  let q := (queueOfEngine eng.engine).getD .vector
  if act == 0 || k < (grantsOf s.core q).length then pure ()
  else if openFor s.core ph i && (act != 2 || firstWaiter s.core q i) then modCore (grantSource q i act)
  else if act == 3 then throw (.fault { eng with code := .tagTrap, addr := 0 } false)
  else tagStall q i act

/-- The source tag action of Table 2.7 after the last read, on one tile: a consume empties it, once earlier-granted
reads are complete, and inside a phase leaves it consume-pending (R356). -/
def endSrc (ph : Bool) (act : Nat) (i : Nat) (c : Core) : Core :=
  if act == 0 then c
  else if act == 1 then dropReader i c
  else
    let c := { c with tiles := { c.tiles with granted := setBit c.tiles.granted i false } }
    if ph then
      let full := bit c.tiles.tag i
      modExec (fun e => { e with
        consumePend := setBit e.consumePend i true
        wasFull := setBit e.wasFull i (full || bit e.wasFull i) }) c
    else if mget 0 c.tiles.readers i ≠ 0 then { c with tiles := { c.tiles with drain := setBit c.tiles.drain i true } }
    else { c with tiles := c.tiles.setTag i false }

/-- The end of a source's tag action on the core whose turn it is. -/
def tagEndSrc (ph : Bool) (act : Nat) (i : Nat) : M Unit := modCore (endSrc ph act i)

/-- Note that the executing phase has read a tile as a source (R357). -/
def noteRead (ph : Bool) (i : Nat) : M Unit := modCore fun c =>
  if ph then modExec (fun e => { e with readTiles := setBit e.readTiles i true }) c else c

/-- The hazard check of R357. -/
def hazard (eng : FaultInfo) (ph : Bool) (i : Nat) : M Unit := do
  let s ← get
  if ph && (s.core.ph.exec.any fun e => bit e.readTiles i) then throw (.fault { eng with code := .phaseHazard } false)
  else pure ()

/-- Note that the executing phase has written a tile as a destination (R356). -/
def markWritten (ph : Bool) (i : Nat) (c : Core) : Core :=
  if ph then modExec (fun e => { e with wroteTiles := setBit e.wroteTiles i true }) c else c

/-- The hazard check of R357, and the note that the phase writes the tile (R356). -/
def noteWrite (eng : FaultInfo) (ph : Bool) (i : Nat) : M Unit := do
  hazard eng ph i
  modCore (markWritten ph i)

/-- The destination tag action of Table 2.7 before the first write, on one tile, the command's wait number k. -/
def tagStartDst (eng : FaultInfo) (ph : Bool) (act k i : Nat) : M Unit := do
  let s ← get
  let q := (queueOfEngine eng.engine).getD .vector
  if act == 0 || k < (grantsOf s.core q).length then pure ()
  else if fullFor s.core ph i then
    if act == 3 then throw (.fault { eng with code := .tagTrap } false) else tagStall q i (act + 4)
  else modCore (noteGrant q i (act + 4))

/-- The tag waits of several tiles with one action, in ascending order, from wait number k on. -/
def tagStartAll (dst : Bool) (eng : FaultInfo) (ph : Bool) (act : Nat) (k : Nat) (ts : List Nat) : M Unit :=
  (ts.zip (List.range ts.length)).forM (fun p =>
    if dst then tagStartDst eng ph act (k + p.2) p.1 else tagStartSrc eng ph act (k + p.2) p.1)

/-- The destination tag action of Table 2.7 at completion, on one tile: actions 01 and 11 set it FULL, held back inside
a phase (R356). -/
def tagEndDst (ph : Bool) (act : Nat) (i : Nat) : M Unit := modCore fun c =>
  if act == 1 || act == 3 then
    if ph then modExec (fun e => { e with heldFull := setBit e.heldFull i true }) c
    else { c with tiles := c.tiles.setTag i true }
  else c

/-- Marks of a tile sector (R87). -/
def Tiles.mark (t : Tiles) (sector : Nat) : Marks := mget {} t.marks sector

/-- Write bytes into the scratchpad: a whole sector written takes the given marks, a partial write leaves them (R87). -/
def Core.writeScratch (c : Core) (off : Nat) (bs : List Byte) (mk : Marks) : Core :=
  let lo := (off + 63) / 64
  let hi := (off + bs.length) / 64
  let marks := (List.range (hi - lo)).foldl (fun m k => mset {} m (lo + k) mk) c.tiles.marks
  { c with win := c.win.write off bs, tiles := { c.tiles with marks := marks } }

/-- An arrival of bytes in the scratchpad (R136, Table 7.4): each tile touched counts its own bytes; with `own` the
core's own executing phase holds FULL back (R356); a channel's write pointer rises (R158). -/
def Core.arrive (c : Core) (off : Nat) (bs : List Byte) (mk : Marks) (own : Bool) (ch : Option Nat) : Core :=
  let c := c.writeScratch off bs mk
  let t0 := off / 4096
  let t1 := (off + bs.length + 4095) / 4096
  let c := (List.range (t1 - t0)).foldl (fun c k =>
    let t := t0 + k
    let b := min (off + bs.length) (4096 * (t + 1)) - max off (4096 * t)
    let c := if own then modExec (fun e => { e with wroteTiles := setBit e.wroteTiles t true }) c else c
    if fullFor c own t || (c.ph.exec.any fun e => bit e.consumePend t) then { c with tiles := { c.tiles with overrun := setBit c.tiles.overrun t true } }
    else
      let a := mget 0 c.tiles.arrived t + b
      if c.tiles.len t ≤ a then
        if own && c.ph.exec.isSome then
          modExec (fun e => { e with heldFull := setBit e.heldFull t true })
            { c with tiles := { c.tiles with arrived := mset 0 c.tiles.arrived t 0 } }
        else { c with tiles := c.tiles.setTag t true }
      else { c with tiles := { c.tiles with arrived := mset 0 c.tiles.arrived t a } }) c
  match ch with
  | some k => { c with wp := mset 0 c.wp k (mget 0 c.wp k + BitVec.ofNat 56 bs.length) }
  | none => c

/-! ### Cancelling, abandoning and committing phases (R359 to R361) -/

/-- Copy n places of a map, the bytes of a memory or the marks of sectors, to others. -/
def copyBytes {α : Type} (w : SMap α) (src dst n : Nat) : SMap α :=
  w.filter (fun e => e.1 < dst)
    ++ ((w.filter (fun e => src ≤ e.1 && e.1 < src + n)).map (fun e => (e.1 - src + dst, e.2)) ++ w.filter (fun e => dst + n ≤ e.1))

/-- Copy the item of accumulator storage with metadata word i to that of word j: 18 KiB of data and the word (R258, R259,
Table 7.1). -/
def copyBank (i j : Nat) (c : Core) : Core :=
  { c with
    win := copyBytes c.win (0x40000 + 0x4800 * i) (0x40000 + 0x4800 * j) 0x4800
    tiles := { c.tiles with marks := copyBytes c.tiles.marks (0x1000 + 0x120 * i) (0x1000 + 0x120 * j) 0x120 }
    mat := { c.mat with metas := mset {} c.mat.metas j (mget {} c.mat.metas i) } }

/-- The banks and their metadata words as the committed copy (R271). -/
def commitBanks (c : Core) : Core := [0, 1, 2, 3].foldl (fun c k => copyBank k (4 + k) c) c
/-- The banks and their metadata words from the committed copy (R271, R272). -/
def restoreBanks (c : Core) : Core := [0, 1, 2, 3].foldl (fun c k => copyBank (4 + k) k c) c

/-- The executing phase holds an MJOIN, executed or not (R280). -/
def Core.holdsJoin (c : Core) : Bool :=
  match c.ph.exec with
  | none => false
  | some e => e.joint || (c.mq.kept ++ c.mq.entries).any (fun x => match x with
      | .cmd k => k.phase == some e.id && (match k.instr with
          | .mjoin _ => true
          | _ => false)
      | _ => false)

/-- The engine of a queue has passed the executing phase's PHASE.B marker. -/
def PhaseExec.has (e : PhaseExec) (q : Queue) : Bool := bit e.passed (queueBit q)

/-- Steps 1 and 2 of R360: a running nest is abandoned; accumulators, vector state, SRCTR, draw registers and streams
are restored, of the engines that have passed the PHASE.B marker; held effects are discarded; the tile rule of R356
applies. -/
def restorePhase (e : PhaseExec) (c : Core) : Core :=
  let arrived := (List.range 64).foldl (fun m i => if bit e.wroteTiles i then mset 0 m i 0 else m) c.tiles.arrived
  let heads := (allQueues.filter e.has).flatMap (grantsOf c)
  let nest := if e.has .matrix then
      ((c.mat.nest.map (·.cmd.grants)).getD []) ++ ((c.mat.arrival.map (·.cmd.grants)).getD []) else []
  let c := (heads ++ nest).foldl ungrant c
  let c := { c with tiles := { c.tiles with tag := c.tiles.tag &&& ~~~e.wroteTiles, arrived := arrived } }
  let c := if e.has .vector then { c with vec := e.vec, rep := none } else c
  if e.has .matrix then
    let c := restoreBanks c
    { c with
      mat := { c.mat with nest := none, arrival := none }
      draw := e.draw
      outbuf := c.outbuf.filter (fun r => !r.2) }
  else c

/-- A command as it stands before it has started; popped operand values are kept (R27). -/
def Cmd.fresh (c : Cmd) : Cmd :=
  { c with tags := false, grants := [], waits := none, len := none, refused := false, reserved := [],
           pins := [], poolAt := 0, plan := none, acqd := false, block := none, row := 0, sect := 0,
           blk := 0, bytes := 0, relp := false, logged := false, deferred := false, voids := none }

/-- An entry as it stands before it has started. -/
def Entry.fresh : Entry → Entry
  | .cmd c => .cmd c.fresh
  | e => e

/-- The executing phase as it stands at its PHASE.B marker. -/
def PhaseExec.restart (e : PhaseExec) : PhaseExec :=
  { e with counts := [], deferred := [], heldFull := 0, consumePend := 0, wasFull := 0, readTiles := 0,
           wroteTiles := 0, inherited := 0, vwritten := 0, slotsRead := 0, joint := false, rewind := false,
           awaits := [], parked := false, atC := none }

/-- A gather command that has passed its head and waits there in the middle of its work (R182). -/
def Cmd.past (k : Cmd) : Bool := k.waits.isNone && (k.block.isSome || k.plan.isSome || k.len.isSome)

/-- The gather command past its head that its cancelled or abandoned phase leaves behind, to complete (R182, R360). -/
def EngQueue.orphans (q : EngQueue) : List Entry :=
  match q.entries with
  | .cmd k :: _ =>
    if k.orphan then [.cmd k] else match k.instr with
    | .gkv _ | .gemb _ | .glen _ | .gbminv _ => if k.past then [.cmd { k with orphan := true, phase := none }] else []
    | _ => []
  | _ => []

/-- The entries of a queue without an orphan at its head. -/
def EngQueue.own (q : EngQueue) : List Entry :=
  match q.entries with
  | .cmd k :: r => if k.orphan then r else q.entries
  | es => es

/-- Step 4 of R360: the queue goes back to its PHASE.B marker, behind a gather command that has still to complete. -/
def EngQueue.rewind (q : EngQueue) : EngQueue :=
  { q with entries := q.orphans ++ (q.kept ++ q.ending.map Entry.cmd ++ q.own).map Entry.fresh, kept := [], ending := [], pos := q.posB,
           heldAt := if q.held then q.heldAt + q.kept.length + q.ending.length + (if q.orphans == [] then 0 else 1) else 0 }

/-- Apply a change to each of the five queues. -/
def mapQueues (f : Queue → EngQueue → EngQueue) (c : Core) : Core :=
  { c with vq := f .vector c.vq, mq := f .matrix c.mq, lq := f .ferryLoad c.lq, sq := f .ferryStore c.sq, gq := f .gather c.gq }

/-- The queues of the engines that have passed the PHASE.B marker go back to it (steps 3 and 4 of R360). -/
def rewindCore (c : Core) : Core :=
  match c.ph.exec with
  | none => c
  | some e =>
    let c := mapQueues (fun q v => if e.has q then v.rewind else v) c
    { c with ph := { c.ph with exec := some { e with rewind := false, awaits := [] } } }

/-- A cancel of the executing phase of one core (R360), without its partners; the rewind of a consumed E2 waits for the
self-test of its sector (R402). -/
def cancelCore (why : CancelWhy) (c : Core) : Core :=
  match c.ph.exec with
  | none => c
  | some e =>
    let c := restorePhase e c
    let c := { c with ph := { c.ph with exec := some { e.restart with
      rewind := true, awaits := why.tests, parked := e.parked || why == .window } } }
    let c := if why.tests.isEmpty then rewindCore c else c
    match why with
    | .e2 _ => { c with sh := { c.sh with ecount := c.sh.ecount + 1 } }
    | .bound => { c with mat := { c.mat with bretry := true } }
    | .joint => { c with mat := { c.mat with loss := c.mat.loss + 1 } }
    | _ => c

/-- The entries of a queue without the phase of a number; `inside` once past its PHASE.B marker. -/
def dropPhase (id : Nat) : Bool → List Entry → List Entry
  | _, [] => []
  | inside, .phaseB k :: r => if k == id then dropPhase id true r else .phaseB k :: dropPhase id inside r
  | inside, .phaseC k :: r => if k == id then dropPhase id false r else .phaseC k :: dropPhase id inside r
  | inside, e :: r => if inside then dropPhase id inside r else e :: dropPhase id inside r

/-- A phase is abandoned (R361): stopped and restored if it executes, its commands removed, its flag never rises; the commands
that it has executed stay counted in the stream positions (R28), and the pending result of a removed SRD of SRCTR or VSTAT stays EMPTY (log
entry 68). -/
def abandonPhase (id : Nat) (c : Core) : Core :=
  let open_ := c.ph.openId == some id
  let exec := c.ph.exec.filter (fun e => e.id == id)
  let c := match exec with
    | some e => { restorePhase e c with ph := { c.ph with exec := none }, sh := { c.sh with ecount := 0 } }
    | none => c
  let c := mapQueues (fun q v =>
    if exec.any (fun e => e.has q) then { v with entries := v.orphans ++ dropPhase id true v.own, kept := [], ending := [], held := false, heldAt := 0 }
    else { v with entries := dropPhase id false v.entries }) c
  { c with ph := { c.ph with
      openId := if open_ then none else c.ph.openId
      closed := c.ph.closed.filter (fun p => p.1 != id) } }

/-- The Ferry's reads of other islands that its command no longer awaits are forgotten. -/
def dropReads (core : Nat) (s : State) : State :=
  { s with strait := { s.strait with waiting := s.strait.waiting.filter (fun r => !(r.core == core && r.engine == 4 && r.kind == .read)) } }

/-- The cancel that a partner takes from one member's (R280). -/
def CancelWhy.partner : CancelWhy → CancelWhy
  | .joint => .joint
  | .window => .window
  | w => .other w.tests

/-- A cancel of the executing phase; where it holds an MJOIN, the partners whose executing phases hold theirs cancel with it
(R280). Every cancel is counted (Table 18.7). -/
def cancelPhase (why : CancelWhy) (s : State) : State :=
  let members := if s.core.holdsJoin then quadMembers s.cur else [s.cur]
  members.foldl (fun s n =>
    let c := coreOf s n
    if c.ph.exec.isSome && (n == s.cur || c.holdsJoin) then
      dropReads n (addCounter (dieOfCore n) 15 1 (withCore s n (cancelCore (if n = s.cur then why else why.partner) c)))
    else s) s

/-! ### Faults (R394 to R400) -/

/-- CODE of Table 18.1. -/
def FaultCode.code : FaultCode → Nat
  | .illegalLane => 0x01 | .illegalOp => 0x02 | .illegalGuard => 0x03 | .misaligned => 0x04 | .emptyTrap => 0x05
  | .tagTrap => 0x06 | .phaseHazard => 0x07 | .phaseOverflow => 0x08 | .jointLost => 0x09 | .boundTrap => 0x0A
  | .badOperand => 0x0B | .badParam => 0x0C | .noRight => 0x0D | .nearBusy => 0x0E | .addrRange => 0x0F
  | .trap => 0x10 | .kvHole => 0x11 | .kvFull => 0x12 | .kvNoslot => 0x13 | .kvRefcnt => 0x14 | .kvLayout => 0x15
  | .pageFault => 0x20 | .pteMalformed => 0x21 | .nlcReserved => 0x22 | .memE2 => 0x30 | .memE3 => 0x31
  | .sramUe => 0x32 | .loomFull => 0x40 | .loomStale => 0x41 | .remoteFail => 0x50

/-- GROUP of Table 18.1. -/
def FaultCode.group (c : FaultCode) : Nat :=
  if c.code < 0x20 then 0 else if c.code < 0x30 then 1 else if c.code < 0x40 then 2 else if c.code < 0x50 then 3 else 4

/-- The stream position that a record names (R28): that of the engine command. -/
def streamPos (c : Core) (engine : Nat) : Nat :=
  match queueOfEngine engine with
  | some q => (c.queue q).headPos
  | none => 0

/-- The 64-byte fault record (Tables 18.2 and 18.3) as eight words. -/
def faultRecord (c : Core) (f : FaultInfo) : List Word :=
  let at' := f.producer.getD (c.sh.pc, c.sh.lane)
  let w0 := f.code.code * 2 ^ 56 + f.code.group * 2 ^ 53 + f.engine * 2 ^ 49 + (if f.precise then 2 ^ 48 else 0)
    + (if c.ph.exec.isSome then 2 ^ 47 else 0) + (if c.sh.hmode then 2 ^ 46 else 0) + at'.2
  let w2 := f.cause * 2 ^ 48 + f.opc * 2 ^ 40 + f.rep * 2 ^ 32 + f.pos.getD (streamPos c f.engine) % 2 ^ 32
  [BitVec.ofNat 64 w0, BitVec.ofNat 64 (at'.1.toNat % 2 ^ 52), BitVec.ofNat 64 w2, f.addr, f.w4, f.w5, f.w6, f.w7]

/-- Every fault record is appended to the island's fault ring; one that finds it full is dropped and counted (R396). -/
def appendFault (die : Nat) (ws : List Word) (s : State) : State :=
  if s.frq.full then addCounter die 13 1 s
  else devWrite 16 (s.frq.slot s.frq.head 64) (wordBytes ws) { s with frq := { s.frq with head := s.frq.head + 1 } }

/-- FREC takes the first record since the last RTE or launch start; a later one sets MORE (R396). -/
def recordFault (core : Nat) (f : FaultInfo) (s : State) : State :=
  let c := coreOf s core
  let ws := faultRecord c f
  let sh := if c.sh.frecHeld then { c.sh with more := true } else { c.sh with frec := ws, frecHeld := true }
  appendFault (dieOfCore core) ws (withCore s core { c with sh := sh })

/-- What the engines do on a fault (Table 18.5). -/
def faultAction (f : FaultInfo) (c : Core) : Core :=
  match f.action with
  | .drain => c
  | .hold q => c.setQueue q { c.queue q with held := true, heldAt := 0 }
  | .abandon => match c.ph.exec with
    | some e => abandonPhase e.id c
    | none => c
  | .abandonOpen => match c.ph.openId with
    | some id => abandonPhase id c
    | none => c

/-- The resume point as EPC holds it (Table 18.4). -/
def Shuttle.resumePoint (h : Shuttle) : Word := (h.pc &&& 0x000FFFFFFFFFFFE0) ||| BitVec.ofNat 64 (h.lane % 8)

/-- Handler entry (R399): with a handler and outside handler mode, the resume point goes to EPC, HMODE is set and the
Shuttle fetches at TVEC; otherwise the core stays halted. The target of a branch that the bundle has taken, and an MFENCE
that waits, are set aside until the return to that point (log entry 17). -/
def handlerEntry (c : Core) : Core :=
  if c.sh.tvec != 0 && !c.sh.hmode then
    { c with
      run := .running
      sh := { c.sh with
        epc := c.sh.resumePoint
        savedAt := c.sh.resumePoint, savedTarget := c.sh.target, savedFence := c.sh.fence
        hmode := true, pc := c.sh.tvec, lane := 0, buf := none, ready := false, target := none, fence := .none } }
  else { c with run := .haltedFault }

/-- A running core that takes a fault goes to its handler or halts; any other keeps its state. -/
def enterHandler (c : Core) : Core := if c.run == .running then handlerEntry c else c

/-- What a fault leaves of its cause: a delivered late fault frees its destination with the old value (R198); a
REFUSED answer is used up by the fault of the requester that waited (R117). -/
def settleFault (f : FaultInfo) (c : Core) : Core :=
  let sh := match f.producer with
    | some (b, l) =>
      let mine := fun (p : Pending) => p.fault == some f || (f.engine != 0 && p.redo.isSome && p.bundle == b && p.lane == l)
      { c.sh with
        empty := c.sh.pending.foldl (fun e p => if mine p then setBit e p.d.toNat false else e) c.sh.empty
        pending := c.sh.pending.filter (fun p => !mine p) }
    | none => c.sh
  let sh := match f.resume with
    | some (b, l) => { sh with pc := b, lane := l, buf := if b == sh.pc then sh.buf else none }
    | none => sh
  { c with sh := sh, refused :=
      if f.code == .pageFault && !(f.action == .drain && 2 ≤ f.engine && f.engine ≤ 6) then c.refused.filter (fun r => r.1 != f.engine)
      else c.refused }

/-- The reads of other islands for which the Shuttle's lane waits (R334) are forgotten when a fault ends the wait. -/
def dropWaits (core : Nat) (s : State) : State :=
  { s with strait := { s.strait with waiting := s.strait.waiting.filter (fun r =>
      !(r.core == core && r.engine == 1 && r.kind == .read && 2 ^ 64 ≤ r.ticket)) } }

/-- Take a fault on a core (R395 to R399): the record, the engines' action, the handler. -/
def takeFault (core : Nat) (f : FaultInfo) (s : State) : State :=
  let s := dropWaits core s
  let s := recordFault core f s
  let c := coreOf s core
  let c := enterHandler (faultAction f (settleFault f c))
  let s := withCore s core { c with ended := .faulted f.code }
  if f.action == .abandon || f.action == .abandonOpen then dropReads core s else s

/-- The part of a loss that one member takes (R279): LOSS rises, and its phase that holds an MJOIN is cancelled; at 2 it does
not retry, and receives JOINT_LOST unless it raised the fault itself. `first` is the QC first seen lost, or 7. A member
whose executing phase holds no MJOIN keeps that phase (log entry 69). -/
def loseJoint (n first : Nat) (own : Bool) (s : State) : State :=
  let c := coreOf s n
  if !c.attrs.joint then s
  else if c.mat.loss == 0 then
    if c.holdsJoin then dropReads n (addCounter (dieOfCore n) 15 1 (withCore s n (cancelCore .joint c)))
    else withCore s n { c with mat := { c.mat with loss := 1 } }
  else
    let c := { c with mat := { c.mat with loss := 2 } }
    if own then withCore s n (if c.holdsJoin then (match c.ph.exec with
      | some e => abandonPhase e.id c
      | none => c) else c)
    else takeFault n { code := .jointLost, engine := 3, opc := 3, precise := false,
                       action := if c.holdsJoin then .abandon else .drain,
                       w4 := BitVec.ofNat 64 (quadOf n + 256 * first) } (withCore s n c)

/-- A loss of a joint operation (R279); the member `culprit` raised a fault, which it keeps. -/
def jointLoss (core first : Nat) (culprit : Option Nat) (s : State) : State :=
  (quadMembers core).foldl (fun s n => loseJoint n first (culprit == some n) s) s

/-- A joint operation is in progress in the quad of a core: from the first arrival to the completion (R278, R279). -/
def jointLive (s : State) (core : Nat) : Bool :=
  (quadMembers core).any (fun n => (coreOf s n).mat.arrival.isSome || (coreOf s n).mat.nest.any (·.joint))

/-- A fault on a member's core while a joint operation is in progress loses it (R279). -/
def faultOn (core : Nat) (f : FaultInfo) (s : State) : State :=
  let live := (coreOf s core).attrs.joint && jointLive s core
  let s := takeFault core f s
  if live && f.code != .jointLost then jointLoss core (qcOf core) (some core) s else s

/-! ### Running a lane, a command or an event -/

/-- What an instruction does: every meaning has this type. -/
abbrev Meaning := State → Host.Outcome State Fault Refusal

/-- What a stop leaves, over the core `base` that the stopped operation falls back to: a wait has no effect on the core
unless it keeps its progress; a fault is taken; a cancel rewinds the executing phase. What the device has recorded
meanwhile (page requests, error records) stays, an injection that a read has used up stays used (R404), and the TLBs keep what
walks have installed and dropped (R111). -/
def afterStop (old : Core) (s' : State) (stop : Stop) : State :=
  let base := { old with sh := { old.sh with errinj := s'.core.sh.errinj }, tlb := s'.core.tlb, stlb := s'.core.stlb }
  match stop with
  | .wait r keep =>
    let b := if keep then s' else { s' with core := base }
    { b with core := { b.core with ended := .stalled r } }
  | .fault f keep => faultOn s'.cur f (if keep then s' else { s' with core := base })
  | .cancel why =>
    let t := cancelPhase why { s' with core := base }
    { t with core := { t.core with ended := .cancelled } }

/-- The core an engine command falls back to: as it was, with the values that its head popped kept in the entry (R27), the void
mask that it has read (R283),
and with the HIT bits that a bound check has set (R285); a command that waits also keeps the tag waits granted to it
(R138). -/
def keepPops (q : Queue) (waits : Bool) (old new : Core) : Core :=
  let old := { old with sh := { old.sh with replies := new.sh.replies }, mat := { old.mat with bounds := new.mat.bounds } }
  match (old.queue q).headCmd, (new.queue q).headCmd with
  | some a, some b =>
    let a := { a with opa := b.opa, opb := b.opb, voids := b.voids, pins := b.pins }
    if waits then
      let kept := (old.queue q).setHead { a with grants := b.grants, waits := b.waits }
      let c := allQueues.foldl (fun c r => if r == q then c else match (new.queue r).headCmd with
        | some k => c.setQueue r ((c.queue r).setHead k)
        | none => c) (old.setQueue q kept)
      { c with tiles := { c.tiles with granted := new.tiles.granted, readers := new.tiles.readers } }
    else old.setQueue q ((old.queue q).setHead a)
  | _, _ => old

/-- Run a lane, a command or an event: it completes, or stops as `afterStop` says. -/
def runM (m : M Unit) : Meaning := fun s =>
  match m s with
  | .ok _ s' => .next { s' with core := { s'.core with ended := .done } }
  | .error e s' => .next (afterStop s.core s' e)

/-- Run the command at the head of an engine queue, with the completion that it answers. -/
def runE (q : Queue) (m : M Ended) : Meaning := fun s =>
  match m s with
  | .ok r s' => .next { s' with core := { s'.core with ended := r } }
  | .error e s' =>
    let waits := match e with
      | .wait _ _ => true
      | _ => false
    .next (afterStop (keepPops q waits s.core s'.core) s' e)

end Sys2Proof.Machine
end

