-- ==== Sys2Proof/Machine/Operands.lean ====
section
/-! DEFINITION. Operand forms of the Shuttle's lanes (spec 02_bundles_and_encodings R29 to R32, 10_shuttle R199, R201 to
R203): the destination's wait first (R197), then the sources from the highest bit position down (R199). -/

namespace Sys2Proof.Machine

/-- The sources a and b of a format SA lane. -/
def SA.ab (f : SA) : M (Word × Word) := do
  let a ← readX f.t f.a
  let b ← readX f.t f.b
  pure (a, b)

/-- A fixed-latency SA lane with an x destination: the result of the two sources. -/
def saResult (f : SA) (op : Word → Word → Word) : M Unit := do
  awaitDest f.d
  let (a, b) ← SA.ab f
  writeX f.d (op a b)

/-- A fixed-latency SA lane of one source, b unused. -/
def saResult1 (f : SA) (op : Word → Word) : M Unit := do
  awaitDest f.d
  let a ← readX f.t f.a
  writeX f.d (op a)

/-- The two columns of Table 10.6: the 64-bit form, or with w = 1 the 32-bit form sign-extended (R203). -/
def wide (w : Bool) (op64 : Word → Word → Word) (op32 : BitVec 32 → BitVec 32 → BitVec 32) (a b : Word) : Word :=
  if w then (op32 (a.setWidth 32) (b.setWidth 32)).signExtend 64 else op64 a b

/-- A long-latency SA lane: the result comes back later (R196). -/
def saLater (f : SA) (op : Word → Word → Word) : M Unit := do
  awaitDest f.d
  let (a, b) ← SA.ab f
  later { d := f.d, value := op a b }

/-- An SA compare: it writes predicate pd (R208). -/
def saCompare (f : SA) (op : Word → Word → Bool) : M Unit := do
  let (a, b) ← SA.ab f
  writeP f.d (op a b)

/-- An SI lane: X[d] := Op(X[a], I) (R206). -/
def siResult (f : SI) (op : Word → Word → Word) : M Unit := do
  awaitDest f.d
  let a ← readX false f.a
  writeX f.d (op a f.value)

/-- The byte offset of a format SS lane: off7 scaled by the size, or the literal unscaled (R142). -/
def SS.offset (f : SS) (n : Nat) : Word := f.lit.value (f.off.signExtend 64 * BitVec.ofNat 64 n)

/-- Base and data of a format SS lane: data, then base (R199). -/
def SS.operands (f : SS) : M (Word × Word) := do
  let v ← readX f.t f.data
  let b ← readX f.t f.base
  pure (v, b)

end Sys2Proof.Machine
end

