-- ==== Sys2Proof/Machine/Flags.lean ====
section
/-! DEFINITION. Flag computations: the sticky flags FSTAT of the Shuttle (spec 10_shuttle R200, R210) and VSTAT of the
vector engine (R63), and the Shuttle's floating-point operand forms. -/

namespace Sys2Proof.Machine

/-- Set FSTAT's flags: INV, DZ, OVF, UNF, INX (Table 10.3). -/
def setFstat (fl : FFlags) : M Unit := modSh (fun h => { h with fstat := h.fstat ||| fl.bits.setWidth 5 })

/-- The flags of an AFADD that returns after its lane: they are set, and enter the values of the reads of FSTAT that stand
behind it, from place n of the outstanding results on (R200). -/
def setFstatLate (n : Nat) (fl : FFlags) : M Unit := modSh (fun h => { h with
  fstat := h.fstat ||| fl.bits.setWidth 5
  pending := h.pending.take n ++ (h.pending.drop n).map (fun p =>
    if p.redo == some .fstat then { p with value := p.value ||| fl.bits.setWidth 64 } else p) })

/-- Set VSTAT's flags: those of FSTAT and SAT (R63). -/
def setVstat (fl : FFlags) : M Unit := modCore (fun c => { c with vec := { c.vec with vstat := c.vec.vstat ||| fl.bits } })

/-- An FP32 operand: bits 31:0 of an x register (R210). -/
def fp32Of (v : Word) : Num := fp32.decode (v.toNat % 2 ^ 32)

/-- A fixed-latency FP32 lane: the result zero-extended, its flags in FSTAT, in the mode of FRM (R210). -/
def fpResult (f : SA) (op : Nat → Num → Num → Nat × FFlags) : M Unit := do
  awaitDest f.d
  let (a, b) ← SA.ab f
  let s ← get
  let r := op s.core.sh.frm.toNat (fp32Of a) (fp32Of b)
  writeX f.d (BitVec.ofNat 64 r.1)
  setFstat r.2

/-- A long-latency FP32 lane; FSTAT is set as the lane executes. -/
def fpLater (f : SA) (op : Nat → Num → Num → Nat × FFlags) : M Unit := do
  awaitDest f.d
  let (a, b) ← SA.ab f
  let s ← get
  let r := op s.core.sh.frm.toNat (fp32Of a) (fp32Of b)
  later { d := f.d, value := BitVec.ofNat 64 r.1 }
  setFstat r.2

/-- An FP32 compare (R212). -/
def fpCompare (f : SA) (op : Num → Num → Bool × FFlags) : M Unit := do
  let (a, b) ← SA.ab f
  let r := op (fp32Of a) (fp32Of b)
  writeP f.d r.1
  setFstat r.2

end Sys2Proof.Machine
end

