-- ==== Sys2Proof/Machine/Mem.lean ====
section
/-! DEFINITION. Places in memory and how sectors of device and host memory are read and written, address translation with page
requests, prefetch blocks and store side logs (spec 06_translation R103 to R125; 05_main_memory_protection R83 to R88). -/

namespace Sys2Proof.Machine

/-! ### Places in memory -/

/-- Where a translated access goes: device memory, or a host page; its address (for a host page 2^52 × port + address);
the NLC of the translation. -/
structure Loc where
  host : Bool
  addr : Nat
  nlc : Nat
deriving DecidableEq, Repr

/-- The key of the 64-byte line of a place in the L1 caches. -/
def Loc.key (l : Loc) : Nat := if l.host then 2 ^ 60 + l.addr / 64 else l.addr / 64

/-- A host line enters its port die's L2 slice, which holds 2,048 of them (R121, R410; log entry 10). -/
def cacheHostLine (line : Nat) (s : State) : State :=
  let mine := s.hostLines.filter (fun p => p.1 / 2 ^ 46 == line / 2 ^ 46)
  let old := if mget false s.hostLines line || mine.length < 2048 then s.hostLines
    else mset false s.hostLines ((mine.head?.map (·.1)).getD line) false
  { s with hostLines := mset false old line true }

/-- A sector read at its home point: HBM, or a host line over CXL.cache, poisoned lines under R91. The record of a poisoned return
names STACK 0, the port as its die and the host line's address mod 2^33 as SECTOR (log entry 39). -/
def locRead (reader : Bool) (source : Nat) (l : Loc) (s : State) : SecRead × State :=
  if l.host then
    let line := l.addr / 64
    let s := cacheHostLine line s
    let raw := BitVec.ofNat 512 (leNat (s.hostMem.readN (64 * line) 64))
    if mget false s.hostPoison line then
      let e3 := isE3Code l.nlc
      let low := memRecord (if e3 then 3 else 2) l.nlc 6 0 0 (l.addr % 2 ^ 52 / 64) false false
      let die := l.addr / 2 ^ 52
      let s := addCounter die (if e3 then 3 else 2) 1 (logMemError die low s)
      (⟨poisonPattern l.nlc, { poison := true, log := low, found := s.pick }, e3⟩, s)
    else (⟨raw, {}, false⟩, s)
  else readSector true (if reader then some l.nlc else none) source (l.addr / 64) s

/-- A sector write at its home point; a host line takes the poison mark as CXL poison and keeps no E1 mark. -/
def locWrite (l : Loc) (mask : BitVec 64) (v : BitVec 512) (mk : Marks) (s : State) : State :=
  if l.host then
    let line := l.addr / 64
    let raw := BitVec.ofNat 512 (leNat (s.hostMem.readN (64 * line) 64))
    let whole := mask == BitVec.allOnes 64
    let p := if whole then mk.poison else mk.poison || mget false s.hostPoison line
    let s := cacheHostLine line s
    { s with
      hostMem := s.hostMem.write (64 * line) (leBytes 64 (mergeBytes mask v raw).toNat)
      hostPoison := mset false s.hostPoison line p }
  else writeSector (some l.nlc) (l.addr / 64) mask v mk s

/-! ### Page table entries (Table 6.1, R104 to R106) -/

/-- How a walk ends; `held` at a table whose row is under self-test (Table 18.8). -/
inductive WalkEnd where
  | held
  | leaf (pte addr : Nat) (big : Bool)
  | miss (cause : Nat) (pte addr : Nat)
  | bad (c : FaultCode) (mk : Marks)
deriving DecidableEq, Repr

/-- One bit of an entry. -/
def pteBit (e i : Nat) : Bool := e.testBit i
/-- A field of an entry. -/
def pteField (e hi lo : Nat) : Nat := e / 2 ^ lo % 2 ^ (hi + 1 - lo)
/-- NLC of an entry. -/
def pteNlc (e : Nat) : Nat := pteField e 62 57
/-- The next table's address of a pointer entry. -/
def pteTable (e : Nat) : Nat := pteField e 51 15 * 2 ^ 15
/-- The frame address of a leaf. -/
def pteFrame (e : Nat) : Nat := pteField e 51 16 * 2 ^ 16
/-- A reserved field is non-zero. -/
def pteReserved (e : Nat) : Bool := pteBit e 63 || pteField e 54 52 != 0

/-- A malformed pointer entry (R106). -/
def badPointer (e : Nat) : Bool :=
  pteReserved e || pteNlc e != 0 || pteField e 56 55 != 0 || pteField e 7 6 != 0 || pteField e 4 1 != 0
    || memEnd ≤ pteTable e

/-- A malformed leaf (R106). -/
def badLeaf (e : Nat) (big : Bool) : Bool :=
  pteReserved e || pteBit e 1 || pteBit e 15 || (pteBit e 55 && !pteBit e 56)
    || (!pteBit e 56 && memEnd ≤ pteFrame e) || (big && pteField e 27 16 != 0)

/-- The address of an entry breaks R106 whatever its V: of a leaf with LOC = 0 or of a pointer beyond device memory, of a 256 MiB
leaf with bits 27:16 set (log entry 29). -/
def badAddr (e : Nat) (leaf big : Bool) : Bool :=
  if leaf then (!pteBit e 56 && memEnd ≤ pteFrame e) || (big && pteField e 27 16 != 0) else memEnd ≤ pteTable e

/-- Check a leaf with V = 1 (R105, R106, R78). -/
def checkLeaf (e addr : Nat) (big : Bool) : WalkEnd :=
  if badLeaf e big then .bad .pteMalformed {}
  else if 17 ≤ pteNlc e then .bad .nlcReserved {}
  else .leaf e addr big

/-- Read a table entry: its sector must be unwritten or under code 16 and not at E3 (R106). -/
def readEntry (addr : Nat) (s : State) : Except WalkEnd Nat × State :=
  let sec := addr / 64
  if rowTested s sec then (.error .held, s)
  else
  let (r, s) := readSector true none 0 sec s
  if r.e3 then (.error (.bad .memE3 r.marks), s)
  else match homeCode s sec with
    | some c =>
      if c == 16 then (.ok (leNat (sliceBytes r.data (addr % 64) 8)), s) else (.error (.bad .pteMalformed {}), s)
    | none => (.ok (leNat (sliceBytes r.data (addr % 64) 8)), s)

/-- A pointer entry from the walk cache of a die, or from memory; a good one is cached (R107). -/
def pointerEntry (die asn level base addr : Nat) (s : State) : Except WalkEnd Nat × State :=
  match (dieOf s die).walk.find? (fun w => w.asn == asn && w.level == level && w.base == base) with
  | some w => (.ok w.pte.toNat, s)
  | none => readEntry addr s

/-- Cache a pointer entry (R107); 64 entries are kept (log entry 10). -/
def cacheWalk (die asn level base pte : Nat) (s : State) : State :=
  let d := dieOf s die
  if d.walk.any (fun w => w.asn == asn && w.level == level && w.base == base) then s
  else withDie s die { d with walk := (⟨asn, level, base, BitVec.ofNat 64 pte⟩ :: d.walk).take 64 }

/-- The page walk (R104). -/
def walk (die asn tbase va : Nat) (s : State) : WalkEnd × State :=
  let b3 := va / 2 ^ 40
  match pointerEntry die asn 3 b3 (tbase + 8 * b3) s with
  | (.error e, s) => (e, s)
  | (.ok e3, s) =>
    if pteBit e3 5 || memEnd ≤ pteTable e3 then (.bad .pteMalformed {}, s)
    else if !pteBit e3 0 then (if pteBit e3 1 then .bad .pteMalformed {} else .miss 0 e3 0, s)
    else if badPointer e3 then (.bad .pteMalformed {}, s)
    else
      let s := cacheWalk die asn 3 b3 e3 s
      let b2 := va / 2 ^ 28
      let a2 := pteTable e3 + 8 * (b2 % 4096)
      match pointerEntry die asn 2 b2 a2 s with
      | (.error e, s) => (e, s)
      | (.ok e2, s) =>
        if !pteBit e2 0 then (if pteBit e2 1 || badAddr e2 (pteBit e2 5) (pteBit e2 5) then .bad .pteMalformed {} else .miss 0 e2 0, s)
        else if pteBit e2 5 then (checkLeaf e2 a2 true, s)
        else if badPointer e2 then (.bad .pteMalformed {}, s)
        else
          let s := cacheWalk die asn 2 b2 e2 s
          let a1 := pteTable e2 + 8 * (va / 65536 % 4096)
          match readEntry a1 s with
          | (.error e, s) => (e, s)
          | (.ok e1, s) =>
            if pteBit e1 0 then (if pteBit e1 5 then checkLeaf e1 a1 false else .bad .pteMalformed {}, s)
            else if badAddr e1 true false then (.bad .pteMalformed {}, s)
            else if !pteBit e1 1 then (.miss 0 e1 a1, s)
            else if !pteBit e1 56 || pteBit e1 15 || pteReserved e1 then (.bad .pteMalformed {}, s)
            else (.miss 0 e1 a1, s)

/-! ### Requesters -/

/-- KIND of Table 6.2; the replay of a logged reduction needs R as well (R166). -/
inductive Kind where
  | read | write | exec | atomic | replay | combine
deriving DecidableEq, Repr

/-- KIND as its number. -/
def Kind.code : Kind → Nat
  | .read => 0 | .write => 1 | .exec => 2 | .atomic => 3 | .replay => 4 | .combine => 4

/-- The entry permits the access (Table 6.1; an atomic needs R and W, R147). -/
def permits (pte : Nat) : Kind → Bool
  | .read => pteBit pte 2
  | .write => pteBit pte 3
  | .exec => pteBit pte 4
  | .atomic => pteBit pte 2 && pteBit pte 3
  | .replay => pteBit pte 3
  | .combine => pteBit pte 2 && pteBit pte 3

/-- The access writes (R110). -/
def Kind.writes : Kind → Bool
  | .write => true
  | .atomic => true
  | .replay => true
  | .combine => true
  | _ => false

/-- Who asks for a translation: ENGINE and CORE of Table 6.2, the address space, the fault that a refusal or a
malformed entry becomes; `cached` for requesters with a TLB. -/
structure Req where
  eng : Nat
  core : Nat
  asn : Nat
  tbase : Nat
  fault : FaultInfo
  cached : Bool := true
  /-- The die whose walk cache serves it, where it is not the core's. -/
  die : Option Nat := none
  /-- The next address in another page that the same command will touch (R109). -/
  next : Option Nat := none
deriving DecidableEq, Repr

/-- A request of the current core's own stream. -/
def coreReq (s : State) (f : FaultInfo) : Req :=
  { eng := f.engine, core := s.cur, asn := s.core.attrs.asn.toNat, tbase := s.core.attrs.tbase, fault := f }

/-- The stream TLB of an ENGINE number: the Ferry's two queues share one (R107). -/
def tlbNumber (eng : Nat) : Nat := if eng == 5 then 4 else eng

/-- The TLB entries of a requester's TLB on the current core (R107). -/
def tlbFind (c : Core) (r : Req) (va : Nat) : Option TlbEntry :=
  let fits := fun (e : TlbEntry) => e.asn == r.asn && (if e.big then va / 2 ^ 28 * 2 ^ 28 else va / 65536 * 65536) == e.base
  if !r.cached then none
  else if r.eng ≤ 1 then c.tlb.find? fits
  else (c.stlb.find? (fun p => p.1 == tlbNumber r.eng && fits p.2)).map (·.2)

/-- Drop the entries of a requester's TLB that hold a page. -/
def tlbDrop (r : Req) (va : Nat) (c : Core) : Core :=
  let fits := fun (e : TlbEntry) => e.asn == r.asn && (if e.big then va / 2 ^ 28 * 2 ^ 28 else va / 65536 * 65536) == e.base
  if !r.cached then c
  else if r.eng ≤ 1 then { c with tlb := c.tlb.filter (fun e => !fits e) }
  else { c with stlb := c.stlb.filter (fun p => !(p.1 == tlbNumber r.eng && fits p.2)) }

/-- Install a leaf: 256 entries in the Shuttle's TLB, 16 in each stream TLB, the oldest replaced (R107, log entry 10). -/
def tlbAdd (r : Req) (va pte addr : Nat) (big : Bool) (c : Core) : Core :=
  let e : TlbEntry :=
    { asn := r.asn, base := if big then va / 2 ^ 28 * 2 ^ 28 else va / 65536 * 65536, big := big,
      pte := BitVec.ofNat 64 pte, pteAddr := addr }
  if !r.cached then c
  else if r.eng ≤ 1 then { c with tlb := (e :: c.tlb).take 256 }
  else
    let mine := ((tlbNumber r.eng, e) :: c.stlb.filter (fun p => p.1 == tlbNumber r.eng)).take 16
    { c with stlb := mine ++ c.stlb.filter (fun p => p.1 != tlbNumber r.eng) }

/-- Store a table entry in one write (R110, R123). -/
def putEntry (addr pte : Nat) (s : State) : State := devWrite 16 addr (leBytes 8 pte) s

/-- The die of a requester: its walk cache and its migration unit serve it (R107, R115). -/
def Req.home (r : Req) : Nat := r.die.getD (dieOfCore r.core % 4)

/-- The place that a leaf maps. -/
def leafLoc (pte : Nat) (big : Bool) (va : Nat) : Loc :=
  let off := if big then va % 2 ^ 28 else va % 65536
  let a := pteFrame pte + off
  if pteBit pte 56 then { host := true, addr := (if pteBit pte 55 then 2 ^ 52 else 0) + a, nlc := pteNlc pte }
  else { host := false, addr := a, nlc := pteNlc pte }

/-! ### Misses (R115 to R118, R122) -/

/-- The prefetch block of lowest index that holds a page (R122). -/
def blockOf (s : State) (asn va : Nat) : Option Nat :=
  (List.range s.prefetch.length).find? (fun i => match s.prefetch[i]? with
    | some b => b.asn == asn && b.base ≤ va && va < b.base + 2 ^ b.s
    | none => false)

/-- Write the records of page requests for which the ring now has room (R116). -/
def flushPageReqs (s : State) : State :=
  s.pageReqs.foldl (fun s r =>
    if r.written || s.prq.full then s
    else
      let rec32 := r.record.toNat % 2 ^ 192 + s.pick.toNat * 2 ^ 192
      let s := devWrite 16 (s.prq.slot s.prq.head 32) (leBytes 32 rec32) s
      { s with
        prq := { s.prq with head := s.prq.head + 1 }
        pageReqs := s.pageReqs.map (fun q => if q.asn == r.asn && q.page == r.page then { q with written := true } else q) }) s

/-- A page request (Table 6.2), one for each pair of ASN and page; a further miss joins it (R115). -/
def requestPage (asn page eng core cause : Nat) (k : Kind) (va : Nat) (waits : Bool) (s : State) : State :=
  let w := if waits then [(core, eng)] else []
  if s.pageReqs.any (fun q => q.asn == asn && q.page == page) then
    { s with pageReqs := s.pageReqs.map (fun q =>
        if q.asn == asn && q.page == page && !(w.all (fun x => q.waiters.contains x)) then { q with waiters := q.waiters ++ w } else q) }
  else
    let span := match blockOf s asn va with
      | some i => ((s.prefetch[i]?).map (·.q)).getD 0
      | none => 0
    let low := va + span * 2 ^ 104 + cause * 2 ^ 108 + k.code * 2 ^ 112 + asn * 2 ^ 116 + core * 2 ^ 128 + eng * 2 ^ 138
    flushPageReqs { s with pageReqs := s.pageReqs ++
      [{ asn, page, cause, waiters := w, written := false, record := BitVec.ofNat 256 low }] }

/-- The leaf entry of a page as memory holds it, with its address; none where the walk ends above it. -/
def peekLeaf (s : State) (asn tbase va : Nat) : Option (Nat × Nat) :=
  let noCache := { withDie s 0 { dieOf s 0 with walk := [] } with selfTests := [] }
  match (walk 0 asn tbase va noCache).1 with
  | .leaf pte a big => if big then none else some (pte, a)
  | .miss _ pte a => if a = 0 then none else some (pte, a)
  | _ => none

/-- The pages of a prefetch block, each with its leaf entry and the entry's address. -/
def blockLeaves (r : Req) (b : PrefBlock) (s : State) : List (Nat × Option (Nat × Nat)) :=
  (List.range (2 ^ (b.s - 16))).map (fun k => (b.base / 65536 + k, peekLeaf s r.asn r.tbase (b.base + 65536 * k)))

/-- A new miss in a prefetch block (R122): the span resets when no page of the block is resident, else it may grow. -/
def growSpan (r : Req) (va : Nat) (s : State) : State :=
  match blockOf s r.asn va with
  | none => s
  | some i =>
    match s.prefetch[i]? with
    | none => s
    | some b =>
      let res := (blockLeaves r b s).countP (fun p => p.2.any (fun l => pteBit l.1 0 && !pteBit l.1 56))
      let b := if res == 0 then { b with q := 0, fresh := true } else b
      let q := if !b.fresh && b.theta * 2 ^ (b.s - 16) ≤ res * 256 then min (b.q + 1) (b.s - 16) else b.q
      { s with prefetch := s.prefetch.set i { b with q := q, fresh := false } }

/-- A new miss on a host-held page (R122): the missing page is brought in first, then the span's other host-held pages in
ascending order. -/
def startBringIn (r : Req) (k : Kind) (va : Nat) (waits : Bool) (s : State) : State :=
  let page := va / 65536
  let w := if waits then [(r.core, r.eng)] else []
  let one : BringIn :=
    { asn := r.asn, tbase := r.tbase, page := page, core := r.core, va := va, kind := k.code, waiters := w, die := r.home }
  if s.bringIns.any (fun b => b.asn == r.asn && b.page == page) then
    { s with bringIns := s.bringIns.map (fun b =>
        if b.asn == r.asn && b.page == page && !(w.all (fun x => b.waiters.contains x)) then { b with waiters := b.waiters ++ w } else b) }
  else
    let s := growSpan r va s
    match (blockOf s r.asn va).bind (fun i => s.prefetch[i]?) with
    | none => { s with bringIns := s.bringIns ++ [one] }
    | some b =>
      let lo := page / 2 ^ b.q * 2 ^ b.q
      let rest := (blockLeaves r b s).filterMap (fun p =>
        if lo ≤ p.1 && p.1 < lo + 2 ^ b.q && p.1 != page && p.2.any (fun l => !pteBit l.1 0 && pteBit l.1 1)
            && !s.bringIns.any (fun x => x.asn == r.asn && x.page == p.1)
        then some { one with page := p.1, va := 65536 * p.1, waiters := [] } else none)
      { s with bringIns := s.bringIns ++ one :: rest }

/-- A miss that is not yet answered. -/
structure Miss where
  va : Nat
  cause : Nat
  host : Bool
deriving DecidableEq, Repr

/-- Record a miss in the device (R115); `waits` when the requester is held for it. -/
def noteMiss (r : Req) (k : Kind) (m : Miss) (waits : Bool) : M Unit := modify fun s =>
  let out := s.pageReqs.any (fun q => q.asn == r.asn && q.page == m.va / 65536)
  if m.host && !out then startBringIn r k m.va waits s
  else requestPage r.asn (m.va / 65536) r.eng r.core m.cause k m.va waits (if out then s else growSpan r m.va s)

/-! ### Translation (R103 to R111) -/

/-- The use of a good leaf: A and D are set, the TLB holds it (R110); a port that is down faults (R121). -/
def useLeaf (r : Req) (va : Nat) (k : Kind) (pte addr : Nat) (big : Bool) : M Loc := do
  let s ← get
  if pteBit pte 56 && mget false s.host.portsDown (if pteBit pte 55 then 1 else 0) then
    raise { r.fault with code := .pageFault, addr := BitVec.ofNat 64 va, cause := 0 }
  else
    let a := if pteBit pte 6 then 0 else 64
    let d := if k.writes && !pteBit pte 7 then 128 else 0
    let pte' := pte + a + d
    if pte' != pte then modify (putEntry addr pte') else pure ()
    modCore (fun c => tlbAdd r va pte' addr big (tlbDrop r va c))
    pure (leafLoc pte' big va)

/-- The prefetch walk for the next page of a stream command that uses a page for the first time (R109): a good leaf enters the
stream TLB without A or D; a walk that meets V = 0 or a fault leaves nothing. -/
def walkAhead (r : Req) : M Unit := do
  let s ← get
  match r.next with
  | none => pure ()
  | some va =>
    if 2 ^ 52 ≤ va || (tlbFind s.core r va).isSome then pure ()
    else match walk r.home r.asn r.tbase va s with
      | (.leaf pte addr big, s') =>
        set s'
        modCore (tlbAdd r va pte addr big)
      | _ => pure ()

/-- Translate, or tell the miss. A cached leaf that denies the access, or needs D, is walked again (R110, R111); a page
answered REFUSED faults (R117). -/
def tryTranslate (r : Req) (va : Nat) (k : Kind) : M (Except Miss Loc) := do
  let s ← get
  let page := va / 65536
  if 2 ^ 52 ≤ va then raise { r.fault with code := .addrRange, addr := BitVec.ofNat 64 va }
  else match (coreOf s r.core).refused.find? (fun x => x.1 == r.eng && x.2.1 == r.asn && x.2.2.1 == page) with
    | some x => raise { r.fault with code := .pageFault, addr := BitVec.ofNat 64 va, cause := x.2.2.2 }
    | none =>
      match tlbFind s.core r va with
      | some e =>
        if !permits e.pte.toNat k then
          modCore (tlbDrop r va)
          fresh
        else if k.writes && !bit e.pte 7 then fresh
        else
          let l ← useLeaf r va k e.pte.toNat e.pteAddr e.big
          pure (.ok l)
      | none =>
        let w ← fresh
        walkAhead r
        pure w
where
  /-- A fresh walk. -/
  fresh : M (Except Miss Loc) := do
    let s ← get
    let (w, s') := walk r.home r.asn r.tbase va s
    set s'
    match w with
    | .held => stall .selfTest
    | .bad c mk => raise { r.fault with code := c, addr := BitVec.ofNat 64 va, w4 := mk.log, w5 := mk.found }
    | .miss cause pte _ => pure (.error ⟨va, cause, pteBit pte 1⟩)
    | .leaf pte addr big =>
      if permits pte k then
        let l ← useLeaf r va k pte addr big
        pure (.ok l)
      else
        modCore (tlbDrop r va)
        pure (.error ⟨va, 2, false⟩)

/-- Translate; a miss holds the requester (R118). -/
def translate (r : Req) (va : Nat) (k : Kind) : M Loc := do
  match ← tryTranslate r va k with
  | .ok l => pure l
  | .error m =>
    noteMiss r k m true
    stall .pageMiss

/-- The address as a virtual address, or ADDR_RANGE (R103). -/
def checkVirtual (f : FaultInfo) (va : Word) : M Nat :=
  if 2 ^ 52 ≤ va.toNat then raise { f with code := .addrRange, addr := va } else pure va.toNat

/-! ### Reads and writes of sectors, and consumption (R87, R88) -/

/-- A write to a frame waits: after the fourth restart of the frame's copy (R99, R125), and at a frame whose page is requantised
from the swap of the entry until its old translations are gone (R97). -/
def copyHolds (s : State) (sec : Nat) : Bool :=
  s.copies.any (fun c => (c.old == sec / 1024 && (if c.kind == 0 then c.copied else !c.copied && 4 ≤ c.restarts))
    || c.new == sec / 1024 && c.kind == 0 && c.copied)

/-- The held write of a requantised frame abandons the requantisation (R97). -/
def noteHeldWrite (sec : Nat) (s : State) : State :=
  { s with copies := s.copies.map (fun c => if c.old == sec / 1024 && c.kind == 0 then { c with wanted := true } else c) }

/-- New traffic of the core whose turn it is towards a node of a die (R320): held while injection is (R323); behind a fenced
part its requester receives FENCED (R325). -/
def meshGate (f : FaultInfo) (die node : Nat) : M Unit := do
  let s ← get
  if trafficHeld s.strait s.cur then stall .backPressure
  else if coreReaches s.strait s.cur die node then pure ()
  else raise { f with code := .remoteFail, cause := 1 }

/-- The way of an access to its home point (R134, R320). -/
def homeGate (f : FaultInfo) (l : Loc) : M Unit :=
  meshGate f (if l.host then l.addr / 2 ^ 52 else homeDie l.addr) (192 + slicePort (l.addr / 64))

/-- An access at its home point waits for a self-test of its row, a write for the copy of its frame (R97, R99, R125, Table 18.8). -/
def sectorFree (writes : Bool) (l : Loc) : M Unit := do
  let s ← get
  if l.host then pure ()
  else if rowTested s (l.addr / 64) then stall .selfTest
  else if writes && copyHolds s (l.addr / 64) then
    modify (noteHeldWrite (l.addr / 64))
    stall .hold
  else pure ()

/-- An access of a core at its home point waits for the mesh (R323), for a self-test of its row and for the copy of its frame. -/
def awaitSector (f : FaultInfo) (writes : Bool) (l : Loc) : M Unit := do
  homeGate f l
  sectorFree writes l

/-- The way of an access of a die's unit, by its node, to its home point (R134, R320, R323, R325). -/
def unitGate (f : FaultInfo) (die node : Nat) (l : Loc) : M Unit := do
  let s ← get
  if s.strait.routing != .normal then stall .backPressure
  else if nodeReaches s.strait die node (if l.host then l.addr / 2 ^ 52 else homeDie l.addr) (192 + slicePort (l.addr / 64)) then pure ()
  else raise { f with code := .remoteFail, cause := 1 }

/-- A read of a sector at its home point by a unit of a die. -/
def unitRead (f : FaultInfo) (die node : Nat) (l : Loc) : M SecRead := do
  unitGate f die node l
  sectorFree false l
  let s ← get
  let (r, s') := locRead true 0 l s
  set s'
  pure r

/-- A write at the home point by a unit of a die. -/
def unitWrite (f : FaultInfo) (die node : Nat) (l : Loc) (mask : BitVec 64) (v : BitVec 512) (mk : Marks) : M Unit := do
  unitGate f die node l
  sectorFree true l
  modify (locWrite l mask v mk)

/-- A foreground read of a sector at its home point. -/
def homeRead (f : FaultInfo) (l : Loc) : M SecRead := do
  awaitSector f false l
  let s ← get
  let (r, s') := locRead true 0 l s
  set s'
  pure r

/-- A foreground write at the home point. -/
def homeWrite (f : FaultInfo) (l : Loc) (mask : BitVec 64) (v : BitVec 512) (mk : Marks) : M Unit := do
  awaitSector f true l
  modify (locWrite l mask v mk)

/-- Write bytes of a sector that the same access has read (an atomic): the rest, and the marks, are as delivered (R83). -/
def locUpdate (l : Loc) (mask : BitVec 64) (v : BitVec 512) (r : SecRead) (s : State) : State :=
  locWrite l (BitVec.allOnes 64) (mergeBytes mask v r.data) r.marks s

/-- The mark makes a use a consumption under the launch's E1 policy (R87, R88). -/
def bad (s : State) (mk : Marks) : Bool := mk.poison || (mk.e1 && s.core.attrs.e1pol == 1)

/-- The MEM_E2 or MEM_E3 fault for a marked sector (Table 18.3). -/
def memFault (f : FaultInfo) (c : FaultCode) (addr : Word) (mk : Marks) : FaultInfo :=
  { f with code := c, addr := addr, w4 := mk.log, w5 := mk.found }

/-- The consumption of a sector by an engine command (R87, R401): inside the executing phase a cancel, or at the retry
limit an abandonment; outside, MEM_E2. -/
def consume (f : FaultInfo) (ph : Bool) (addr : Word) (mk : Marks) : M Unit := do
  let s ← get
  if !bad s mk then pure ()
  else if ph then
    if s.core.sh.eretry.toNat ≤ s.core.sh.ecount.toNat then raise { memFault f .memE2 addr mk with action := .abandon }
    else throw (.cancel (.e2 (markTests s mk)))
  else raise (memFault f .memE2 addr mk)

/-- E3 found by this read is delivered to the requester at the read (Table 5.2). -/
def checkE3 (f : FaultInfo) (addr : Word) (r : SecRead) : M Unit :=
  if r.e3 then raise (memFault f .memE3 addr r.marks) else pure ()

/-! ### Store side logs (R119, R120) -/

/-- The entries of one engine's store side log. -/
def sdlOf (c : Core) (eng : Nat) : List SdlEntry := c.sdl.filter (fun e => e.engine == eng)
/-- A page with entries in an engine's log. -/
def sdlHolds (c : Core) (eng asn page : Nat) : Bool := c.sdl.any (fun e => e.engine == eng && e.asn == asn && e.va / 65536 == page)

/-- Put a write into the log; a full log holds the stream (R119). -/
def logWrite (e : SdlEntry) : M Unit := do
  let s ← get
  if 64 ≤ (sdlOf s.core e.engine).length then throw (.wait .logWait true)
  else modCore (fun c => { c with sdl := c.sdl ++ [e] })

/-- A write or reduction of up to one sector by an engine command that has left every phase: performed, or logged when
it misses, when its page has logged writes, or when its command has logged one (R119). `perform` does the access at the
place; the answer says whether it was logged. -/
def engWrite (f : FaultInfo) (logged : Bool) (va : Nat) (k : Kind) (entry : SdlEntry) (perform : Loc → M Unit)
    (next : Option Nat := none) : M Bool := do
  let s ← get
  let r := { coreReq s f with next := next }
  if logged || sdlHolds s.core entry.engine r.asn (va / 65536) then
    logWrite entry
    pure true
  else
    match ← tryTranslate r va k with
    | .ok l => perform l; pure false
    | .error m =>
      noteMiss r k m false
      logWrite entry
      pure true

/-- A read of a page with logged writes of the same engine waits for their replay (R119). -/
def awaitLog (eng va : Nat) : M Unit := do
  let s ← get
  if sdlHolds s.core eng s.core.attrs.asn.toNat (va / 65536) then stall .logWait else pure ()

/-! ### Reads by engines -/

/-- The first address of a list that lies in another page. -/
def nextPage (va : Nat) (rest : List Nat) : Option Nat := rest.find? (fun a => a / 65536 != va / 65536)

/-- The start of the page that follows, if bytes from a to e − 1 go on into it. -/
def pageAhead (a e : Nat) : List Nat := if (a / 65536 + 1) * 65536 < e then [(a / 65536 + 1) * 65536] else []

/-- An engine's read of the sector that holds a virtual address, at its home point, after the replay of the engine's logged
writes to its page (R119); the command goes on to the addresses `rest` (R109). -/
def engSector (f : FaultInfo) (va : Nat) (rest : List Nat := []) : M SecRead := do
  let s ← get
  awaitLog (if f.engine == 4 then 5 else f.engine) va
  let l ← translate { coreReq s f with next := nextPage va rest } va .read
  let r ← homeRead { f with addr := BitVec.ofNat 64 va } l
  checkE3 f (BitVec.ofNat 64 va) r
  pure r

/-- Consecutive bytes read by an engine: whole sectors touched, each at its own translation, each consumed. -/
def engBytes (f : FaultInfo) (ph : Bool) (va n : Nat) : M (List Byte) := do
  let lo := va / 64
  let hi := (va + n + 63) / 64
  let parts ← (List.range (hi - lo)).mapM (fun k => do
    let a := max va (64 * (lo + k))
    let e := min (va + n) (64 * (lo + k + 1))
    let r ← engSector f a (pageAhead a (va + n))
    consume f ph (BitVec.ofNat 64 a) r.marks
    pure (sliceBytes r.data (a % 64) (e - a)))
  pure parts.flatten

end Sys2Proof.Machine
end

