-- ==== Sys2Proof/Machine/Near.lean ====
section
/-! DEFINITION. The near map (spec 07_onchip_map_caches R126 to R131): the checks on a near-map address and the reads and
writes of a core's window. -/

namespace Sys2Proof.Machine

/-- Table 7.1 and Table 7.2: offsets that are accessible only while no launch executes on the core. -/
def haltedOnly (off : Nat) : Bool :=
  (0x40000 ≤ off && off < 0x80000) || (0x90000 ≤ off && off < 0x90210) || (0x90E00 ≤ off && off < 0x91000)

/-- The checks of R126 to R128 in this order: form, core, right, halted-only region. The answer is core and offset. -/
def checkNear (f : FaultInfo) (na : Word) : M (Nat × Nat) := do
  let s ← get
  let n := na.toNat / 2 ^ 20
  let off := na.toNat % 2 ^ 20
  if 768 ≤ n || (coreOf s n).run == .disabled then raise { f with code := .addrRange, addr := na }
  else
    let c := coreOf s n
    if n != s.cur && !(c.run != .free && c.attrs.launch == s.core.attrs.launch && s.core.attrs.launch != 0)
        && !bit s.core.attrs.rights 1 then
      raise { f with code := .noRight, addr := na }
    else if haltedOnly off && c.run == .running then raise { f with code := .nearBusy, addr := na }
    else pure (n, off)

/-! ### Words of the control page (Tables 7.2, 7.3, 12.1, 12.2) -/

/-- A tile's status word (Table 7.3). -/
def Tiles.status (t : Tiles) (i : Nat) : Word :=
  BitVec.ofNat 64 (t.len i + (if bit t.tag i then 2 ^ 16 else 0) + mget 0 t.arrived i * 2 ^ 19
    + (if bit t.overrun i then 2 ^ 32 else 0))

/-- Eight bits of a tile's MARKS word: sectors from `s0` (Table 7.2). -/
def Tiles.markWord (t : Tiles) (i half : Nat) : Word :=
  BitVec.ofNat 64 ((List.range 32).foldl (fun a k =>
    let m := t.mark (64 * i + 32 * half + k)
    a + (if m.poison then 2 ^ (2 * k) else 0) + (if m.e1 then 2 ^ (2 * k + 1) else 0)) 0)

/-- A metadata word (Table 12.1). -/
def BankMeta.word (m : BankMeta) : Word :=
  BitVec.ofNat 64 (m.mode * 16 + (if m.inv then 4 else 0) + (if m.sat then 2 else 0) + (if m.ovf then 1 else 0))
/-- A metadata word written: MODE 11 leaves the word as it is (Table 12.1). -/
def BankMeta.ofWord (old : BankMeta) (w : Word) : BankMeta :=
  if bits w 5 4 == 3 then old else { mode := bits w 5 4, inv := bit w 2, sat := bit w 1, ovf := bit w 0 }
/-- The word at index i of the metadata region (R259). -/
def Core.metaWord (c : Core) (i : Nat) : Word :=
  if i < 14 then (mget {} c.mat.metas i).word
  else if i == 14 then BitVec.ofNat 64 ((if c.mat.bretry then 4 else 0) + c.mat.loss % 4)
  else 0
/-- Write the word at index i of the metadata region (R259). -/
def Core.setMetaWord (c : Core) (i : Nat) (v : Word) : Core :=
  if i < 14 then { c with mat := { c.mat with metas := mset {} c.mat.metas i ((mget {} c.mat.metas i).ofWord v) } }
  else if i == 14 then { c with mat := { c.mat with bretry := bit v 2, loss := bits v 1 0 } }
  else c

/-- A 64-bit part of a bound register; bits 255:69 read zero (Table 12.9). -/
def Core.boundWord (c : Core) (k part : Nat) : Word := (mget 0 c.mat.bounds k).extractLsb' (64 * part) 64
/-- Write a 64-bit part of a bound register (R284). -/
def Core.setBoundWord (c : Core) (k part : Nat) (v : Word) : Core :=
  let old := mget (0 : BitVec 256) c.mat.bounds k
  let new : BitVec 256 :=
    if part == 0 then (old >>> 64 <<< 64) ||| v.setWidth 256
    else if part == 1 then (old.setWidth 64).setWidth 256 ||| ((v.setWidth 5).setWidth 256 <<< 64)
    else old
  { c with mat := { c.mat with bounds := mset 0 c.mat.bounds k new } }

/-- XFULL (Table 7.2): bit 0 reads 1 and bit 62 reads 0. -/
def Shuttle.xfull (h : Shuttle) : Word := setBit (setBit (~~~h.empty) 0 true) 62 false

/-- A read of a control-page word (Table 7.2). -/
def Core.controlRead (c : Core) (o : Nat) : Word :=
  if o < 0x200 then
    if o / 8 == 62 then (match c.sh.replies with
      | e :: _ => e.value
      | [] => 0)
    else c.sh.get (BitVec.ofNat 6 (o / 8))
  else if o == 0x200 then (setBit c.sh.p 0 true).setWidth 64
  else if o == 0x208 then c.sh.xfull
  else if 0x400 ≤ o && o < 0x600 then c.tiles.status ((o - 0x400) / 8)
  else if o == 0x600 then c.tiles.tag
  else if 0x800 ≤ o && o < 0xC00 then c.tiles.markWord ((o - 0x800) / 16) ((o - 0x800) / 8 % 2)
  else if 0xC00 ≤ o && o < 0xD00 then (c.flag ((o - 0xC00) / 8)).setWidth 64
  else if 0xE00 ≤ o && o < 0x1000 then c.boundWord ((o - 0xE00) / 32) ((o - 0xE00) / 8 % 4)
  else if 0x1000 ≤ o && o < 0x1080 then (mget 0 c.wp ((o - 0x1000) / 8)).setWidth 64
  else 0

/-- TAGSET and TAGCLR: each 1 bit sets that tile FULL, or EMPTY, with ARRIVED 0 (Table 7.4). -/
def Core.tagWrite (c : Core) (full : Bool) (mask : Word) : Core :=
  { c with tiles := (List.range 64).foldl (fun t i => if bit mask i then t.setTag i full else t) c.tiles }
/-- A write to FLAG_VAL: f8 to f31 take the value (Table 7.2). -/
def Core.flagVal (c : Core) (f : Nat) (v : BitVec 32) : Core := if 8 ≤ f ∧ f < 32 then c.setFlag f v else c
/-- A write to FLAG_ADD: f8 to f31 rise by the value, mod 2^32 (Table 7.2). -/
def Core.flagAdd (c : Core) (f : Nat) (v : BitVec 32) : Core := if 8 ≤ f ∧ f < 32 then c.setFlag f (c.flag f + v) else c
/-- Clear OVERRUN of a tile (Table 7.3). -/
def Core.clearOverrun (c : Core) (i : Nat) : Core := { c with tiles := { c.tiles with overrun := setBit c.tiles.overrun i false } }
/-- A write to XFULL (Table 7.2). -/
def Core.xfullWrite (c : Core) (v : Word) : Core :=
  { c with sh := { c.sh with empty := setBit (setBit (~~~v) 0 (bit c.sh.empty 0)) 62 (bit c.sh.empty 62) } }
/-- A write to a tile status word: TLEN where it is a legal length (R135), OVERRUN by a 1. -/
def Core.statusWrite (c : Core) (i : Nat) (v : Word) : Core :=
  let n := bits v 12 0
  let c := if 64 ≤ n ∧ n ≤ 4096 ∧ n % 64 = 0 then { c with tiles := { c.tiles with tlen := mset 4096 c.tiles.tlen i n } } else c
  if bit v 32 then c.clearOverrun i else c

/-- A write of a control-page word (Table 7.2). -/
def Core.controlWrite (c : Core) (o : Nat) (v : Word) : Core :=
  if o < 0x200 then if o / 8 == 62 then c else { c with sh := c.sh.put (BitVec.ofNat 6 (o / 8)) v }
  else if o == 0x200 then { c with sh := { c.sh with p := setBit (v.setWidth 8) 0 true } }
  else if o == 0x208 then c.xfullWrite v
  else if 0x400 ≤ o && o < 0x600 then c.statusWrite ((o - 0x400) / 8) v
  else if o == 0x608 then c.tagWrite true v
  else if o == 0x610 then c.tagWrite false v
  else if 0xC00 ≤ o && o < 0xD00 then c.flagVal ((o - 0xC00) / 8) (v.setWidth 32)
  else if 0xD00 ≤ o && o < 0xE00 then c.flagAdd ((o - 0xD00) / 8) (v.setWidth 32)
  else if 0xE00 ≤ o && o < 0x1000 then c.setBoundWord ((o - 0xE00) / 32) ((o - 0xE00) / 8 % 4) v
  else c

/-! ### The window (Table 7.1) -/

/-- An 8-byte read of a core's window, with the marks of a tile or accumulator sector (R87, R366). -/
def Core.nearRead (c : Core) (off : Nat) : Word × Marks :=
  let o := off / 8 * 8
  if o < 0x7F000 then (BitVec.ofNat 64 (leNat (c.win.readN o 8)), c.tiles.mark (o / 64))
  else if o < 0x80000 then (c.metaWord ((o - 0x7F000) / 8), {})
  else if o < 0x90000 then (BitVec.ofNat 64 (leNat (c.win.readN o 8)), {})
  else if o < 0x92000 then (c.controlRead (o - 0x90000), {})
  else (0, {})

/-- A write of bytes into a core's window, whole words in the metadata region and the control page; in the scratchpad
an arrival (R136), counted on channel `ch` when it is a tile write. A phase of that core never holds it back. -/
def Core.nearWrite (c : Core) (off : Nat) (bs : List Byte) (mk : Marks) (ch : Option Nat) : Core :=
  if off < 0x40000 then c.arrive off bs mk false ch
  else if off < 0x7F000 then c.writeScratch off bs mk
  else if off < 0x80000 then
    (List.range (bs.length / 8)).foldl (fun c k =>
      c.setMetaWord ((off - 0x7F000) / 8 + k) (BitVec.ofNat 64 (leNat ((bs.drop (8 * k)).take 8)))) c
  else if off < 0x90000 then { c with win := c.win.write off bs }
  else if off < 0x92000 then c.controlWrite (off - 0x90000) (BitVec.ofNat 64 (leNat (bs.take 8)))
  else c

/-- A write in the window of a core by number. -/
def nearWriteAt (n off : Nat) (bs : List Byte) (mk : Marks) (ch : Option Nat) (s : State) : State :=
  withCore s n ((coreOf s n).nearWrite off bs mk ch)

/-- A write of some bytes of an 8-byte word, by mask: bytes not written keep the entry's value (log entry 11). -/
def nearMaskedAt (n off : Nat) (mask : BitVec 8) (v : Word) (s : State) : State :=
  if mask == BitVec.allOnes 8 then nearWriteAt n off (leBytes 8 v.toNat) {} none s
  else if off < 0x40000 then
    (List.range 8).foldl (fun s i => if bit mask i then nearWriteAt n (off + i) (leBytes 1 (v.toNat / 2 ^ (8 * i))) {} none s else s) s
  else
    let old := ((coreOf s n).nearRead off).1
    let old := if 0x90400 ≤ off && off < 0x90600 then setBit old 32 false else old
    let w := leNat ((List.range 8).map (fun i => (if bit mask i then v else old).extractLsb' (8 * i) 8))
    nearWriteAt n off (leBytes 8 w) {} none s

end Sys2Proof.Machine
end

