-- ==== Sys2Proof/Machine/Remote.lean ====
section
/-! DEFINITION. The archipelago address space (spec 14_archipelago): address checks, inbound windows, what a request does
at its target, and how this island sends requests and learns the replies. Other islands are the outside world: flits to
them go to `sent`, theirs arrive as events. -/

namespace Sys2Proof.Machine

/-! ### Atomic operations (Table 7.7) -/

/-- The new value of an atomic on n bytes from old and operand, by opcode, with the flags of AFADD (R147). -/
def atomicNew (op n : Nat) (old v : Nat) : Nat × FFlags :=
  let m := 2 ^ (8 * n)
  let sg := fun (x : Nat) => if x < m / 2 then (x : Int) else (x : Int) - m
  match op with
  | 0x50 => ((old + v) % m, {})
  | 0x51 => (old &&& v, {})
  | 0x52 => (old ||| v, {})
  | 0x53 => (old ^^^ v, {})
  | 0x54 => (if sg v < sg old then v else old, {})
  | 0x55 => (if sg old < sg v then v else old, {})
  | 0x58 => fp32.add 0 false (fp32.decode old) (fp32.decode v)
  | _ => (v, {})

/-- A value of n bytes extended to 64 bits. -/
def extendTo (signed : Bool) (n v : Nat) : Word :=
  if signed && 2 ^ (8 * n - 1) ≤ v then BitVec.ofInt 64 ((v : Int) - 2 ^ (8 * n)) else BitVec.ofNat 64 v

/-! ### Archipelago addresses (R306, R307) -/

/-- The island of an archipelago address. -/
def aasIsland (a : Word) : Nat := bits a 62 53
/-- NEAR. -/
def aasNear (a : Word) : Bool := bit a 52
/-- OFFSET. -/
def aasOffset (a : Word) : Nat := bits a 38 0
/-- The form of an archipelago address (R307). -/
def aasFormOk (a : Word) : Bool := bit a 63 && bits a 51 39 == 0 && (!aasNear a || bits a 38 32 == 0)

/-- The issuer's checks (R307): form, then the REMOTE right. -/
def checkAas (f : FaultInfo) (a : Word) : M Unit := do
  let s ← get
  if !aasFormOk a then raise { f with code := .addrRange, addr := a }
  else if !bit s.core.attrs.rights 2 then raise { f with code := .noRight, addr := a }
  else pure ()

/-! ### Inbound windows (R309) -/

/-- What a request needs of a window: 0 R, 1 W, 2 A. -/
def windowAdmits (w : BitVec 128) (near : Bool) (src need off n : Nat) : Bool :=
  let lo := bits w 22 0
  let hi := bits w 54 32
  bit w 127 && bit w 126 == near && bit w (125 - need) && bits w 97 88 ≤ src && src ≤ bits w 107 98
    && lo ≤ hi && !(near && (2 ^ 16 ≤ lo || 2 ^ 16 ≤ hi)) && lo ≤ off / 65536 && (off + n - 1) / 65536 ≤ hi

/-- One enabled window covers every byte, names the source and permits the kind. -/
def admitted (s : State) (near : Bool) (src need off n : Nat) : Bool :=
  (List.range 16).any (fun i => windowAdmits (mget 0 s.strait.windows i) near src need off n)

/-- The target's range checks (R307): device memory; a near-map address of a core that exists, not of a running core's
halted-only region. -/
def targetOk (s : State) (near : Bool) (off : Nat) : Bool :=
  if near then
    let n := off / 2 ^ 20
    n < 768 && (coreOf s n).run != .disabled && !(haltedOnly (off % 2 ^ 20) && (coreOf s n).run == .running)
  else off < memEnd

/-! ### Requests at their target -/

/-- What a target answers: data with marks (and E3 found), a bare acknowledgement, or a cause of Table 14.5. -/
inductive Answer where
  | data (v : BitVec 512) (mk : Marks) (e3 : Bool)
  | ack
  | nack (cause : Nat)
deriving DecidableEq, Repr

/-- A read at the target (R310): a sector with its marks, or an 8-byte near-map word placed in its sector. -/
def serveRead (src : Nat) (near : Bool) (off n : Nat) (s : State) : Answer × State :=
  if !admitted s near src 0 off n || !targetOk s near off then (.nack 2, s)
  else if near then
    let (v, mk) := (coreOf s (off / 2 ^ 20)).nearRead (off % 2 ^ 20)
    (.data (placeBytes (off / 8 * 8 % 64) (leBytes 8 v.toNat)) mk false, s)
  else
    let (r, s) := readSector true none 0 (off / 64) s
    (.data r.data r.marks r.e3, s)

/-- A write at the target's home point (R310, R313): a whole sector, or masked bytes of an 8-byte word. -/
def serveWrite (src : Nat) (near : Bool) (off n : Nat) (mask : BitVec 64) (v : BitVec 512) (mk : Marks) (s : State) :
    Answer × State :=
  if !admitted s near src 1 off n || !targetOk s near off then (.nack 2, s)
  else if near then
    if n == 64 then (.ack, nearWriteAt (off / 2 ^ 20) (off % 2 ^ 20) (leBytes 64 v.toNat) mk none s)
    else (.ack, nearMaskedAt (off / 2 ^ 20) (off % 2 ^ 20 / 8 * 8) (mask.extractLsb' (off / 8 * 8 % 64) 8)
      (v.extractLsb' (8 * (off / 8 * 8 % 64)) 64) s)
  else (.ack, writeSector none (off / 64) mask v mk s)

/-- An atomic at the target's home slice (R310): nothing is written on a marked sector or a failing ACAS. The flags are
those of AFADD. -/
def serveAtomic (src : Nat) (near : Bool) (off n op : Nat) (v cmp : Nat) (e1pol : Nat) (s : State) : Answer × FFlags × State :=
  if near || !admitted s near src 2 off n || !targetOk s near off then (.nack 2, {}, s)
  else
    let (r, s) := readSector true none 0 (off / 64) s
    let old := leNat (sliceBytes r.data (off % 64) n)
    let ans := Answer.data (placeBytes (off % 64) (leBytes n old)) r.marks r.e3
    if r.e3 || r.marks.poison || (r.marks.e1 && e1pol == 1) then (ans, {}, s)
    else if op == 0x57 && old != cmp then (ans, {}, s)
    else
      let (w, fl) := atomicNew op n old v
      (ans, fl, writeSector none (off / 64) (BitVec.allOnes 64)
        (mergeBytes (maskOf (off % 64) n) (placeBytes (off % 64) (leBytes n w)) r.data) r.marks s)

/-- A tile write at the target: an arrival in scratchpad, counted on the channel (R311). -/
def serveTile (src : Nat) (off ch : Nat) (v : BitVec 512) (mk : Marks) (s : State) : Answer × State :=
  if !admitted s true src 1 off 64 || !targetOk s true off || 0x40000 < off % 2 ^ 20 + 64 then (.nack 2, s)
  else (.ack, nearWriteAt (off / 2 ^ 20) (off % 2 ^ 20) (leBytes 64 v.toNat) mk (some ch) s)

/-- A reduction of one word (R166): FP32 add, INT32 add, signed maximum, FP32 maximum. -/
def reduceWord (op old w : Nat) : Nat :=
  let sg := fun (x : Nat) => if x < 2 ^ 31 then (x : Int) else (x : Int) - 2 ^ 32
  match op with
  | 0 => (fp32.add 0 false (fp32.decode old) (fp32.decode w)).1
  | 1 => (old + w) % 2 ^ 32
  | 2 => if sg old < sg w then w else old
  | _ => (fp32.minmax true old w (fp32.decode old) (fp32.decode w)).1

/-- A reduction of the sixteen words of a sector (R166). -/
def reduceSector (op : Nat) (old new : BitVec 512) : BitVec 512 :=
  BitVec.ofNat 512 ((List.range 16).foldl (fun a i =>
    a + reduceWord op (old.extractLsb' (32 * i) 32).toNat (new.extractLsb' (32 * i) 32).toNat % 2 ^ 32 * 2 ^ (32 * i)) 0)

/-- The union of two sectors' marks (R166). -/
def unionMarks (a b : Marks) : Marks :=
  { poison := a.poison || b.poison, e1 := a.e1 || b.e1, log := if a.poison || a.e1 then a.log else b.log,
    found := if a.poison || a.e1 then a.found else b.found }

/-- A reduction of the words of a sector that a mask names, at a place of this island (R166, R191). A read that finds E3 writes
nothing, and its marks are the answer: MEM_E3 goes to the requester (R85). -/
def reduceAt (l : Loc) (op : Nat) (mask : BitVec 64) (v : BitVec 512) (mk : Marks) (s : State) : Option Marks × State :=
  let (r, s) := locRead true 0 l s
  if r.e3 then (some r.marks, s)
  else (none, locWrite l mask (reduceSector op r.data v) (unionMarks mk r.marks) s)

/-- A remote FRED at its target: the A permission of a window (R166); a sector found at E3 is not written, and its marks go back
(R85). -/
def serveReduce (src : Nat) (near : Bool) (off op : Nat) (v : BitVec 512) (mk : Marks) (s : State) : Answer × State :=
  if near || !admitted s near src 2 off 64 || !targetOk s near off then (.nack 2, s)
  else
    let (r, s) := readSector true none 0 (off / 64) s
    if r.e3 then (.data 0 r.marks true, s)
    else (.ack, writeSector none (off / 64) (BitVec.allOnes 64) (reduceSector op r.data v) (unionMarks mk r.marks) s)

/-! ### Routing (R317, R320, R321, R325) -/

/-- The channel of a stage (R317). -/
def stageChannel (st : Strait) (stage : Nat) : Nat := mget (stage % 6) st.stages stage

/-- How a flit from a core leaves the island: its port, or the cause of Table 14.5. -/
def routeOut (st : Strait) (core island : Nat) : Except Nat Nat :=
  let st := st.inForce
  let die := dieOfCore core
  let port := islandPort st die island
  if mget false st.fencedIslands island then .error 1
  else if 16 ≤ port then .error 0
  else
    let pd := port / 4
    let first := if pd == die then 228 + port % 4 else 224 + pd
    if !meshReaches st 64 core 0 first || mget false st.fencedPorts port
        || !bridgeReaches st die port then .error 1
    else .ok port

/-- Injection is held: a drain is on and this core did not start it, the channel is stopped, or the port tests a lane
(R316, R318, R323). -/
def injectionHeld (st : Strait) (core port vc : Nat) : Bool :=
  (st.routing != .normal && st.drainCore != core) || mget false st.stopped (8 * port + vc) || mget false st.testing port

/-! ### Sending from this island -/

/-- log2 of 1, 2, 4, 8 or 64 bytes. -/
def sizeCode (n : Nat) : BitVec 4 := BitVec.ofNat 4 (Nat.log2 n)

/-- MASK of a flit: a sector's byte mask cut to the 8-byte word of an offset (Table 14.6). -/
def wordMask (off n : Nat) (mask : BitVec 64) : BitVec 64 := if n == 64 then 0 else (mask >>> (off / 8 * 8 % 64)) &&& 0xFF#64
/-- The byte mask within its sector that a flit's MASK stands for. -/
def sectorMask (off n : Nat) (mask : BitVec 64) : BitVec 64 :=
  if n == 64 then BitVec.allOnes 64 else (mask &&& 0xFF#64) <<< (off / 8 * 8 % 64)

/-- Send a request of a core to another island and keep it waiting for its reply; a held injection stalls the issuer
(R318), its progress kept where `keep` says so; a route that fails fails the request at once (R314). -/
def sendRequest (keep : Bool) (r : RemoteReq) (fl : Flit) : M Unit := do
  let s ← get
  let st := s.strait
  match routeOut st r.core r.island with
  | .error cause => modStrait (fun st => { st with
      waiting := st.waiting ++ [{ r with tag := st.nextTag, done := true, fail := some cause }]
      nextTag := st.nextTag + 1 })
  | .ok port =>
    let vc := stageChannel st.inForce (coreOf s r.core).attrs.stage.toNat
    if injectionHeld st r.core port vc then throw (.wait .backPressure keep)
    else
      let fl := { fl with
        vc := BitVec.ofNat 3 vc, dst := BitVec.ofNat 10 r.island, src := s.host.island, score := BitVec.ofNat 10 r.core,
        tag := BitVec.ofNat 32 st.nextTag, near := aasNear r.addr, addr := BitVec.ofNat 64 (aasOffset r.addr), size := sizeCode r.n,
        mask := wordMask (aasOffset r.addr) r.n fl.mask, out := BitVec.ofNat 4 port }
      modStrait (fun st => { st with
        sent := st.sent ++ [(r.kind, fl)]
        waiting := st.waiting ++ [{ r with tag := st.nextTag }]
        nextTag := st.nextTag + 1 })

/-- The address is on this island: served by loopback (R308). -/
def isLoop (s : State) (a : Word) : Bool := aasIsland a == s.host.island.toNat

/-- What keeps a loopback access at the ingress, as it would a remote one (R308): held injection (R323), a checkpoint or a restore
(R100), a self-test of the row (Table 18.8). -/
def loopWait (s : State) (near : Bool) (off : Nat) : Option Stall :=
  if trafficHeld s.strait s.cur || s.host.ck.status == 2 || s.host.ck.status == 3 then some .backPressure
  else if !near && rowTested s (off / 64) then some .selfTest
  else none

/-- The node of a die to which an address of this island's archipelago space leads (R320). -/
def targetNode (near : Bool) (off : Nat) : Nat × Nat :=
  if near then (off / 2 ^ 20 / 192 % 4, off / 2 ^ 20 % 192) else (homeDie off, 192 + slicePort (off / 64))

/-- A loopback access at the ingress: it waits, or fails with a cause of Table 14.5, or goes on (R308, R325). -/
def loopGate (writes : Bool) (a : Word) : M (Option Nat) := do
  let s ← get
  match loopWait s (aasNear a) (aasOffset a) with
  | some w => stall w
  | none =>
    if writes && !aasNear a && copyHolds s (aasOffset a / 64) then
      modify (noteHeldWrite (aasOffset a / 64))
      stall .hold
    else pure ()
    let (die, node) := targetNode (aasNear a) (aasOffset a)
    pure (if mget false s.strait.fencedIslands s.host.island.toNat || !coreReaches s.strait s.cur die node then some 1 else none)

/-- Writes of the Ferry's commands of a core, up to a stream position, that still await their acknowledgement (R148). -/
def unackedUpTo (s : State) (core pos : Nat) : Bool :=
  s.strait.waiting.any (fun r => r.core == core && r.engine == 5 && r.pos ≤ pos && !r.done &&
    (r.kind == .write || r.kind == .tileWrite || r.kind == .atomic))

/-- Requests of a core's engine that still await their acknowledgement (R335, R338). -/
def unacked (s : State) (core : Nat) (engine : Nat → Bool) : Bool :=
  s.strait.waiting.any (fun r => r.core == core && engine r.engine && !r.done &&
    (r.kind == .write || r.kind == .tileWrite || r.kind == .atomic))

/-- REMOTE_FAIL with a cause (R314). -/
def remoteFail (f : FaultInfo) (cause : Nat) (a : Word) : FaultInfo := { f with code := .remoteFail, cause := cause, addr := a }

/-- An engine's or LDN's wait for the reply to a read: the answer when it is there; else the request is sent and the
command waits. -/
def awaitRemote (keep : Bool) (f : FaultInfo) (r : RemoteReq) (fl : Flit) : M SecRead := do
  let s ← get
  let mine := fun (q : RemoteReq) => q.core == r.core && q.engine == r.engine && q.addr == r.addr && q.kind == r.kind && q.ticket == r.ticket
    && q.operand == r.operand && q.pos == r.pos
  match s.strait.waiting.find? mine with
  | none =>
    sendRequest keep r fl
    throw (.wait .outcome keep)
  | some q =>
    if !q.done then throw (.wait .outcome keep)
    else
      modStrait (fun st => { st with waiting := st.waiting.filter (fun x => x.tag != q.tag) })
      match q.fail with
      | some c => raise (remoteFail f c r.addr)
      | none => pure ⟨q.data, q.marks, q.e3⟩

/-- A read of n bytes by loopback (R308). -/
def loopRead (f : FaultInfo) (a : Word) (n : Nat) : M SecRead := do
  match ← loopGate false a with
  | some c => raise (remoteFail f c a)
  | none =>
    let s ← get
    match serveRead s.host.island.toNat (aasNear a) (aasOffset a) n s with
    | (.data v mk e3, s') => set s'; pure ⟨v, mk, e3⟩
    | (.nack c, _) => raise (remoteFail f c a)
    | (.ack, _) => raise (remoteFail f 2 a)

/-- A whole-sector read of an archipelago address by an engine (R310). -/
def remoteSector (f : FaultInfo) (a : Word) : M SecRead := do
  let s ← get
  if isLoop s a then loopRead f a 64
  else awaitRemote true f { tag := 0, island := aasIsland a, core := s.cur, engine := f.engine, addr := a, kind := .read, n := 64 } {}

/-- Add to the last entry of a list that a test accepts. -/
def addLast {α : Type} (p : α → Bool) (f : α → α) (l : List α) : List α :=
  match l.reverse.findIdx? p with
  | some i => l.modify (l.length - 1 - i) f
  | none => l

/-- Bytes written through a channel, by the stream position of their command, count on the core's write pointer (R158). -/
def addPointer (core ch : Nat) (bs : List (Nat × Nat)) (s : State) : State :=
  let c := coreOf s core
  withCore s core { c with wp := mset 0 c.wp ch (mget 0 c.wp ch + BitVec.ofNat 56 (bs.map (·.2)).sum) }

/-- Bytes written through a channel count behind a logged write through it. -/
def SdlEntry.park (bs : List (Nat × Nat)) (e : SdlEntry) : SdlEntry := { e with parked := e.parked ++ bs }
/-- Bytes written through a channel count behind a write through it that is not acknowledged. -/
def RemoteReq.park (bs : List (Nat × Nat)) (r : RemoteReq) : RemoteReq := { r with parked := r.parked ++ bs }
/-- The bytes that a logged write and those behind it let count as it is performed; those of other commands alone, where it is
never performed (the prefix rule of R158). -/
def SdlEntry.bytes (performed : Bool) (e : SdlEntry) : List (Nat × Nat) :=
  if performed then (e.pos, e.count) :: e.parked else e.parked.filter (fun b => b.1 != e.pos)
/-- The same of a request to another island. -/
def RemoteReq.bytes (performed : Bool) (r : RemoteReq) : List (Nat × Nat) :=
  if performed then (r.pos, r.count) :: r.parked else r.parked.filter (fun b => b.1 != r.pos)
/-- A request that a channel of a core waits for. -/
def RemoteReq.outstanding (core ch : Nat) (r : RemoteReq) : Bool := r.core == core && r.ch == some ch && !r.done

/-- Bytes written through a channel of a core count on its write pointer once every earlier write through the channel has
been performed (R158): behind a logged write or one that is not acknowledged they count with that one. -/
def countOnPointer (core : Nat) (ch n : Nat) (s : State) : State :=
  let c := coreOf s core
  let bs := [(streamPos c 5, n)]
  if s.strait.waiting.any (·.outstanding core ch) then
    { s with strait := { s.strait with waiting := addLast (·.outstanding core ch) (·.park bs) s.strait.waiting } }
  else if c.sdl.any (fun e => e.ch == some ch) then
    withCore s core { c with sdl := addLast (fun e => e.ch == some ch) (·.park bs) c.sdl }
  else addPointer core ch bs s

/-- A request that has left `waiting` lets bytes count: behind the last earlier one through its channel, else on the pointer. -/
def leaveChannel (r : RemoteReq) (bs : List (Nat × Nat)) (s : State) : State :=
  match r.ch with
  | none => s
  | some k =>
    let n := (s.strait.waiting.takeWhile (fun x => x.tag < r.tag)).length
    if (s.strait.waiting.take n).any (·.outstanding r.core k) then
      { s with strait := { s.strait with
        waiting := addLast (·.outstanding r.core k) (·.park bs) (s.strait.waiting.take n) ++ s.strait.waiting.drop n } }
    else addPointer r.core k bs s

/-- Bytes written by the current core's command, on its channel if it has one. -/
def countPointer (ch : Option Nat) (n : Nat) : M Unit :=
  match ch with
  | some k => modify (fun s => countOnPointer s.cur k n s)
  | none => pure ()

/-- A write, tile write or reduction of an archipelago address by an engine or by the Shuttle: performed by loopback, or
sent; a failure waits to be delivered imprecisely at the issuing core (R314). -/
def remoteWrite (f : FaultInfo) (a : Word) (kind : FlitKind) (n : Nat) (mask : BitVec 64) (v : BitVec 512) (mk : Marks) (chop : Nat)
    (ch : Option Nat := none) : M Unit := do
  let s ← get
  let src := s.host.island.toNat
  if isLoop s a then
    let gate ← loopGate true a
    let (ans, s') := match gate with
      | some c => (Answer.nack c, s)
      | none => match kind with
      | .tileWrite => serveTile src (aasOffset a) chop v mk s
      | .atomic => serveReduce src (aasNear a) (aasOffset a) chop v mk s
      | _ => serveWrite src (aasNear a) (aasOffset a) n mask v mk s
    match ans with
    | .nack c => modStrait (fun st => { st with
        waiting := st.waiting ++ [{ tag := st.nextTag, island := aasIsland a, core := s.cur, engine := f.engine, addr := a,
                                    kind := kind, done := true, fail := some c, opc := f.opc, pos := f.pos.getD (streamPos s.core f.engine) }]
        nextTag := st.nextTag + 1 })
    | _ =>
      set s'
      countPointer ch n
  else
    sendRequest (f.engine != 1)
      { tag := 0, island := aasIsland a, core := s.cur, engine := f.engine, addr := a, kind := kind, n := n, ch := ch, count := n,
        opc := f.opc, pos := f.pos.getD (streamPos s.core f.engine) }
      { poison := mk.poison, e1 := mk.e1, mask := mask, data := v, chop := BitVec.ofNat 8 chop }

end Sys2Proof.Machine
end

