-- ==== Sys2Proof/Machine/ShuttleMem.lean ====
section
/-! DEFINITION. The Shuttle's memory instructions (spec 07_onchip_map_caches R132, R141 to R147; spec 14_archipelago R310):
loads, stores, near-map accesses, prefetch, block loads and atomics. -/

namespace Sys2Proof.Machine

/-- The fault prototype of a Shuttle data access. -/
def shData : FaultInfo := { code := .misaligned, engine := 1 }

/-! ### The L1 data cache (R132) -/

/-- The line of the L1 data cache that holds a place. -/
def l1Find (c : Core) (l : Loc) : Option Line := c.l1d.find? (fun x => x.key == l.key)
/-- Fill a line; the cache holds 1,024 (Table 1.3), of which the oldest goes (log entry 10). -/
def l1Fill (l : Loc) (r : SecRead) (c : Core) : Core :=
  { c with l1d := ({ key := l.key, data := r.data, marks := r.marks } :: c.l1d.filter (fun x => x.key != l.key)).take 1024 }
/-- Drop the line that holds a place. -/
def l1Drop (l : Loc) (c : Core) : Core := { c with l1d := c.l1d.filter (fun x => x.key != l.key) }
/-- A store updates a line that is present. -/
def l1Store (l : Loc) (mask : BitVec 64) (v : BitVec 512) (c : Core) : Core :=
  { c with l1d := c.l1d.map (fun x => if x.key == l.key then { x with data := mergeBytes mask v x.data } else x) }

/-! ### Delivery and consumption of a long-latency access (R198, R358) -/

/-- The value of n bytes at a place of a sector, extended. -/
def loadValue (data : BitVec 512) (off n : Nat) (signed : Bool) : Word := extendTo signed n (leNat (sliceBytes data off n))

/-- What a Shuttle access does whose data carry a mark: outside a phase the fault is delivered later (R198); in its
issuing phase, executing, a cancel, or at the limit an abandonment; in an issuing phase that has not begun, it is held
(R358). In the phase cases the access is performed again. -/
def shConsumed (d : BitVec 6) (addr : Word) (mk : Marks) (redo : Access) : M Unit := do
  let s ← get
  let fault := memFault shData .memE2 addr mk
  match openPhase s with
  | none => later { d := d, fault := some fault }
  | some id =>
    if (s.core.ph.exec.any (fun e => e.id == id)) then
      if s.core.sh.eretry.toNat ≤ s.core.sh.ecount.toNat then raise { fault with action := .abandon }
      else
        later { d := d, ready := false, phase := some id, redo := some redo }
        modify (cancelPhase (.e2 (markTests s mk)))
    else later { d := d, ready := false, fault := some fault, phase := some id, redo := some redo }

/-- The result of a long-latency access: its value, a fault found by the read, or a consumption. -/
def shDeliver (d : BitVec 6) (addr : Word) (r : SecRead) (value : Word) (redo : Access) : M Unit := do
  let s ← get
  if r.e3 then later { d := d, fault := some (memFault shData .memE3 addr r.marks), phase := openPhase s }
  else if bad s r.marks then shConsumed d addr r.marks redo
  else later { d := d, value := value, phase := openPhase s }

/-! ### Loads (R141) -/

/-- A load of an archipelago address (R310). -/
def aasLoad (d : BitVec 6) (a : Word) (n : Nat) (signed : Bool) : M Unit := do
  checkAas shData a
  let s ← get
  if isLoop s a then
    let gate ← loopGate false a
    match (match gate with
      | some c => (Answer.nack c, s)
      | none => serveRead s.host.island.toNat (aasNear a) (aasOffset a) n s) with
    | (.data v mk e3, s') =>
      set s'
      shDeliver d a ⟨v, mk, e3⟩ (loadValue v (a.toNat % 64) n signed) (.load a n signed)
    | (.nack c, _) => later { d := d, fault := some (remoteFail shData c a), phase := openPhase s }
    | (.ack, _) => pure ()
  else
    let tk ← ticket
    sendRequest false { tag := 0, island := aasIsland a, core := s.cur, engine := 1, ticket := tk, addr := a, kind := .read, n := n, signed := signed } {}
    later { d := d, ready := false, ticket := tk, phase := openPhase s }

/-- A load of n bytes (R141): a hit in the L1 data cache is fixed-latency, any other load long-latency. -/
def loadLane (f : SI) (n : Nat) (signed : Bool) : M Unit := do
  awaitDest f.d
  let a ← readX false f.a
  let va := a + f.value
  if va.toNat % n != 0 then shFault .misaligned va
  else if bit va 63 then aasLoad f.d va n signed
  else
    let s ← get
    let v ← checkVirtual shData va
    let l ← translate (coreReq s shData) v .read
    let s ← get
    match l1Find s.core l with
    | some x =>
      if bad s x.marks then
        if (openPhase s).isSome then shConsumed f.d va x.marks (.load va n signed)
        else raise (memFault shData .memE2 va x.marks)
      else writeX f.d (loadValue x.data (v % 64) n signed)
    | none =>
      let r ← homeRead { shData with addr := va } l
      if r.e3 then pure () else modCore (l1Fill l r)
      shDeliver f.d va r (loadValue r.data (v % 64) n signed) (.load va n signed)

/-- LDB (R141). -/
def execLdb (f : SI) : Meaning := runM (loadLane f 1 true)
/-- LDBU (R141). -/
def execLdbu (f : SI) : Meaning := runM (loadLane f 1 false)
/-- LDH (R141). -/
def execLdh (f : SI) : Meaning := runM (loadLane f 2 true)
/-- LDHU (R141). -/
def execLdhu (f : SI) : Meaning := runM (loadLane f 2 false)
/-- LDW (R141). -/
def execLdw (f : SI) : Meaning := runM (loadLane f 4 true)
/-- LDWU (R141). -/
def execLdwu (f : SI) : Meaning := runM (loadLane f 4 false)
/-- LDD (R141). -/
def execLdd (f : SI) : Meaning := runM (loadLane f 8 false)

/-! ### Stores (R142) -/

/-- A store to an archipelago address (R310): the Shuttle goes on at once. -/
def aasStore (a : Word) (n : Nat) (v : Word) : M Unit := do
  checkAas shData a
  remoteWrite shData a .write n (maskOf (a.toNat % 64) n) (placeBytes (a.toNat % 64) (leBytes n v.toNat)) {} 0

/-- A store of n bytes: operands first, even when guarded off (R142, R202). -/
def storeLane (f : SS) (n : Nat) : M Unit := do
  let (v, b) ← SS.operands f
  let s ← get
  if !guardTrue s.core.sh f.p f.n then pure ()
  else
    let va := b + SS.offset f n
    if va.toNat % n != 0 then shFault .misaligned va
    else if bit va 63 then aasStore va n v
    else
      let a ← checkVirtual shData va
      let l ← translate (coreReq s shData) a .write
      let mask := maskOf (a % 64) n
      let w := placeBytes (a % 64) (leBytes n v.toNat)
      homeWrite { shData with addr := va } l mask w {}
      modCore (l1Store l mask w)

/-- STB (R142). -/
def execStb (f : SS) : Meaning := runM (storeLane f 1)
/-- STH (R142). -/
def execSth (f : SS) : Meaning := runM (storeLane f 2)
/-- STW (R142). -/
def execStw (f : SS) : Meaning := runM (storeLane f 4)
/-- STD (R142). -/
def execStd (f : SS) : Meaning := runM (storeLane f 8)

/-! ### Near-map access (R144) -/

/-- LDN (R144). -/
def execLdn (f : SI) : Meaning := runM (do
  awaitDest f.d
  let a ← readX false f.a
  let na := a + f.value
  if na.toNat % 8 != 0 then shFault .misaligned na
  else if bit na 63 then aasLoad f.d na 8 false
  else
    let (n, off) ← checkNear shData na
    let s ← get
    let (v, mk) := (coreOf s n).nearRead off
    shDeliver f.d na ⟨0, mk, false⟩ v (.near na))

/-- STN (R144): in the scratchpad an arrival (R136). -/
def execStn (f : SS) : Meaning := runM (do
  let (v, b) ← SS.operands f
  let s ← get
  if !guardTrue s.core.sh f.p f.n then pure ()
  else
    let na := b + SS.offset f 8
    if na.toNat % 8 != 0 then shFault .misaligned na
    else if bit na 63 then aasStore na 8 v
    else
      let (n, off) ← checkNear shData na
      modify (nearWriteAt n off (leBytes 8 v.toNat) {} none))

/-! ### Prefetch and block loads (R145, R146) -/

/-- The place of a prefetch, or none where it is dropped; no A or D is set and no request written (R145). -/
def prefPlace (s : State) (va : Word) : Option Loc × State :=
  if bit va 63 || 2 ^ 52 ≤ va.toNat then (none, s)
  else
    let r := coreReq s shData
    let leaf := match tlbFind s.core r va.toNat with
      | some e => (WalkEnd.leaf e.pte.toNat e.pteAddr e.big, s)
      | none => walk (dieOfCore s.cur % 4) r.asn r.tbase va.toNat s
    match leaf with
    | (.leaf pte _ big, s') =>
      let l := leafLoc pte big va.toNat
      if permits pte .read && !(l.host && mget false s.host.portsDown (l.addr / 2 ^ 52)) && (l.host || !rowTested s (l.addr / 64))
          && !trafficHeld s.strait s.cur && coreReaches s.strait s.cur (if l.host then l.addr / 2 ^ 52 else homeDie l.addr) (192 + slicePort (l.addr / 64))
      then (some l, s') else (none, s')
    | (_, s') => (none, s')

/-- PREF (R145): level 0 into the L1 data cache and the home L2 slice, level 1 into the slice only; it never faults. -/
def execPref (f : SI) : Meaning := runM (do
  let a ← readX false f.a
  let s ← get
  match prefPlace s (a + f.value) with
  | (none, s') => set s'
  | (some l, s') =>
    set s'
    match l1Find s'.core l with
    | some _ => pure ()
    | none =>
      let (r, s'') := locRead true 0 l (if l.host then s' else bringLine (l.addr / 64) s')
      set s''
      if f.d == 0 && !r.e3 then modCore (l1Fill l r) else pure ())

/-- The sectors of a block, filled into the slice and read in ascending order: how many carry a mark, and the first found at
E3. -/
def blockMarks (f : FaultInfo) (l : Loc) : Nat → Nat → M (Nat × Option SecRead)
  | 0, _ => pure (0, none)
  | n + 1, k => do
    let p : Loc := { l with addr := l.addr + 64 * k }
    awaitSector f false p
    if p.host then pure () else modify (bringLine (p.addr / 64))
    let r ← homeRead f p
    let (c, e) ← blockMarks f l n (k + 1)
    pure (c + (if r.marks.poison || r.marks.e1 then 1 else 0), if r.e3 then some r else e)

/-- A block of n lines is formed at its home slice; an older one that it overlaps dissolves (R146). -/
def formBlock (first n : Nat) (s : State) : State :=
  { s with blocks := (s.blocks.filter (fun b => b.1 + b.2 ≤ first || first + n ≤ b.1)) ++ [(first, n)] }

/-- LDBLK (R146): the block is formed at the home L2 slice; the count of marked sectors and the flag come with the result. It
leaves the slice as a whole when the oldest line of its slice that goes is one of its lines (log entry 10). -/
def execLdblk (f : SA) : Meaning := runM (do
  awaitDest f.d
  let (va, c) ← SA.ab f
  let n := bits c 6 0
  let fl := bits c 12 8
  if bits c 63 13 != 0 || bit c 7 || n == 0 || 64 < n || fl < 8 then shFault .badOperand
  else if bits va 5 0 != 0 then shFault .misaligned va
  else if bit va 63 || bits va 62 52 != 0 || 64 < bits va 11 6 + n then shFault .addrRange va
  else
    let s ← get
    let l ← translate (coreReq s shData) va.toNat .read
    let (count, e3) ← blockMarks { shData with addr := va } l n 0
    modify (formBlock (if l.host then 2 ^ 60 + l.addr / 64 else l.addr / 64) n)
    match e3 with
    | some r => later { d := f.d, fault := some (memFault shData .memE3 va r.marks) }
    | none => later { d := f.d, value := BitVec.ofNat 64 count, flag := fl })

/-! ### Atomics (R147) -/

/-- An atomic at a place of this island, single-copy atomic at its home point; nothing is written on a marked sector. -/
def atomicAt (d : BitVec 6) (l : Loc) (va : Word) (n op : Nat) (v cmp : Word) : M FFlags := do
  modCore (l1Drop l)
  awaitSector { shData with addr := va } true l
  let r ← homeRead { shData with addr := va } l
  let s ← get
  let old := leNat (sliceBytes r.data (va.toNat % 64) n)
  let (w, fl) := atomicNew op n old (v.toNat % 2 ^ (8 * n))
  let does := !r.e3 && !bad s r.marks && !(op == 0x57 && old != cmp.toNat % 2 ^ (8 * n))
  if does then modify (locUpdate l (maskOf (va.toNat % 64) n) (placeBytes (va.toNat % 64) (leBytes n w)) r)
  else pure ()
  shDeliver d va r (extendTo true n old) (.atomic op va n v cmp)
  pure (if does then fl else {})

/-- An atomic on an archipelago address (Table 14.3): physical only. -/
def aasAtomic (d : BitVec 6) (a : Word) (n op : Nat) (v cmp : Word) : M FFlags := do
  if aasNear a && aasFormOk a then shFault .addrRange a
  else
    checkAas shData a
    let s ← get
    let vn := v.toNat % 2 ^ (8 * n)
    let cn := cmp.toNat % 2 ^ (8 * n)
    if isLoop s a then
      let gate ← loopGate true a
      match (match gate with
        | some c => (Answer.nack c, ({} : FFlags), s)
        | none => serveAtomic s.host.island.toNat (aasNear a) (aasOffset a) n op vn cn s.core.attrs.e1pol s) with
      | (.data x mk e3, fl, s') =>
        set s'
        shDeliver d a ⟨x, mk, e3⟩ (loadValue x (a.toNat % 64) n true) (.atomic op a n v cmp)
        pure fl
      | (.nack c, _, _) =>
        later { d := d, fault := some (remoteFail shData c a), phase := openPhase s }
        pure {}
      | (.ack, _, _) => pure {}
    else
      let tk ← ticket
      sendRequest false
        { tag := 0, island := aasIsland a, core := s.cur, engine := 1, ticket := tk, addr := a, kind := .atomic, n := n, signed := true,
          op := op, operand := v, comparand := cmp }
        { chop := BitVec.ofNat 8 op, opnd := cmp ++ v, mask := maskOf (a.toNat % 64) n }
      later { d := d, ready := false, ticket := tk, phase := openPhase s }
      pure {}

/-- An atomic lane (R147): the ACAS comparand, then xa and xb; a false guard leaves xd and memory as they are. -/
def atomicLane (f : SA) (op : Nat) : M Unit := do
  let cmp ← if op == 0x57 then readX f.t f.d else pure 0
  awaitDest f.d
  let (addr, v) ← SA.ab f
  let s ← get
  if !guardTrue s.core.sh f.p f.n then pure ()
  else
    let n := if f.w then 4 else 8
    if addr.toNat % n != 0 then shFault .misaligned addr
    else if bit addr 63 then
      let fl ← aasAtomic f.d addr n op v cmp
      setFstat fl
    else
      let a ← checkVirtual shData addr
      let l ← translate (coreReq s shData) a .atomic
      let fl ← atomicAt f.d l addr n op v cmp
      setFstat fl

/-- AADD (R147). -/
def execAadd (f : SA) : Meaning := runM (atomicLane f 0x50)
/-- AAND (R147). -/
def execAand (f : SA) : Meaning := runM (atomicLane f 0x51)
/-- AOR (R147). -/
def execAor (f : SA) : Meaning := runM (atomicLane f 0x52)
/-- AXOR (R147). -/
def execAxor (f : SA) : Meaning := runM (atomicLane f 0x53)
/-- AMIN (R147). -/
def execAmin (f : SA) : Meaning := runM (atomicLane f 0x54)
/-- AMAX (R147). -/
def execAmax (f : SA) : Meaning := runM (atomicLane f 0x55)
/-- ASWAP (R147). -/
def execAswap (f : SA) : Meaning := runM (atomicLane f 0x56)
/-- ACAS: the comparand is xd (R147). -/
def execAcas (f : SA) : Meaning := runM (atomicLane f 0x57)
/-- AFADD (R147). -/
def execAfadd (f : SA) : Meaning := runM (atomicLane f 0x58)

/-- Perform an access again at its home point (R358): the pending result with index k takes what it finds now; a mark
cancels the executing phase again. Its flags are those of an AFADD that takes effect. A read of FSTAT and the reads of the
Loom are not of this kind. -/
def redoAccess (acc : Access) (d : BitVec 6) : M FFlags := do
  let s ← get
  match acc with
  | .load va n signed =>
    if bit va 63 then
      aasLoad d va n signed
      pure {}
    else
      let l ← translate (coreReq s shData) va.toNat .read
      let r ← homeRead { shData with addr := va } l
      if r.e3 then pure () else modCore (l1Fill l r)
      shDeliver d va r (loadValue r.data (va.toNat % 64) n signed) acc
      pure {}
  | .near na =>
    let (n, off) ← checkNear shData na
    let s ← get
    let (v, mk) := (coreOf s n).nearRead off
    shDeliver d na ⟨0, mk, false⟩ v acc
    pure {}
  | .atomic op va n v cmp =>
    if bit va 63 then aasAtomic d va n op v cmp
    else
      let l ← translate (coreReq s shData) va.toNat .atomic
      atomicAt d l va n op v cmp
  | .fstat => pure {}
  | .spawn _ => pure {}
  | .tkv _ _ => pure {}

end Sys2Proof.Machine
end

