-- ==== Sys2Proof/Machine/Consistency.lean ====
section
/-! DEFINITION. Memory consistency (spec 15_consistency R331 to R342): bindings, acquire, release, marker fences and
flags. -/

namespace Sys2Proof.Machine

/-! ### Bindings (R331 to R333) -/

/-- BIND (R332): d, a and b are sources, taken from the highest field down. -/
def execBind (f : SA) : Meaning := runM (do
  let sync ← readX f.t f.d
  let (base, c) ← SA.ab f
  let len := bits c 63 16
  if bits c 15 8 != 0 || 4 < bits c 7 5 || len == 0 || bits c 21 16 != 0 then shFault .badOperand
  else if bits base 5 0 != 0 || bits sync 1 0 != 0 then shFault .misaligned
  else if bits base 63 52 != 0 || 2 ^ 52 < base.toNat + len then shFault .addrRange base
  else if (!bit sync 63 && bits sync 62 52 != 0) || (bit sync 63 && (bit sync 52 || bits sync 51 39 != 0)) then
    shFault .addrRange sync
  else
    let b : Binding := { sync := sync, len := BitVec.ofNat 48 len, scope := BitVec.ofNat 3 (bits c 7 5), valid := true,
                         base := base.setWidth 52 }
    modCore (fun k => { k with binds := mset {} k.binds (bits c 4 0) b }))

/-- UNBIND: clear VALID of one binding, or of all (R333). -/
def execUnbind (f : SI) : Meaning := runM (modCore fun k =>
  let clear := fun (m : SMap Binding) (i : Nat) => mset {} m i { mget {} m i with valid := false }
  { k with binds := if bit f.imm 5 then (List.range 32).foldl clear k.binds else clear k.binds (bits f.imm 4 0) })

/-- The valid bindings of a core to an object, compared on all 64 bits (R331). -/
def bindsTo (c : Core) (a : Word) : List Binding := (c.binds.map (·.2)).filter (fun b => b.valid && b.sync == a)
/-- The scope of an object on a core: the widest of its valid bindings, else CORE (R331). -/
def scopeOf (c : Core) (a : Word) : Nat := (bindsTo c a).foldl (fun m b => max m b.scope.toNat) 0

/-! ### What acquire and release act on -/

/-- The place of a virtual page, as the tables now hold it. -/
def peekPlace (s : State) (asn tbase va : Nat) : Option Loc :=
  match (walk 0 asn tbase va (withDie s 0 { dieOf s 0 with walk := [] })).1 with
  | .leaf pte _ big => some (leafLoc pte big va)
  | _ => none

/-- The L1 lines that hold bytes of a bound region (R334). -/
def regionKeys (s : State) (b : Binding) : List (Nat × Nat) :=
  let lo := b.base.toNat
  let hi := lo + b.len.toNat
  (List.range (if lo < hi then (hi - 1) / 65536 - lo / 65536 + 1 else 0)).filterMap (fun k =>
    let p := max lo (65536 * (lo / 65536 + k))
    let e := min hi (65536 * (lo / 65536 + k + 1))
    (peekPlace s s.core.attrs.asn.toNat s.core.attrs.tbase p).map (fun l => (l.key, (e - 1) / 64 - p / 64)))

/-- Drop the L1 data lines of a region. -/
def dropRegion (s : State) (b : Binding) (c : Core) : Core :=
  let keys := regionKeys s b
  { c with l1d := c.l1d.filter (fun x => !keys.any (fun k => k.1 ≤ x.key && x.key ≤ k.1 + k.2)) }

/-- Drop the parameter-block cache entries of a region (R152). -/
def dropBlocks (b : Binding) (c : Core) : Core :=
  { c with pbc := c.pbc.filter (fun e => !(e.asn == c.attrs.asn.toNat && b.base.toNat < e.va + 64 && e.va < b.base.toNat + b.len.toNat)) }

/-- The address of a sync object: virtual, or archipelago with NEAR = 0; an archipelago one needs the REMOTE right
(R334). -/
def checkSync (a : Word) : M Unit := do
  if bit a 63 then if aasNear a then shFault .addrRange a else checkAas shData a
  else if 2 ^ 52 ≤ a.toNat then shFault .addrRange a
  else pure ()

/-- A marked sync word is consumed: outside a phase MEM_E2 at the lane; inside its phase the phase is cancelled and the
lane executes again (R87, R358). -/
def syncConsumed (a : Word) (mk : Marks) : M Unit := do
  let s ← get
  match openPhase s with
  | none => raise (memFault shData .memE2 a mk)
  | some id =>
    if s.core.ph.exec.any (fun e => e.id == id) then
      if s.core.sh.eretry.toNat ≤ s.core.sh.ecount.toNat then raise { memFault shData .memE2 a mk with action := .abandon }
      else throw (.cancel (.e2 (markTests s mk)))
    else stall .outcome

/-- The lane at which the Shuttle stands, by which a wait there knows its own request again. -/
def lanePlace (h : Shuttle) : Nat := 8 * h.pc.toNat + h.lane

/-- The value of a sync word, read at its home point (R334). -/
def readSync (a : Word) (n : Nat) : M Nat := do
  let s ← get
  let r ← (if bit a 63 then
      (if isLoop s a then loopRead shData a n
       else awaitRemote false shData
         { tag := 0, island := aasIsland a, core := s.cur, engine := 1, addr := a, kind := .read, n := n, ticket := 2 ^ 64,
           pos := lanePlace s.core.sh } {})
    else do
      let l ← translate (coreReq s shData) a.toNat .read
      homeRead { shData with addr := a } l)
  if r.e3 then raise (memFault shData .memE3 a r.marks)
  else if bad s r.marks then
    syncConsumed a r.marks
    pure 0
  else pure (leNat (sliceBytes r.data (a.toNat % 64) n))

/-- Add to a sync word at its home point, single-copy atomic; the old value (R335). -/
def addSync (a : Word) (n inc : Nat) : M Nat := do
  let s ← get
  let inc := inc % 2 ^ (8 * n)
  if bit a 63 then
    if isLoop s a then
      match ← loopGate true a with
      | some c => raise (remoteFail shData c a)
      | none => match serveAtomic s.host.island.toNat (aasNear a) (aasOffset a) n 0x50 inc 0 s.core.attrs.e1pol s with
        | (.data x mk e3, _, s') =>
          set s'
          finish x mk e3
        | (.nack c, _, _) => raise (remoteFail shData c a)
        | (.ack, _, _) => pure 0
    else
      let r ← awaitRemote false shData
        { tag := 0, island := aasIsland a, core := s.cur, engine := 1, addr := a, kind := .atomic, n := n, ticket := 2 ^ 64, op := 0x50,
          operand := BitVec.ofNat 64 inc, pos := lanePlace s.core.sh }
        { chop := 0x50, opnd := BitVec.ofNat 128 inc, mask := maskOf (a.toNat % 64) n }
      finish r.data r.marks r.e3
  else
    let l ← translate (coreReq s shData) a.toNat .atomic
    modCore (l1Drop l)
    awaitSector { shData with addr := a } true l
    let r ← homeRead { shData with addr := a } l
    let old ← finish r.data r.marks r.e3
    modify (locUpdate l (maskOf (a.toNat % 64) n) (placeBytes (a.toNat % 64) (leBytes n (old + inc))) r)
    pure old
where
  /-- The old value, with E3 and marks taken at the lane. -/
  finish (x : BitVec 512) (mk : Marks) (e3 : Bool) : M Nat := do
    let s ← get
    if e3 then raise (memFault shData .memE3 a mk)
    else if bad s mk then
      syncConsumed a mk
      pure 0
    else pure (leNat (sliceBytes x (a.toNat % 64) n))

/-- The wait of ACQ: the object has reached the comparand, mod 2^N (R334). -/
def syncReached (n v c : Nat) : Bool := (v + 2 ^ (8 * n) - c % 2 ^ (8 * n)) % 2 ^ (8 * n) < 2 ^ (8 * n - 1)

/-- Wait on a sync word (R334). -/
def awaitSync (a : Word) (n : Nat) (c : Word) : M Nat := do
  if a.toNat % n != 0 then shFault .misaligned a
  else
    checkSync a
    let v ← readSync a n
    if syncReached n v c.toNat then pure v else stall .condition

/-- ACQ (R334). -/
def execAcq (f : SA) : Meaning := runM (do
  awaitDest f.d
  let (a, c) ← SA.ab f
  let n := if f.w then 4 else 8
  let v ← awaitSync a n c
  let s ← get
  modCore (fun k => (bindsTo k a).foldl (fun k b => dropBlocks b (dropRegion s b k)) k)
  writeX f.d (extendTo true n v))

/-- Logged engine writes to the regions bound to an object stand in a store side log (R335, R120). -/
def loggedIn (c : Core) (bs : List Binding) : Bool :=
  c.sdl.any (fun e => e.asn == c.attrs.asn.toNat &&
    bs.any (fun b => b.base.toNat < e.va / 64 * 64 + 64 && e.va < b.base.toNat + b.len.toNat))

/-- An earlier atomic of the Shuttle has still to be performed again at its home point (R358). -/
def atomicsOwed (h : Shuttle) : Bool :=
  h.pending.any (fun p => !p.ready && (match p.redo with
    | some (.atomic ..) => true
    | _ => false))

/-- REL (R335): Shuttle stores and completed engine writes of this model are performed already; what remains are the
store side logs, the acknowledgements of other islands and the atomics that a phase cancel makes perform again (R358). -/
def execRel (f : SA) : Meaning := runM (do
  awaitDest f.d
  let (a, i) ← SA.ab f
  let n := if f.w then 4 else 8
  if a.toNat % n != 0 then shFault .misaligned a
  else
    checkSync a
    let s ← get
    if loggedIn s.core (bindsTo s.core a) || atomicsOwed s.core.sh then stall .drain
    else if scopeOf s.core a == 4 && unacked s s.cur (· == 1) then stall .drain
    else
      modCore (fun k => (bindsTo k a).foldl (fun k b => dropBlocks b k) k)
      let old ← addSync a n i.toNat
      writeX f.d (extendTo true n old))

/-- ACQ.ALL (R336): the wait on a named object, then every L1 line and parameter-block entry goes. -/
def execAcqAll (f : SI) : Meaning := runM (do
  let c ← readX false f.d
  let a ← readX false f.a
  if f.a == 0 then pure () else do
    let _ ← awaitSync a (if bit f.imm 3 then 4 else 8) c
    pure ()
  modCore (fun k => { k with l1d := [], l1i := [], pbc := [] }))

/-- REL.ALL (R336). -/
def execRelAll (f : SI) : Meaning := runM (do
  let i ← readX false f.d
  let a ← readX false f.a
  let n := if bit f.imm 3 then 4 else 8
  if f.a != 0 && a.toNat % n != 0 then shFault .misaligned a
  else
    if f.a == 0 then pure () else checkSync a
    let s ← get
    if !s.core.sdl.isEmpty || atomicsOwed s.core.sh then stall .drain
    else if bits f.imm 2 0 == 4 && unacked s s.cur (· == 1) then stall .drain
    else
      modCore (fun k => { k with pbc := [] })
      if f.a == 0 then pure () else do
        let _ ← addSync a n i.toNat
        pure ())

/-! ### Marker fences (R339) -/

/-- The queues of an MFENCE mask, in the order of its bits. -/
def maskQueues (m : BitVec 5) : List Queue := allQueues.filter (fun q => bit m (queueBit q))

/-- A queue has a free entry. -/
def EngQueue.room (v : EngQueue) (q : Queue) : Bool := v.used < depthOf q

/-- Push an entry. -/
def Core.push (c : Core) (q : Queue) (e : Entry) : Core :=
  c.setQueue q { c.queue q with entries := (c.queue q).entries ++ [e] }

/-- MFENCE: BAD_OPERAND inside a phase; one marker into each named queue once each has room; then the join. -/
def execMfence (f : SI) : Meaning := runM (do
  let s ← get
  let m := f.imm.setWidth 5
  if s.core.ph.openId.isSome then shFault .badOperand
  else match s.core.sh.fence with
    | .joined => modSh (fun h => { h with fence := .none })
    | .waiting _ => stall .join
    | .none =>
      if (maskQueues m).all (fun q => EngQueue.room (s.core.queue q) q) then
        modCore (fun c => (maskQueues m).foldl (fun c q => Core.push c q .fence) c)
        modSh (fun h => { h with fence := .waiting m })
        throw (.wait .join true)
      else stall .queueFull)

/-- The join slot sees what an MFENCE waits for: each named queue's marker at its head, no running nest behind a matrix marker,
each named engine's store side log empty (R339). -/
def fenceMet (c : Core) : Fence → Bool
  | .waiting m => (maskQueues m).all (fun q =>
      (c.queue q).reached == some .fence && (q != .matrix || c.mat.nest.isNone) &&
        sdlOf c (if q == .ferryLoad then 5 else engineOf q) == [])
  | _ => false

/-- The markers of an MFENCE leave their queues. -/
def dropFences (f : Fence) (c : Core) : Core :=
  match f with
  | .waiting m => (maskQueues m).foldl (fun c q => c.setQueue q { c.queue q with entries := (c.queue q).entries.tail }) c
  | _ => c

/-- A join can form: that of the MFENCE which a handler entry has set aside first, whose markers are the older ones. -/
def fenceReady (c : Core) : Bool :=
  match c.sh.savedFence with
  | .waiting _ => fenceMet c c.sh.savedFence
  | _ => fenceMet c c.sh.fence

/-- The join: the markers go, and the Shuttle goes on, now or once the handler has returned (R339). -/
def fenceJoin (c : Core) : Core :=
  match c.sh.savedFence with
  | .waiting _ =>
    let c := dropFences c.sh.savedFence c
    { c with sh := { c.sh with savedFence := if c.sh.hmode then .joined else .none } }
  | _ =>
    let c := dropFences c.sh.fence c
    { c with sh := { c.sh with fence := .joined } }

/-! ### Flags (R341, R342) -/

/-- The offset of FLAG_VAL or FLAG_ADD of a flag in a window (Table 7.2). -/
def flagOffset (add : Bool) (f : Nat) : Nat := (if add then 0x90D00 else 0x90C00) + 8 * f

/-- A flag write: to this core, or through a window address a near-map write of the Shuttle (R341). -/
def flagLane (f : SA) (add : Bool) : M Unit := do
  let (w, v) ← SA.ab f
  let fl := f.d.toNat
  let val := v.setWidth 32
  if f.a == 0 then modCore (fun c => if add then c.flagAdd fl val else c.flagVal fl val)
  else if bits w 19 0 != 0 then shFault .misaligned w
  else if bit w 63 then
    if !aasNear w then shFault .addrRange w
    else
      let a := w + BitVec.ofNat 64 (flagOffset add fl)
      checkAas shData w
      remoteWrite shData a .write 8 (maskOf (a.toNat % 64) 8) (placeBytes (a.toNat % 64) (leBytes 8 val.toNat)) {} 0
  else
    let (n, _) ← checkNear shData w
    modify (nearWriteAt n (flagOffset add fl) (leBytes 8 val.toNat) {} none)

/-- FLAGW (R341). -/
def execFlagw (f : SA) : Meaning := runM (flagLane f false)
/-- FLAGADD (R341). -/
def execFlagadd (f : SA) : Meaning := runM (flagLane f true)
/-- FLAGR: a flag of this core, zero-extended (R342). -/
def execFlagr (f : SI) : Meaning := runM (do
  awaitDest f.d
  let s ← get
  writeX f.d ((s.core.flag (bits f.imm 4 0)).setWidth 64))

end Sys2Proof.Machine
end

