-- ==== Sys2Proof/Machine/Control.lean ====
section
/-! DEFINITION. The Shuttle's control flow (spec 10_shuttle R202, R215 to R217): branches set the next bundle, which is
taken after lane 7 (R26). -/

namespace Sys2Proof.Machine

/-- The bundle that follows lane 7 (R26). -/
def jumpTo (t : Word) : M Unit := modSh (fun h => { h with target := some t })

/-- A branch's target: the bundle's address plus 32 × disp20 (R32). -/
def SB.dest (f : SB) (pc : Word) : Word := pc + f.disp.signExtend 64 * 32

/-- BR (R215). -/
def execBr (f : SB) : Meaning := runM (do
  let s ← get
  if guardTrue s.core.sh f.p f.n then jumpTo (SB.dest f s.core.sh.pc) else pure ())

/-- CALL: x63 is written at its lane (R215). -/
def execCall (f : SB) : Meaning := runM (do
  awaitDest 63
  let s ← get
  if guardTrue s.core.sh f.p f.n then
    writeX 63 (s.core.sh.pc + 32)
    jumpTo (SB.dest f s.core.sh.pc)
  else pure ())

/-- A jump to a register: the source before any write, alignment checked when the guard is true (R215). -/
def jumpReg (f : SA) (r : BitVec 6) (link : Bool) : M Unit := do
  if link then awaitDest 63 else pure ()
  let t ← readX f.t r
  let s ← get
  if guardTrue s.core.sh f.p f.n then
    if bits t 4 0 != 0 then shFault .misaligned t
    else
      if link then writeX 63 (s.core.sh.pc + 32) else pure ()
      jumpTo t
  else pure ()

/-- JR (R215). -/
def execJr (f : SA) : Meaning := runM (jumpReg f f.a false)
/-- CALLR (R215). -/
def execCallr (f : SA) : Meaning := runM (jumpReg f f.a true)
/-- RET (R215). -/
def execRet (f : SA) : Meaning := runM (jumpReg f 63 false)

/-- LOOP: decrement and branch while non-zero (R216). -/
def execLoop (f : SL) : Meaning := runM (do
  let x ← readX false f.d
  let s ← get
  writeX f.d (x - 1)
  if x - 1 != 0 then jumpTo (s.core.sh.pc + f.lit.value (f.imm.signExtend 64 * 32)) else pure ())

/-- TRAP: the fault carries the code and X[a]; the resume point is the lane after it (R217). -/
def execTrap (f : SI) : Meaning := runM (do
  let a ← readX false f.a
  let s ← get
  let h := s.core.sh
  let code : Word := if f.lit.isNone then f.imm.setWidth 64 else f.value
  raise { code := .trap, engine := 1, w4 := code, w5 := a,
          resume := some (if h.lane < 7 then (h.pc, h.lane + 1) else (h.pc + 32, 0)) })

end Sys2Proof.Machine
end

