-- ==== Sys2Proof/Machine/System.lean ====
section
/-! DEFINITION. System registers (spec 10_shuttle R200, 18_faults_reliability R398, R404), PICK, translation invalidation
(spec 06_translation R112 to R114), phases as the Shuttle pushes and abandons them (spec 16_execution_scheduling R352 to
R354, R361) and the return from the handler (R400). -/

namespace Sys2Proof.Machine

/-! ### Shared pieces -/

/-- The late fault of the first producer that has one (R198): delivered at a wait, timed or halt bundle and at PHASE.B. -/
def raiseLate : M Unit := do
  let s ← get
  match (s.core.sh.pending.find? (fun p => p.ready && p.fault.isSome)).bind (·.fault) with
  | some f => raise f
  | none => pure ()

/-- The entries of a queue that belong to the open phase (R354). -/
def phaseHeld (c : Core) (id : Nat) (q : Queue) : Nat :=
  let v := c.queue q
  let own := if c.ph.exec.any (fun e => e.id == id && e.has q) then v.kept ++ v.ending.map Entry.cmd ++ v.entries
    else v.entries.dropWhile (fun e => e != .phaseB id)
  own.countP Entry.takesPlace

/-- Room for one entry in a queue: PHASE_OVERFLOW where the open phase holds every entry (R354), a stall where the queue
is full (R25). -/
def awaitRoom (q : Queue) : M Unit := do
  let s ← get
  let c := s.core
  if c.ph.openId.any (fun id => depthOf q ≤ phaseHeld c id q) then
    raise { code := .phaseOverflow, engine := 1, action := .abandonOpen }
  else if (c.queue q).room q then pure () else stall .queueFull

/-- A right of the launch on the core (Table 16.3). -/
def needRight (i : Nat) : M Unit := do
  let s ← get
  if bit s.core.attrs.rights i then pure () else shFault .noRight

/-! ### System registers (Tables 1.2, 10.2 to 10.5, 11.2, 18.4) -/

/-- CORE_COORD (Table 1.2). -/
def coreCoord (s : State) : Word :=
  let n := s.cur % 192
  BitVec.ofNat 64 (s.host.island.toNat * 2 ^ 30 + s.core.attrs.stage.toNat * 2 ^ 24 + s.cur / 192 * 2 ^ 20 + quadOf s.cur * 2 ^ 14
    + qcOf s.cur * 2 ^ 12 + n / 16 * 2 ^ 8 + n % 16 * 2 ^ 4)

/-- RQSTAT (Table 10.5). -/
def rqstat (h : Shuttle) : Word :=
  match h.replies with
  | [] => 0
  | e :: _ => BitVec.ofNat 64 (e.src.toNat * 256 + h.replies.length)

/-- FCTL (Table 18.4). -/
def fctl (h : Shuttle) : Word :=
  BitVec.ofNat 64 (h.ecount.toNat * 2 ^ 12 + h.eretry.toNat * 2 ^ 8 + (if h.more then 2 else 0) + (if h.hmode then 1 else 0))

/-- A fixed-latency system register (Tables 10.1 and 18.4); none for a long-latency one. -/
def sysReg (s : State) (r : Nat) : Option Word :=
  let h := s.core.sh
  if r == 0 then some (coreCoord s)
  else if r == 2 then some (h.frm.setWidth 64)
  else if r == 4 then some (rqstat h)
  else if r == 0x100 then some h.tvec
  else if r == 0x101 then some h.epc
  else if r == 0x102 then some (fctl h)
  else if r == 0x103 then some h.errinj
  else if 0x110 ≤ r && r ≤ 0x117 then some (h.frec.getD (r - 0x110) 0)
  else none

/-- SRD (R200): FSTAT waits for the core's AFADDs; SRCTR and VSTAT pass through the vector queue; a counter of Table 18.7
is that of the core's die (R408). -/
def execSrd (f : SI) : Meaning := runM (do
  awaitDest f.d
  let s ← get
  let r := f.imm.toNat
  match sysReg s r with
  | some v => writeX f.d v
  | none =>
    if r == 1 then later { d := f.d, value := s.core.sh.fstat.setWidth 64, ready := false, redo := some .fstat }
    else if 0x180 ≤ r then
      later { d := f.d, value := BitVec.ofNat 64 (mget 0 (dieOf s (dieOfCore s.cur)).counters (r - 0x180)) }
    else
      awaitRoom .vector
      let tk ← ticket
      modCore (fun c => Core.push c .vector (.srd r tk))
      later { d := f.d, ready := false, ticket := tk })

/-- The class cannot be shown under the page's code (R404). -/
def injectBad (code cls : Nat) : Bool := if isE3Code code then cls == 1 || cls == 2 else cls == 3

/-- An SWR to ERRINJ (R398, R404). -/
def swrErrinj (v : Word) : M Unit := do
  needRight 5
  if bits v 62 52 != 0 || bits v 5 2 != 0 then shFault .badOperand
  else if !bit v 63 then modSh (fun h => { h with errinj := v })
  else
    let s ← get
    let va := bits v 51 6 * 64
    let l ← translate (coreReq s shData) va .read
    if injectBad l.nlc (bits v 1 0) then shFault .badOperand
    else modSh (fun h => { h with
      errinj := v
      errinjCode := l.nlc
      errinjSector := if l.host then 2 ^ 60 + l.addr / 64 else l.addr / 64 })

/-- SWR (R200, R398); an SWR of SRCTR or VSTAT passes through the vector queue (R65). -/
def execSwr (f : SI) : Meaning := runM (do
  let v ← readX false f.a
  let r := f.imm.toNat
  if r == 1 then modSh (fun h => { h with fstat := v.setWidth 5 })
  else if r == 2 then modSh (fun h => { h with frm := v.setWidth 2 })
  else if r == 3 || r == 5 then
    awaitRoom .vector
    modCore (fun c => Core.push c .vector (.swr r v))
  else if r == 0x100 then modSh (fun h => { h with tvec := v &&& 0x000FFFFFFFFFFFE0 })
  else if r == 0x101 then modSh (fun h => { h with epc := v &&& 0x000FFFFFFFFFFFE7 })
  else if r == 0x102 then modSh (fun h => { h with eretry := v.extractLsb' 8 3 })
  else swrErrinj v)

/-- PICK (R362): PickNow() (R14). -/
def execPick (f : SA) : Meaning := runM (do
  awaitDest f.d
  let s ← get
  writeX f.d s.pick)

/-! ### Translation invalidation (R112 to R114) -/

/-- Drop the translations that a test names, on every TLB, stream TLB and walk cache of the island. -/
def dropTranslations (leaf : TlbEntry → Bool) (table : WalkEntry → Bool) (s : State) : State :=
  let s := mapCores (fun c => { c with tlb := c.tlb.filter (fun e => !leaf e), stlb := c.stlb.filter (fun p => !leaf p.2) }) s
  s.dies.foldl (fun s p => withDie s p.1 { dieOf s p.1 with walk := (dieOf s p.1).walk.filter (fun w => !table w) }) s

/-- The span of a walk-cache entry overlaps [lo, hi). -/
def walkOverlaps (w : WalkEntry) (lo hi : Nat) : Bool :=
  let span := if w.level == 3 then 2 ^ 40 else 2 ^ 28
  w.base * span < hi && lo < (w.base + 1) * span
/-- The page of a TLB entry overlaps [lo, hi). -/
def leafOverlaps (e : TlbEntry) (lo hi : Nat) : Bool :=
  e.base < hi && lo < e.base + (if e.big then 2 ^ 28 else 65536)

/-- TLBINV (R112, R114): every walk and every access of this model has ended when the lane executes. -/
def execTlbinv (f : SA) : Meaning := runM (do
  awaitDest f.d
  let (base, n) ← SA.ab f
  needRight 0
  if bits base 15 0 != 0 then shFault .misaligned base
  else if bits base 63 52 != 0 || 2 ^ 36 < n.toNat || 2 ^ 36 < bits base 51 16 + n.toNat then shFault .addrRange base
  else
    let lo := base.toNat
    let hi := base.toNat + n.toNat * 65536
    modify (fun s =>
      let asn := s.core.attrs.asn.toNat
      dropTranslations (fun e => n != 0 && e.asn == asn && leafOverlaps e lo hi)
        (fun w => n != 0 && w.asn == asn && walkOverlaps w lo hi) s)
    later { d := f.d, value := 0 })

/-- TLBINVA (R113): this launch's address space, or every one. -/
def execTlbinva (f : SI) : Meaning := runM (do
  awaitDest f.d
  needRight 0
  modify (fun s =>
    let asn := s.core.attrs.asn.toNat
    let all := f.value == 1
    dropTranslations (fun e => all || e.asn == asn) (fun w => all || w.asn == asn) s)
  later { d := f.d, value := 0 })

/-! ### Phases at the Shuttle (R352 to R354, R361) -/

/-- The markers that stand in a queue (R353). -/
def EngQueue.markers (v : EngQueue) : Nat :=
  v.entries.countP (fun e => match e with
    | .phaseB _ => true
    | .phaseC _ => true
    | _ => false)

/-- Push a marker into each of the five queues once each has a free marker slot (R353). -/
def pushMarkers (e : Entry) : M Unit := do
  let s ← get
  if allQueues.all (fun q => (s.core.queue q).markers < 4) then
    modCore (fun c => allQueues.foldl (fun c q => Core.push c q e) c)
  else stall .marker

/-- PHASE.B (R352): it opens a phase; a late fault is delivered first (R198). -/
def execPhaseB (_ : SI) : Meaning := runM (do
  raiseLate
  let s ← get
  if s.core.ph.openId.isSome then shFault .badOperand
  else
    let id := s.core.ph.next
    pushMarkers (.phaseB id)
    modCore (fun c => { c with ph := { c.ph with next := id + 1, openId := some id } }))

/-- PHASE.C (R352): it closes the phase; its flag rises after the commit (R359). -/
def execPhaseC (f : SI) : Meaning := runM (do
  let s ← get
  match s.core.ph.openId with
  | none => shFault .badOperand
  | some id =>
    pushMarkers (.phaseC id)
    modCore (fun c => { c with ph := { c.ph with openId := none, closed := c.ph.closed ++ [(id, bits f.imm 4 0)] } }))

/-! ### The end of a launch on a core, and RTE (R350, R399, R400) -/

/-- The core reaches its completion leaf with a status (R350). -/
def reachLeaf (core : Nat) (ok : Bool) (s : State) : State :=
  let number := (coreOf s core).attrs.launch
  { s with host := { s.host with launches := s.host.launches.map (fun l =>
      if l.number == number then
        { l with leaves := l.leaves.map (fun x => if x.1 == core && x.2.isNone then (core, some (!ok)) else x) } else l) } }

/-- Every queue emptied and every phase abandoned (R400, mode 1). -/
def abortedCore (c : Core) : Core :=
  let c := match c.ph.exec with
    | some e => restorePhase e c
    | none => c
  let c := mapQueues (fun _ v => { pos := v.pos }) c
  { c with
    run := .haltedDone
    rep := none
    ph := { next := c.ph.next }
    mat := { c.mat with nest := none, arrival := none }
    tiles := { c.tiles with readers := [], drain := 0, granted := 0 }
    preempt := none
    sh := { c.sh with hmode := false, frec := [0, 0, 0, 0, 0, 0, 0, 0], frecHeld := false, more := false, pending := [],
                      fence := .none, savedFence := .none, savedTarget := none, buf := none, ready := false, target := none, rep := none } }

/-- A REL whose increment another island has still to perform is no longer waited for (R335). -/
def leaveWaits (core : Nat) (s : State) : State :=
  let s := dropWaits core s
  { s with strait := { s.strait with waiting := s.strait.waiting.map (fun r =>
      if r.core == core && r.engine == 1 && 2 ^ 64 ≤ r.ticket then { r with ticket := 0 } else r) } }

/-- The abort of RTE 1, of a halt bundle in handler mode and of the host (R399, R400, R414): the leaf with status ERROR. -/
def abortCore (core : Nat) (s : State) : State :=
  reachLeaf core false (leaveWaits core <| dropReads core { withCore s core (abortedCore (coreOf s core)) with
    holds := s.holds.filter (fun h => h.2.2 != core), takes := s.takes.filter (fun w => w.core != core) })

/-- A held queue goes on: its command retries from its head, or is removed without effect (R400), with the repeats of a partner
that remain; the tag waits granted to it are given back. -/
def releaseHold (drop : Bool) (c : Core) (q : Queue) : Core :=
  let v := c.queue q
  if !v.held then c
  else
    let c := (grantsOf c q).foldl ungrant c
    let c := c.setQueue q { v with held := false, heldAt := 0, entries :=
      if drop then v.entries.eraseIdx v.heldAt else match v.entries with
      | .cmd k :: r => .cmd { k.fresh with deferred := k.deferred } :: r
      | es => es }
    if drop && q == .vector && v.heldAt == 0 then { c with rep := none } else c

/-- The Shuttle back at EPC: where that is the point at which the handler was entered, a taken branch of its bundle and an
MFENCE that waits there go on (R26, R339); an MFENCE left behind only awaits that its markers go. -/
def Shuttle.returned (h : Shuttle) : Shuttle :=
  let same := h.epc == h.savedAt
  { h with
    hmode := false, frec := [0, 0, 0, 0, 0, 0, 0, 0], frecHeld := false, more := false,
    pc := h.epc &&& 0x000FFFFFFFFFFFE0, lane := bits h.epc 2 0, buf := none, ready := false
    target := if same then h.savedTarget else none
    savedTarget := none
    fence := if same then h.savedFence else .none
    savedFence := if same then .none else match h.savedFence with
      | .waiting m => .waiting m
      | _ => .none }

/-- RTE (R400): the return from the handler; it clears FREC and MORE. -/
def execRte (f : SI) : Meaning := runM (do
  let s ← get
  if !s.core.sh.hmode then shFault .badOperand
  else if f.imm == 1 then modify (abortCore s.cur)
  else modCore (fun c =>
    let c := allQueues.foldl (releaseHold (f.imm == 2)) c
    { c with sh := c.sh.returned }))

end Sys2Proof.Machine
end

