-- ==== Sys2Proof/Machine/Bundle.lean ====
section
/-! DEFINITION. Bundles at the Shuttle (spec 02_bundles_and_encodings R16 to R28): fetch and decode, the wait, timed and
halt bundles, the push of an engine lane, and what comes back to the Shuttle (spec 10_shuttle R196 to R199, R302). -/

namespace Sys2Proof.Machine

/-! ### Fetch and decode (R16, R24, R133) -/

/-- The fault prototype of the Shuttle's fetch. -/
def fetchFault : FaultInfo := { code := .misaligned, engine := 0 }

/-- A fault of the bundle at the fetch address, recorded at a lane of it; the Shuttle stays where it stood. -/
def bundleFault (f : FaultInfo) (lane : Nat) : M Unit := do
  let s ← get
  raise { f with producer := some (s.core.sh.pc, lane) }

/-- The line of the L1 instruction cache that holds a place, filled on a miss (R133); it holds 1,024 lines (Table 1.3), of which
the oldest goes (log entry 10). -/
def fetchLine (l : Loc) (pc : Word) : M Line := do
  let s ← get
  match s.core.l1i.find? (fun x => x.key == l.key) with
  | some x => pure x
  | none =>
    let r ← homeRead { fetchFault with addr := pc } l
    checkE3 fetchFault pc r
    let x : Line := { key := l.key, data := r.data, marks := r.marks }
    modCore (fun c => { c with l1i := (x :: c.l1i).take 1024 })
    pure x

/-- The Shuttle fetches the bundle at which it stands and decodes it whole (R24); a marked sector raises MEM_E2 at lane 0
of the bundle (R87), an address off 32 bytes MISALIGNED (Table 2.13). -/
def execBundleFetchDecode : Meaning := runM (do
  let s ← get
  let h := s.core.sh
  if h.pc.toNat % 32 != 0 then bundleFault { fetchFault with addr := h.pc } 0
  else
  let va ← checkVirtual fetchFault h.pc
  let l ← translate (coreReq s fetchFault) va .exec
  let x ← fetchLine l h.pc
  if bad s x.marks then bundleFault (memFault fetchFault .memE2 h.pc x.marks) 0
  else match decodeBundle h.lane h.rep (laneWords (sliceBytes x.data (va % 64) 32)) with
    | .ok b => modSh (fun h => { h with buf := some b })
    | .error (n, e) =>
      let code : FaultCode := match e with
        | .illegalLane => .illegalLane
        | .illegalOp => .illegalOp
        | .illegalGuard => .illegalGuard
      bundleFault { fetchFault with code := code } n)

/-! ### Wait, timed and halt bundles (R21 to R23) -/

/-- The condition of a wait word on bits 24:0 of its flag (Table 2.4). -/
def waitHolds (c : Core) (w : BitVec 32) : Bool :=
  let f := (c.flag (bits w 31 27)).extractLsb' 0 25
  let v := w.extractLsb' 0 25
  match bits w 26 25 with
  | 0 => !bit (f - v) 24
  | 1 => f == v
  | _ => f &&& v == v

/-- The bundle in the Shuttle's buffer, or an empty plain one. -/
def bufferOf (h : Shuttle) : Bundle := h.buf.getD ⟨0, 0, []⟩

/-- A kind-1 bundle dispatches lanes 2 to 7 once its condition holds (R21). -/
def execWaitBundle : Meaning := runM (do
  raiseLate
  let s ← get
  if waitHolds s.core (bufferOf s.core.sh).word1 then modSh (fun h => { h with ready := true }) else stall .condition)

/-- The time T of a timed bundle is reached (R22). -/
def timeReached (pick : Word) (t : BitVec 32) : Bool := !bit (pick.setWidth 32 - t) 31

/-- A Shuttle waits at a timed bundle of time T, and nothing but T holds it back (R22, R25, R198). -/
def timedWaits (t : BitVec 32) (c : Core) : Bool :=
  c.run == .running && c.preempt.isNone && c.sh.buf.any (fun b => b.kind == 2 && b.word1 == t) && c.sh.lane < 2 && !c.sh.ready
    && !c.sh.pending.any (fun p => p.ready && p.fault.isSome)

/-- A core's timed bundle dispatches. -/
def dispatchTimed (c : Core) : Core := { c with sh := { c.sh with ready := true, timedNow := false } }

/-- The other cores' timed bundles of time T dispatch in the same tick (R363). -/
def dispatchWith (t : BitVec 32) (s : State) : State :=
  { s with others := s.others.map (fun p => (p.1, if timedWaits t p.2 then dispatchTimed p.2 else p.2)) }

/-- A kind-2 bundle dispatches lane 2 once its time is reached (R22), with those of the same time on other cores, or at once when its
context was restored while it waited (R363). -/
def execTimedBundle : Meaning := runM (do
  raiseLate
  let s ← get
  if s.core.sh.timedNow || timeReached s.pick (bufferOf s.core.sh).word1 then
    if timeReached s.pick (bufferOf s.core.sh).word1 then modify (dispatchWith (bufferOf s.core.sh).word1) else pure ()
    modCore dispatchTimed
  else stall .condition)

/-- Every engine queue is empty, every command taken from them has completed, every x register is FULL (R23, R198), and
every store side log is empty (R120). -/
def drained (c : Core) : Bool :=
  allQueues.all (fun q => (c.queue q).isEmpty) && c.ph.exec.isNone && c.mat.nest.isNone && c.mat.arrival.isNone
    && c.sh.empty == 0 && c.sdl.isEmpty

/-- A halt bundle (R23, R350): BAD_OPERAND while a phase is open (R352); in handler mode the abort of RTE 1 (R399). -/
def execHaltBundle : Meaning := runM (do
  raiseLate
  let s ← get
  if s.core.sh.hmode then modify (abortCore s.cur)
  else if s.core.ph.openId.isSome then bundleFault { code := .badOperand, engine := 1 } 0
  else if drained s.core then
    modify (reachLeaf s.cur true)
    modCore (fun c => { c with run := .haltedDone, preempt := none })
  else stall .drain)

/-! ### Pushing an engine lane (R25, R27) -/

/-- The xs or xa field and the xb field of an engine lane that name x registers (R27). -/
def captured : Instr → Option (BitVec 6) × Option (BitVec 6)
  | .rep f | .vsets f => (if f.lit.isNone then some f.xs else none, none)
  | .mcfg f | .mdesc f | .munf f | .dcfg f | .dkey f | .dctr f => (if f.lit.isNone then some f.xs else none, none)
  | .fld f | .fldp f | .fst f | .fstp f | .ftt f | .fttp f | .fbb f | .fswp f | .fswi f | .ffill f | .fnear f | .fred f
  | .fpbinv f | .fwp f => (some f.xa, none)
  | .gkv f | .gapp f | .gemb f | .gref f | .gcow f | .gscore f | .gcompact f | .gtrunc f | .glen f | .gbminv f | .gfree f
  | .galloc f => (some f.xs, some f.xb)
  | _ => (none, none)

/-- One register field at the push: its value, or none for 62, which the engine pops at its head (R27). -/
def capture (r : Option (BitVec 6)) : M (Option Word) := do
  match r with
  | none => pure none
  | some r => if r == 62 then pure none else do
    let v ← readX false r
    pure (some v)

/-- Push an engine lane with its captured registers (R25, R27); a REP awaits its partner and the partner ends it
(R224). -/
def pushLane (q : Queue) (i : Instr) : M Unit := do
  let a ← capture (captured i).1
  let b ← capture (captured i).2
  awaitRoom q
  modCore (fun c =>
    let c := Core.push c q (.cmd { instr := i, opa := a, opb := b, phase := c.ph.openId })
    let rep := match i with
      | .rep f => some f.c2
      | _ => if q == .vector then none else c.sh.rep
    { c with sh := { c.sh with rep := rep } })

/-! ### What comes back to the Shuttle (R196, R198, R199, R302, R358) -/

/-- An event of one core: the core that the event names takes its turn. -/
def coreEvent (m : M Unit) : Meaning := fun s => runM m (switchTo s s.input.core)

/-- The vector-queue entry of an SRD or SWR of SRCTR or VSTAT takes its turn (R65, R200); inside a phase it is kept with
the phase's entries. A read fills its destination once. -/
def execSrctrVstatQueueEntry : Meaning := coreEvent (do
  let s ← get
  let v := s.core.vq
  if v.held || s.core.ph.exec.any (fun e => e.rewind && e.has .vector) then stall .held else do
  let act : Option (Core → Core) := match v.entries with
    | .srd r tk :: _ => some (fun c =>
        let x : Word := if r == 3 then c.vec.srctr else c.vec.vstat.setWidth 64
        { c with sh := { c.sh with pending := c.sh.pending.map (fun p =>
            if p.ticket == tk && !p.ready && p.redo.isNone then { p with value := x, ready := true } else p) } })
    | .swr r x :: _ => some (fun c =>
        if r == 3 then { c with vec := { c.vec with srctr := x } } else { c with vec := { c.vec with vstat := x.setWidth 6 } })
    | _ => none
  match act with
  | none => pure ()
  | some g => modCore (fun c =>
      let c := g c
      let kept := if c.ph.exec.any (fun e => e.has .vector) then c.vq.kept ++ c.vq.entries.take 1 else c.vq.kept
      { c with vq := { c.vq with entries := c.vq.entries.tail, kept := kept } }))

/-- A held Loom or NSM entry enters the reply queue when it has room (R199). -/
def execReplyQueueEntryArrival : Meaning := coreEvent (do
  let s ← get
  match s.core.sh.heldReplies with
  | [] => pure ()
  | r :: rest =>
    if s.core.sh.replies.length < 16 then modCore (fun c => enterReply r { c with sh := { c.sh with heldReplies := rest } })
    else stall .replyQueue)

/-- The oldest entry of the outbound buffer leaves it into the reply queue, unless it is held for its phase (R302,
R303). -/
def execReplyBufferRelease : Meaning := coreEvent (do
  let s ← get
  match s.core.outbuf with
  | [] => pure ()
  | (v, held) :: rest =>
    if held then stall .marker
    else if s.core.sh.replies.length < 16 then
      modCore (fun c => { c with outbuf := rest, sh := { c.sh with replies := c.sh.replies ++ [{ src := 0, value := v }] } })
    else stall .replyQueue)

end Sys2Proof.Machine
end

