-- ==== Sys2Proof/Machine/Phases.lean ====
section
/-! DEFINITION. Phases at the engines (spec 16_execution_scheduling R353 to R361): passing a PHASE.B marker, the commit;
the MFENCE join (R339); pre-emption (R364, R365); the handler-entry event (R399). -/

namespace Sys2Proof.Machine

/-! ### PHASE.B markers (R353) -/

/-- Every earlier phase of the core has committed or been abandoned. -/
def earlierGone (c : Core) (id : Nat) : Bool :=
  c.ph.closed.all (fun p => id ≤ p.1) && (match c.ph.exec with
    | some e => e.id == id
    | none => true)

/-- The executing phase as it begins. -/
def beginPhase (id : Nat) (c : Core) : PhaseExec :=
  { id := id, passed := 0, vec := c.vec, draw := c.draw, counts := [], deferred := [], heldFull := 0, consumePend := 0,
    wasFull := 0, readTiles := 0, wroteTiles := 0, inherited := 0, vwritten := 0, slotsRead := 0, joint := false, rewind := false,
    atC := none }

/-- One engine passes its marker: its state at the marker is what a cancel restores. -/
def passMarker (q : Queue) (id : Nat) (c : Core) : Core :=
  let e := c.ph.exec.getD (beginPhase id c)
  let e := { e with passed := setBit e.passed (queueBit q) true }
  let e := if q == .vector then { e with vec := c.vec } else if q == .matrix then { e with draw := c.draw } else e
  let c := if q == .matrix then commitBanks c else c
  let v := c.queue q
  let c := c.setQueue q { v with entries := v.entries.tail, kept := [], posB := v.pos }
  { c with ph := { c.ph with exec := some e } }

/-- The consumption that a phase holds from before it began (R358). -/
def heldConsumption (c : Core) (id : Nat) : Option Pending :=
  c.sh.pending.find? (fun p => p.phase == some id && !p.ready && p.redo.isSome && p.fault.isSome)

/-- A gather command stands past its head, unless at a wait (R182, R364). -/
def gatherPast (c : Core) : Bool := c.gq.headCmd.any Cmd.past

/-- No phase executes, or the pre-emption window has cancelled it (R364, R365). -/
def phaseless (c : Core) : Bool := c.ph.exec.all (·.parked)

/-- The core stands at a point where it can be pre-empted (R364): outside an executing phase, or its phase cancelled by the
window (R365). -/
def atBoundary (c : Core) : Bool := phaseless c && c.mat.nest.isNone && c.mat.arrival.isNone && !gatherPast c

/-- An engine passes a PHASE.B marker (R353); none does on a core with a pre-emption request while no phase executes: the phases
that have not begun are saved so (R364). A phase that begins with a held consumption is cancelled at once, or at the
retry limit abandoned (R358, R401). -/
def execPhaseBMarkerPass : Meaning := coreEvent (do
  let s ← get
  let q := s.input.queue
  match (s.core.queue q).reached with
  | some (.phaseB id) =>
    if !earlierGone s.core id || (q == .matrix && s.core.mat.nest.isSome) || (s.core.preempt.isSome && phaseless s.core)
        || s.core.ph.exec.any (·.rewind) then stall .marker
    else
      let begins := s.core.ph.exec.isNone
      modCore (passMarker q id)
      match (if begins then heldConsumption s.core id else none) with
      | none => pure ()
      | some p =>
        modSh (fun h => { h with pending := h.pending.map (fun x => if x == p then { x with fault := none } else x) })
        let s ← get
        if s.core.sh.eretry.toNat ≤ s.core.sh.ecount.toNat then
          throw (.fault { p.fault.getD fetchFault with action := .abandon } true)
        else modify (cancelPhase (.e2 (markTests s { log := ((p.fault.map (·.w4)).getD 0) })))
  | _ => pure ())

/-! ### Commit (R359) -/

/-- Every queue's PHASE.C marker is at its head and every command has completed (R359). -/
def atPhaseC (c : Core) (e : PhaseExec) : Bool :=
  allQueues.all (fun q => (c.queue q).reached == some (.phaseC e.id) && e.has q) && c.mat.nest.isNone
    && c.mat.arrival.isNone && !e.rewind && !e.parked

/-- Every Shuttle access of the phase has returned unmarked (R358, R359). -/
def accessesBack (c : Core) (e : PhaseExec) : Bool := c.sh.pending.all (fun p => p.phase != some e.id || p.ready)

/-- A core may commit its phase. -/
def readyToCommit (c : Core) : Bool := c.ph.exec.any (fun e => atPhaseC c e && accessesBack c e)

/-- Raise the flags of committed phases whose deferred commands have all completed (R359). -/
def settleFlags (c : Core) : Core :=
  let left := fun (id : Nat) => allQueues.any (fun q => ((c.queue q).ending.map Entry.cmd ++ (c.queue q).entries).any (fun e => match e with
    | .cmd k => k.deferred && k.phase == some id
    | _ => false))
  let due := c.ph.flagDue.filter (fun p => !left p.1)
  let c := due.foldl (fun c p => if p.2 == 0 then c else c.addFlag p.2 1) c
  { c with ph := { c.ph with flagDue := c.ph.flagDue.filter (fun p => left p.1) } }

/-- The tile transitions of a commit (R356): held-FULL tiles FULL, then consume-pending tiles EMPTY. -/
def commitTiles (e : PhaseExec) (t : Tiles) : Tiles :=
  (List.range 64).foldl (fun t i =>
    let t := if bit e.heldFull i then t.setTag i true else t
    if bit e.consumePend i then t.setTag i false else t) t

/-- The commit of the executing phase of one core (R359). -/
def commitCore (c : Core) : Core :=
  match c.ph.exec with
  | none => c
  | some e =>
    let c := commitBanks c
    let c := { c with
      mat := { c.mat with bretry := false, loss := if c.holdsJoin then 0 else c.mat.loss }
      tiles := commitTiles e c.tiles
      outbuf := c.outbuf.map (fun r => (r.1, false)) }
    let c := e.counts.foldl (fun c p => c.addFlag p.1 p.2) c
    let c := mapQueues (fun q v =>
      let mine := (e.deferred.filter (fun p => p.1 == q)).map (fun p => Entry.cmd { p.2 with deferred := true })
      { v with entries := mine ++ v.entries.tail, kept := [] }) c
    let flag := ((c.ph.closed.find? (fun p => p.1 == e.id)).map (·.2)).getD 0
    settleFlags { c with
      sh := { c.sh with ecount := 0 }
      ph := { c.ph with
        exec := none
        closed := c.ph.closed.filter (fun p => p.1 != e.id)
        flagDue := c.ph.flagDue ++ [(e.id, flag)] } }

/-! ### The MFENCE join (R339) -/

/-- The join slot sees its markers and lets the Shuttle go on. -/
def execMfenceJoin : Meaning := coreEvent (do
  let s ← get
  if fenceReady s.core then modCore fenceJoin else stall .join)

/-! ### Pre-emption (R364, R365) and handler entry (R399) -/

/-- The core is stopped with its state held, awaiting CTXSAVE (R414, R367). -/
def stopCore (c : Core) : Core := { c with run := if c.run == .haltedFault then .haltedFault else .stopped, preempt := none }

/-- A core with a launch, which a pre-emption request reaches: running, halted after its launch's end, or halted at a fault. -/
def Core.preemptible (c : Core) : Bool := c.run == .running || c.run == .haltedDone || c.run == .haltedFault

/-- A pre-emption request reaches a core with a launch, or all four of a joint quad (R280, R364). -/
def requestPreempt (core : Nat) (s : State) : State :=
  let members := if (coreOf s core).attrs.joint then quadMembers core else [core]
  members.foldl (fun s n =>
    let c := coreOf s n
    if c.preemptible && c.preempt.isNone then withCore s n { c with preempt := some s.pick.toNat } else s) s

/-- PWIN ticks have passed since the request (R365). -/
def windowPassed (s : State) : Bool := s.core.preempt.any (fun t => t + s.core.attrs.pwin ≤ s.pick.toNat)

/-- The event by which the Shuttle of a core that stopped at a fault goes to its handler, or stays halted (R399). -/
def execHandlerEntry : Meaning := coreEvent (do
  let s ← get
  if s.core.run == .haltedFault then modCore handlerEntry else pure ())

end Sys2Proof.Machine
end

