-- ==== Sys2Proof/Machine/FerryOps.lean ====
section
/-! DEFINITION. The Ferry's shared operations (spec 08_ferry R148 to R163; 15_consistency R338): parameter blocks, head
checks, the progress record, sectors into and out of tiles, tag actions, acquire and release, completion. -/

namespace Sys2Proof.Machine

/-- What a Ferry command runs under: its fields, its fault prototype, whether it runs inside the executing phase; addresses that it
goes on to, as far as it knows them (R109). -/
structure FerryCtx where
  f : FM
  fault : FaultInfo
  ph : Bool
  rest : List Nat := []
deriving DecidableEq, Repr

/-- The queue that a lane names (R40). -/
def FerryCtx.queue (x : FerryCtx) : Queue := if x.f.st then .ferryStore else .ferryLoad
/-- ch (R34). -/
def FerryCtx.ch (x : FerryCtx) : Nat := x.f.ch.toNat
/-- T, the command's tile field. -/
def FerryCtx.tile (x : FerryCtx) : Nat := x.f.tile.toNat

/-- The prototype of a Ferry fault (R162, Table 18.5). -/
def ferryFault (st : Bool) (opc : Nat) : FaultInfo :=
  { code := .badParam, engine := if st then 5 else 4, opc := opc,
    action := .hold (if st then .ferryStore else .ferryLoad) }

/-- The command at the head, as it now stands. -/
def ferryHead (x : FerryCtx) (i : Instr) : M Cmd := do
  let s ← get
  pure (headOr s x.queue i)

/-! ### The progress record (Table 8.3) -/

/-- The progress record of a command. -/
def progress (x : FerryCtx) (c : Cmd) : Nat :=
  c.bytes % 2 ^ 32 + (if x.f.st then 2 ^ 55 else 0) + x.fault.opc * 2 ^ 56 + x.ch * 2 ^ 64
    + (if c.block.isSome then 2 ^ 68 else 0) + (if c.acqd then 2 ^ 69 else 0) + (if c.tags then 2 ^ 70 else 0)
    + (if c.relp then 2 ^ 71 else 0) + c.sect % 2 ^ 16 * 2 ^ 80 + c.row % 2 ^ 32 * 2 ^ 96 + c.blk % 2 ^ 32 * 2 ^ 128

/-- A fault during the transfer carries the progress record in words 4 to 7; with a sector moved it is not precise
(R162, Tables 18.2 and 18.3). -/
def transferFault (x : FerryCtx) (c : Cmd) (f : FaultInfo) : FaultInfo :=
  let p := progress x c
  let w := fun (k : Nat) => BitVec.ofNat 64 (p / 2 ^ (64 * k))
  { f with precise := c.bytes == 0 || f.action == .abandon, w4 := w 0, w5 := w 1, w6 := w 2, w7 := w 3 }

/-- One part of the transfer: if it stops, the parts before it stay and it has no effect itself; a fault carries the
progress record; a cancel takes effect with what has been moved (R162, R160). -/
def transferPart {α : Type} (x : FerryCtx) (c : Cmd) (m : M α) : M α := fun s =>
  match m s with
  | .ok a t => .ok a t
  | .error (.wait r _) t => .error (.wait r true) { t with core := s.core }
  | .error (.fault f _) t => .error (.fault (transferFault x c f) true) { t with core := s.core }
  | .error (.cancel why) t => .error (.wait .hold true) (cancelPhase why { t with core := s.core })

/-- A wait that keeps what the command has done so far. -/
def keepWaits {α : Type} (m : M α) : M α := fun s =>
  match m s with
  | .error (.wait r _) t => .error (.wait r true) t
  | o => o

/-! ### Addresses (R103, R126, R154, R306, R310) -/

/-- A virtual or archipelago address of a sector; an archipelago one must be physical (Table 14.3). -/
def checkMem (f : FaultInfo) (a : Word) : M Unit := do
  if bits a 5 0 != 0 then raise { f with code := .misaligned, addr := a }
  else if bit a 63 then
    if aasFormOk a && aasNear a then raise { f with code := .addrRange, addr := a } else checkAas f a
  else
    let _ ← checkVirtual f a

/-- A near-map or archipelago near-map address of n bytes of one core's scratchpad (Table 8.4, R165). -/
def checkScratch (f : FaultInfo) (a : Word) (n : Nat) : M Unit := do
  if bits a 5 0 != 0 then raise { f with code := .misaligned, addr := a }
  else if 0x40000 < bits a 19 0 + n then raise { f with code := .addrRange, addr := a }
  else if bit a 63 then
    if aasFormOk a && !aasNear a then raise { f with code := .addrRange, addr := a } else checkAas f a
  else
    let _ ← checkNear f a

/-- A near-map address of n bytes within one region that is not the control page (Table 8.4). -/
def checkRegion (f : FaultInfo) (a : Word) (n : Nat) : M Unit := do
  let lo := bits a 19 0
  let within := fun (p q : Nat) => p ≤ lo && lo + n ≤ q
  if bits a 5 0 != 0 then raise { f with code := .misaligned, addr := a }
  else if !(within 0 0x40000 || within 0x40000 0x80000 || within 0x80000 0x90000) then raise { f with code := .addrRange, addr := a }
  else
    let _ ← checkNear f a

/-! ### FBB blocks (R167) -/

/-- An FBB parameter block (Table 8.6). -/
structure KvBlock where
  stab : Word
  dtab : Word
  spool : Word
  dpool : Word
  slot : Nat
  nb : Nat
  dcnt : Word
  tokens : Nat
  reserved : Bool
deriving DecidableEq, Repr

/-- The fields of an FBB block. -/
def KvBlock.of (b : BitVec 512) : KvBlock :=
  { stab := b.extractLsb' 0 64, dtab := b.extractLsb' 64 64, spool := b.extractLsb' 128 64, dpool := b.extractLsb' 192 64,
    slot := bits b 287 256, nb := bits b 319 288, dcnt := b.extractLsb' 320 64, tokens := bits b 415 384,
    reserved := bits b 511 416 != 0 }

/-- The limits of Table 8.6; a block outside them raises BAD_PARAM (log entry 56). -/
def KvBlock.ok (b : KvBlock) : Bool :=
  !b.reserved && bits b.stab 1 0 == 0 && bits b.dtab 1 0 == 0 && bits b.spool 5 0 == 0 && bits b.dpool 5 0 == 0
    && 64 ≤ b.slot && b.slot ≤ 1048576 && b.slot % 64 == 0 && 1 ≤ b.nb && b.nb ≤ 65536 && bits b.dcnt 1 0 == 0

/-! ### Sectors (R154 to R158) -/

/-- A sector of a tile, by its offset in the scratchpad, with its marks. -/
def tileSector (c : Core) (off : Nat) : BitVec 512 × Marks := (BitVec.ofNat 512 (leNat (c.win.readN off 64)), c.tiles.mark (off / 64))

/-- Write a sector into a destination tile: an arrival with tag action 00 (R155, R136). -/
def putTile (x : FerryCtx) (off : Nat) (v : BitVec 512) (mk : Marks) : M Unit := modCore fun c =>
  if x.f.tag == 0 then c.arrive off (leBytes 64 v.toNat) mk x.ph (some x.ch)
  else markWritten x.ph (off / 4096) (c.writeScratch off (leBytes 64 v.toNat) mk)

/-- A sector read for a copy (R156): from memory at its home point, or from another island. -/
def fetchSector (x : FerryCtx) (a : Word) : M SecRead := do
  checkMem x.fault a
  if bit a 63 then
    let r ← remoteSector x.fault a
    checkE3 x.fault a r
    pure r
  else engSector x.fault a.toNat x.rest

/-- A reduction by an engine command at its home point, which answers MEM_E3 where the read finds E3 (R85, R166). -/
def homeReduce (f : FaultInfo) (l : Loc) (op : Nat) (mask : BitVec 64) (v : BitVec 512) (mk : Marks) : M Unit := do
  awaitSector f true l
  let s ← get
  let (e3, t) := reduceAt l op mask v mk s
  set t
  match e3 with
  | none => pure ()
  | some m => raise (memFault f .memE3 f.addr m)

/-- A sector written or, with `op` 1 + OP, reduced into memory (R157, R158, R166). The answer says whether it was logged. -/
def storeSector (x : FerryCtx) (c : Cmd) (op : Nat) (a : Word) (v : BitVec 512) (mk : Marks) : M Bool := do
  checkMem x.fault a
  let ones := BitVec.allOnes 64
  if bit a 63 then
    if op == 0 then remoteWrite x.fault a .write 64 ones v mk 0 (some x.ch)
    else remoteWrite x.fault a .atomic 64 ones v mk (op - 1) (some x.ch)
    pure false
  else
    let s ← get
    let e : SdlEntry := { engine := 5, asn := s.core.attrs.asn.toNat, va := a.toNat, data := v, mask := ones, marks := mk, op := op,
                          ch := some x.ch, count := 64, pos := streamPos s.core 5 }
    let logged ← engWrite x.fault c.logged a.toNat (if op == 0 then .write else .atomic) e (fun l =>
      if op == 0 then homeWrite { x.fault with addr := a } l ones v mk
      else homeReduce { x.fault with addr := a } l (op - 1) ones v mk) (nextPage a.toNat x.rest)
    if logged then pure () else countPointer (some x.ch) 64
    pure logged

/-- A sector written into the near map of this island or the scratchpad of another (R136, R158, R311). -/
def nearSector (x : FerryCtx) (a : Word) (v : BitVec 512) (mk : Marks) : M Unit := do
  if bit a 63 then remoteWrite x.fault a .tileWrite 64 (BitVec.allOnes 64) v mk x.ch
  else modify (nearWriteAt (a.toNat / 2 ^ 20) (a.toNat % 2 ^ 20) (leBytes 64 v.toNat) mk (some x.ch))

/-! ### Tag actions, release and completion (R155, R159, R338) -/

/-- The tag waits of a command's tiles, each in ascending order, after the hazard check of a destination (R155, R357);
the grants are kept while it waits. -/
def ferryTags (x : FerryCtx) (dst : Bool) (ts : List Nat) (c : Cmd) : M Cmd := do
  if c.tags then pure c
  else
    if dst then ts.forM (hazard x.fault x.ph) else pure ()
    keepWaits (tagStartAll dst x.fault x.ph x.f.tag.toNat 0 ts)
    let s ← get
    let c := { headOr s x.queue c.instr with tags := true }
    saveHead x.queue c
    pure c

/-- Every write of the command at stream position p and of the earlier ones of its queue has been performed or acknowledged, and with
a release the store side log is empty (R148, R159, R338). -/
def writesPerformed (x : FerryCtx) (p : Nat) : M Unit := do
  let s ← get
  if x.f.rel && !(sdlOf s.core 5).isEmpty then throw (.wait .drain true)
  else if x.f.st && unackedUpTo s s.cur p then throw (.wait .drain true)
  else pure ()

/-- The stream position of the command at the head. -/
def headPosition (x : FerryCtx) : M Nat := do
  let s ← get
  pure (s.core.queue x.queue).headPos

/-- A release keeps back the command's final sector (R338). -/
def beforeFinal (x : FerryCtx) (final : Bool) : M Unit := do
  let p ← headPosition x
  if final && x.f.rel then writesPerformed x p else pure ()

/-- An acquire waits until every earlier command of the queue has completed (R338). -/
def awaitEarlier (x : FerryCtx) : M Unit := do
  let s ← get
  if x.f.acq && !(s.core.queue x.queue).ending.isEmpty then throw (.wait .drain true) else pure ()

/-! ### Completion (R148, R155, R164, R167) -/

/-- The FBB block whose TOKENS a command still writes once its blocks have been moved. -/
def tokensDue (c : Cmd) : Option KvBlock :=
  match c.instr, c.block with
  | .fbb _, some b => if (KvBlock.of b).dcnt == 0 || c.relp then none else some (KvBlock.of b)
  | _, _ => none

/-- The write of TOKENS after every block write is performed at the destination (R167); a refused write is never
performed. -/
def writeTokens (x : FerryCtx) (p : Nat) (c : Cmd) (b : KvBlock) : M Unit := do
  let s ← get
  if s.strait.waiting.any (fun r => r.core == s.cur && r.engine == 5 && r.pos == p) then throw (.wait .drain true)
  else
    writesPerformed x p
    if c.refused then pure ()
    else transferPart x c (remoteWrite { x.fault with pos := some p } b.dcnt .write 4 (maskOf (b.dcnt.toNat % 64) 4)
      (placeBytes (b.dcnt.toNat % 64) (leBytes 4 b.tokens)) {} 0 (some x.ch))
    modCore (fun k => k.setQueue x.queue ((k.queue x.queue).modPos p (fun c => { c with relp := true })))

/-- What a command at stream position p that has issued its last read still waits for: TOKENS, its writes, its release. -/
def ferryRest (x : FerryCtx) (p : Nat) (c : Cmd) : M Unit := do
  match tokensDue c with
  | some b => writeTokens x p c b
  | none => pure ()
  writesPerformed x p

/-- The completion: its destinations' tag actions, its count (R155, R164). -/
def ferryDone (x : FerryCtx) (dst : Bool) (ts : List Nat) : M Unit := do
  if dst then ts.forM (tagEndDst x.ph x.f.tag.toNat) else pure ()
  countCnt x.f.cnt (if x.f.st then 3 else 2) x.ph

/-- The command at the head, its last read issued, leaves the head to the next command (R148). -/
def EngQueue.handOver (v : EngQueue) (c : Cmd) : EngQueue :=
  { v with entries := (match v.entries with
      | .cmd _ :: r => r
      | es => es), ending := v.ending ++ [{ c with grants := [] }] }

/-- The end of a command: its sources' tag actions after the last read, those done before with it excepted; then it completes, or
leaves the head while its writes or its release are still on their way (R148, R155, R164). -/
def ferryEnd (x : FerryCtx) (dst : Bool) (ts : List Nat) (c : Cmd) : M Ended := do
  if c.relp then pure ()
  else
    if dst then pure () else ts.forM (tagEndSrc x.ph x.f.tag.toNat)
    saveHead x.queue { c with relp := (tokensDue c).isNone }
  let s ← get
  let c := headOr s x.queue c.instr
  let p := (s.core.queue x.queue).headPos
  match ferryRest x p c s with
  | .ok _ t =>
    set t
    ferryDone x dst ts
    pure .done
  | .error (.wait r k) t =>
    if (s.core.queue x.queue).ending.isEmpty && (s.core.queue x.queue).headCmd.isNone then throw (.wait r k)
    else
      set t
      modCore (fun k => k.setQueue x.queue ((k.queue x.queue).handOver c))
      pure .again
  | .error e t =>
    set t
    throw e

/-- The next sector of a row with `left` sectors to go: `move s` moves sector s and says whether a write was logged; `last` marks the
command's last row; `ends` is the source tile of which this is the last sector read, emptied then (R155). A stop point stands after
each sector, where the command's turn ends (R161). -/
def moveSectors (x : FerryCtx) (last : Bool) (ends : Cmd → Option Nat) (move : Nat → Cmd → M Bool) : Nat → Cmd → M Cmd
  | 0, c => pure c
  | n + 1, c => do
    beforeFinal x (last && n == 0)
    let logged ← transferPart x c (move c.sect c)
    let c' := { c with sect := c.sect + 1, bytes := c.bytes + 64, logged := c.logged || logged }
    match (if last && n == 0 then none else ends c) with
    | none =>
      saveHead x.queue c'
      if n == 0 then pure c' else throw (.wait .sector true)
    | some i =>
      let c' := { c' with grants := c'.grants.erase (i, x.f.tag.toNat) }
      tagEndSrc x.ph x.f.tag.toNat i
      saveHead x.queue c'
      if n == 0 then pure c' else throw (.wait .sector true)

/-! ### Commands (R164) -/

/-- A Ferry command at the head of its queue: a store-queue command of the executing phase is set aside to the commit
(R160). -/
def ferryRun (opc : Nat) (i : Instr) (f : FM) (body : FerryCtx → Cmd → M Ended) : Meaning :=
  let q : Queue := if f.st then .ferryStore else .ferryLoad
  runE q (do
    let s ← get
    let c := headOr s q i
    let ph := inPhase s c
    if ph && f.st then
      modCore (modExec (fun e => { e with deferred := e.deferred ++ [(q, c)] }))
      pure .done
    else body { f := f, fault := ferryFault f.st opc, ph := ph } c)

/-- A register-form command (R164): its value v and length; the limits; the acquire; the tag waits; its sectors. -/
def registerForm (opc : Nat) (i : Instr) (f : FM) (dst : Bool) (check : FerryCtx → Word → Nat → M Unit)
    (move : FerryCtx → Word → Nat → Cmd → M Bool) : Meaning :=
  ferryRun opc i f (fun x _ => do
    let v ← engOperand x.queue false f.xa
    let c ← ferryHead x i
    let s ← get
    let len := c.len.getD (s.core.tiles.len x.tile)
    if c.len.isNone then check x v len else pure ()
    let c := { c with len := some len }
    saveHead x.queue c
    awaitEarlier x
    let c := { c with acqd := f.acq }
    saveHead x.queue c
    let c ← ferryTags x dst [x.tile] c
    let c ← moveSectors x true (fun _ => none)
      (fun k c => move { x with rest := pageAhead (v.toNat + 64 * k) (v.toNat + len) } v k c) (len / 64 - c.sect) c
    ferryEnd x dst [x.tile] c)

/-! ### Parameter blocks (R151 to R153) -/

/-- A parameter block (Table 8.1). -/
structure PBlock where
  maddr : Word
  mstride : Word
  rowb : Nat
  rows : Nat
  toff : Nat
  nt : Nat
  op : Nat
  xt : Nat
  xoff : Nat
  reserved : Bool
deriving DecidableEq, Repr

/-- The fields of a block. -/
def PBlock.of (b : BitVec 512) : PBlock :=
  { maddr := b.extractLsb' 0 64, mstride := b.extractLsb' 64 64, rowb := bits b 143 128, rows := bits b 191 160,
    toff := bits b 207 192, nt := bits b 215 208, op := bits b 223 216, xt := bits b 231 224, xoff := bits b 255 240,
    reserved := bits b 159 144 != 0 || bits b 239 232 != 0 || bits b 511 256 != 0 }

/-- The limits of R153 for a command with tile field t. -/
def PBlock.ok (b : PBlock) (t : Nat) (indexed reduces : Bool) : Bool :=
  !b.reserved && bits b.maddr 5 0 == 0 && bits b.mstride 5 0 == 0
    && 64 ≤ b.rowb && b.rowb ≤ 4096 && b.rowb % 64 == 0 && 1 ≤ b.rows && b.rows ≤ 4096
    && b.toff ≤ 4032 && b.toff % 64 == 0 && 1 ≤ b.nt && b.nt ≤ 64 && t + b.nt ≤ 64
    && (if reduces then b.op ≤ 3 else b.op == 0)
    && b.rows * b.rowb ≤ b.nt * 4096 - b.toff
    && (if indexed then b.xt ≤ 63 && b.xoff % 4 == 0 && b.xoff + 4 * b.rows ≤ 4096 && !(t ≤ b.xt && b.xt < t + b.nt)
        else b.xt == 0 && b.xoff == 0)

/-- The parameter block of a command: its alignment and address, then the cache, else memory with its consumption
(R151, R152). -/
def readBlock (x : FerryCtx) (a : Word) : M (BitVec 512) := do
  if bits a 5 0 != 0 then raise { x.fault with code := .misaligned, addr := a }
  else
    let va ← checkVirtual x.fault a
    let s ← get
    let asn := s.core.attrs.asn.toNat
    match s.core.pbc.find? (fun e => e.asn == asn && e.va == va) with
    | some e => pure e.data
    | none =>
      let r ← engSector x.fault va
      consume x.fault x.ph a r.marks
      modCore (fun c => { c with pbc := ({ asn := asn, va := va, data := r.data } :: c.pbc).take 16 })
      pure r.data

/-- The head of a parameter-block command (R148, R152): the block is read once and kept; the checks; the acquire. -/
def blockHead (x : FerryCtx) (i : Instr) (check : BitVec 512 → M Unit) : M Cmd := do
  let a ← engOperand x.queue false x.f.xa
  let c ← ferryHead x i
  let c ← match c.block with
    | some _ => pure c
    | none => do
      let b ← readBlock x a
      check b
      let c := { c with block := some b }
      saveHead x.queue c
      pure c
  awaitEarlier x
  let c := { c with acqd := x.f.acq }
  saveHead x.queue c
  pure c

/-- The source tile of which sector s of row r is the last that the span has. -/
def PBlock.ends (b : PBlock) (tile r s : Nat) : Option Nat :=
  let e := 4096 * tile + b.toff + 64 * (r * (b.rowb / 64) + s) + 64
  if e % 4096 == 0 then some (e / 4096 - 1) else none

/-- MADDR + r × MSTRIDE, mod 2^64 (Table 8.5). -/
def rowAddress (b : PBlock) (r : Nat) : Word := b.maddr + BitVec.ofNat 64 r * b.mstride

/-- The addresses that a command goes on to from sector k of its rows, which stands at m: the rest of the row, and, where the block
gives their addresses, the later rows (R109). -/
def PBlock.rest (b : PBlock) (indexed : Bool) (k : Nat) (m : Word) : List Nat :=
  let per := b.rowb / 64
  let later := if indexed then [] else (List.range (b.rows - 1 - k / per)).flatMap (fun i =>
    let a := (rowAddress b (k / per + 1 + i)).toNat
    a :: pageAhead a (a + b.rowb))
  pageAhead m.toNat (m.toNat + 64 * (per - k % per)) ++ later

/-- The rows of a parameter-block command that remain: `addr` gives the memory-side address when a row starts, kept from then on
(R165). -/
def moveRows (x : FerryCtx) (per : Nat) (ends : Cmd → Option Nat) (addr : Nat → M Word) (move : Nat → Word → Cmd → M Bool) : Nat → Cmd → M Cmd
  | 0, c => pure c
  | n + 1, c => do
    let m ← match c.len with
      | some m => pure (BitVec.ofNat 64 m)
      | none => if c.row == 0 then addr 0 else transferPart x c (addr c.row)
    let c := { c with len := some m.toNat }
    saveHead x.queue c
    let c ← moveSectors x (n == 0) ends (fun k c => move (c.row * per + k) (m + BitVec.ofNat 64 (64 * k)) c) (per - c.sect) c
    let c := { c with row := c.row + 1, sect := 0, len := none }
    saveHead x.queue c
    if n == 0 then pure c else throw (.wait .sector true)

/-- A parameter-block command (R165): `first` are the head checks on the address of row 0; `addr` gives a row's address;
`move` moves one sector between a scratchpad offset and a memory-side address. -/
def blockForm (opc : Nat) (i : Instr) (f : FM) (dst indexed reduces : Bool) (first : FerryCtx → PBlock → M Unit)
    (addr : FerryCtx → PBlock → Nat → M Word) (move : FerryCtx → PBlock → Nat → Word → Cmd → M Bool) : Meaning :=
  ferryRun opc i f (fun x _ => do
    let c ← blockHead x i (fun v => do
      let b := PBlock.of v
      if b.ok x.tile indexed reduces then first x b else raise x.fault)
    let b := PBlock.of (c.block.getD 0)
    let ts := (List.range b.nt).map (x.tile + ·)
    let c ← ferryTags x dst ts c
    let per := b.rowb / 64
    let c ← moveRows x per (fun c => if dst then none else b.ends x.tile c.row c.sect) (addr x b)
      (fun k m c => move { x with rest := b.rest indexed k m } b (4096 * x.tile + b.toff + 64 * k) m c) (b.rows - c.row) c
    ferryEnd x dst (ts.filter (fun t => dst || 4096 * x.tile + b.toff + 64 * (b.rows * per - 1) < 4096 * (t + 1))) c)

/-- MADDR + IDX(r) × MSTRIDE: the index is read from tile XT as it stands when the row starts; it is consumption (R156,
R165). -/
def indexedAddress (x : FerryCtx) (b : PBlock) (r : Nat) : M Word := do
  let off := 4096 * b.xt + b.xoff + 4 * r
  let s ← get
  consume x.fault x.ph 0 (s.core.tiles.mark (off / 64))
  noteRead x.ph b.xt
  pure (b.maddr + BitVec.ofNat 64 (leNat (s.core.win.readN off 4)) * b.mstride)

end Sys2Proof.Machine
end

