-- ==== Sys2Proof/Machine/ShuttleFp.lean ====
section
/-! DEFINITION. The Shuttle's floating-point instructions (spec 10_shuttle R210 to R214). -/

namespace Sys2Proof.Machine

/-- FADD (R210). -/
def execFadd (f : SA) : Meaning := runM (fpResult f (fun m a b => fp32.add m false a b))
/-- FSUB (R210). -/
def execFsub (f : SA) : Meaning := runM (fpResult f (fun m a b => fp32.sub m false a b))
/-- FMUL (R210). -/
def execFmul (f : SA) : Meaning := runM (fpResult f (fun m a b => fp32.mul m false a b))
/-- FDIV (R210). -/
def execFdiv (f : SA) : Meaning := runM (fpLater f (fun m a b => fp32.div m false a b))
/-- FSQRT (R210). -/
def execFsqrt (f : SA) : Meaning := runM (do
  awaitDest f.d
  let a ← readX f.t f.a
  let s ← get
  let r := fp32.sqrt s.core.sh.frm.toNat (fp32Of a)
  later { d := f.d, value := BitVec.ofNat 64 r.1 }
  setFstat r.2)
/-- FMA: A × B + D, the old xd read first as the field of highest position (R199, R211). -/
def execFma (f : SA) : Meaning := runM (do
  let d ← readX f.t f.d
  let (a, b) ← SA.ab f
  let s ← get
  let r := fp32.fma s.core.sh.frm.toNat false (fp32Of a) (fp32Of b) (fp32Of d)
  writeX f.d (BitVec.ofNat 64 r.1)
  setFstat r.2)

/-- A minimum or maximum of two x registers (R210, R62). -/
def fpMinMax (f : SA) (isMax : Bool) : M Unit := do
  awaitDest f.d
  let (a, b) ← SA.ab f
  let r := fp32.minmax isMax (a.toNat % 2 ^ 32) (b.toNat % 2 ^ 32) (fp32Of a) (fp32Of b)
  writeX f.d (BitVec.ofNat 64 r.1)
  setFstat r.2

/-- FMIN (R210). -/
def execFmin (f : SA) : Meaning := runM (fpMinMax f false)
/-- FMAX (R210). -/
def execFmax (f : SA) : Meaning := runM (fpMinMax f true)
/-- FCEQ: INV only for a signalling NaN (R212). -/
def execFceq (f : SA) : Meaning := runM (fpCompare f (fun a b => (numEq a b, { inv := a.isSnan || b.isSnan })))
/-- FCLT: INV for any NaN (R212). -/
def execFclt (f : SA) : Meaning := runM (fpCompare f (fun a b => (!a.isNan && !b.isNan && numLt a b, { inv := a.isNan || b.isNan })))
/-- FCVTI: to INT64, or with w = 1 to INT32 sign-extended (R213). -/
def execFcvti (f : SA) : Meaning := runM (do
  awaitDest f.d
  let a ← readX f.t f.a
  let s ← get
  let n := if f.w then 31 else 63
  let r := convFI s.core.sh.frm.toNat (-(2 ^ n)) (2 ^ n - 1) (fp32Of a)
  writeX f.d (BitVec.ofInt 64 r.1)
  setFstat r.2)
/-- FCVTF: from INT64, or with w = 1 from INT32 (R213). -/
def execFcvtf (f : SA) : Meaning := runM (do
  awaitDest f.d
  let a ← readX f.t f.a
  let s ← get
  let r := convIF fp32 s.core.sh.frm.toNat false (if f.w then (a.setWidth 32).toInt else a.toInt)
  writeX f.d (BitVec.ofNat 64 r.1)
  setFstat r.2)
/-- FKEY: the order-preserving key of an FP32 pattern (R214). -/
def fkey (v : BitVec 32) : BitVec 32 := if bit v 31 then ~~~v else v ^^^ 0x80000000#32
/-- FKEY (R214). -/
def execFkey (f : SA) : Meaning := runM (do
  awaitDest f.d
  let a ← readX f.t f.a
  writeX f.d ((fkey (a.setWidth 32)).setWidth 64))

end Sys2Proof.Machine
end

