-- ==== Sys2Proof/Machine/VecOps.lean ====
section
/-! DEFINITION. The vector engine's shared operations (spec 11_vector R219 to R236, R241, R242): shape, masks, the rotating
window, the repeat prefix, reads and writes of vector registers with the hazard of R232, and the frame of the
element-wise instructions. -/

namespace Sys2Proof.Machine

/-! ### Registers (R220 to R223, R232) -/

/-- The physical register of an architectural name (R223). -/
def physReg (vbase r : Nat) : Nat := if r < 16 then r else 16 + (r - 16 + vbase) % 16
/-- The window offset of a physical register (Table 7.1). -/
def vregOff (p : Nat) : Nat := 0x80000 + 2048 * p

/-- What one repeat of a vector command runs under: its fault prototype with OPC and repeat index, whether it runs inside
the executing phase, the fields that step, and the repeat index. -/
structure VCtx where
  f : FaultInfo
  ph : Bool
  st : BitVec 6 := 0
  j : Nat := 0
deriving DecidableEq, Repr

/-- The prototype of a vector fault (R233). -/
def vFault (opc j : Nat) : FaultInfo := { code := .badOperand, engine := 2, opc := opc, rep := j, action := .hold .vector }

/-- The element size of a type (R220, R35). -/
def tySize (ty : BitVec 3) : Nat := if ty == 0 || ty == 5 then 4 else if ty == 1 || ty == 2 || ty == 6 then 2 else 1
/-- The float format of a type; none for an integer type (R35). -/
def tyFmt (ty : BitVec 3) : Option Fmt :=
  match ty.toNat with
  | 0 => some fp32
  | 1 => some bf16
  | 2 => some fp16
  | 3 => some e4m3
  | 4 => some e5m2
  | _ => none

/-- Element positions of size z (R220). -/
def VecState.count (v : VecState) (z : Nat) : Nat := v.rows * v.rowb / z
/-- Bit i of mask register mk; m0 reads all ones (R221). -/
def VecState.sel (v : VecState) (k i : Nat) : Bool := k == 0 || bit (mget 0 v.m k) i
/-- The 2,048 bits of a mask register. -/
def VecState.mask (v : VecState) (k : Nat) : BitVec 2048 := if k == 0 then BitVec.allOnes 2048 else mget 0 v.m k

/-- A read of a physical register marks it inherited when no command of the phase has written it (R232). -/
def noteVRead (ph : Bool) (p : Nat) : M Unit := modCore fun c =>
  if ph then modExec (fun e => if bit e.vwritten p then e else { e with inherited := setBit e.inherited p true }) c else c

/-- A write of an inherited register raises PHASE_HAZARD (R232). -/
def noteVWrite (x : VCtx) (p : Nat) : M Unit := do
  let s ← get
  if x.ph && (s.core.ph.exec.any fun e => bit e.inherited p) then raise { x.f with code := .phaseHazard }
  else modCore fun c =>
    if x.ph then modExec (fun e => { e with vwritten := setBit e.vwritten p true }) c else c

/-- Bytes of a register by architectural name, from an offset in it. -/
def regBytes (c : Core) (r off n : Nat) : List Byte := c.win.readN (vregOff (physReg c.vec.vbase r) + off) n
/-- n elements of size z of a register. -/
def regElems (c : Core) (r z n : Nat) : List Nat := (List.range n).map (fun i => leNat (regBytes c r (i * z) z))

/-- Read bytes of a source register. -/
def readVBytes (x : VCtx) (r n : Nat) : M (List Byte) := do
  let s ← get
  noteVRead x.ph (physReg s.core.vec.vbase r)
  pure (regBytes s.core r 0 n)
/-- Read elements of a source register. -/
def readV (x : VCtx) (r z n : Nat) : M (List Nat) := do
  let s ← get
  noteVRead x.ph (physReg s.core.vec.vbase r)
  pure (regElems s.core r z n)

/-- Write bytes into a register from an offset; the other bytes keep their values (R220). -/
def writeVBytes (x : VCtx) (r off : Nat) (bs : List Byte) : M Unit := do
  let s ← get
  let p := physReg s.core.vec.vbase r
  noteVWrite x p
  modCore (fun c => { c with win := c.win.write (vregOff p + off) bs })

/-- Write positions of size z of one register; `none` keeps an element. -/
def writeV (x : VCtx) (r z : Nat) (vs : List (Option Nat)) : M Unit := do
  let s ← get
  let old := regElems s.core r z vs.length
  writeVBytes x r 0 ((vs.zip old).flatMap (fun p => leBytes z (p.1.getD p.2)))

/-- Write positions of size z of the run of registers from r (R246): a register beyond v31 raises BAD_OPERAND. -/
def writeRun (x : VCtx) (r z : Nat) (vs : List (Option Nat)) : M Unit := do
  let k := (vs.length * z + 2047) / 2048
  if 32 < r + k then raise x.f
  else (List.range k).forM (fun i => writeV x (r + i) z ((vs.drop (i * (2048 / z))).take (2048 / z)))

/-! ### Repeats (R224 to R227) -/

/-- A stepped field (R225). -/
def stepField {n : Nat} (x : VCtx) (k md : Nat) (v : BitVec n) : BitVec n :=
  if bit x.st k then BitVec.ofNat n ((v.toNat + x.j) % md) else v

/-- The fields of a VA partner at a repeat; the moduli are those of the files the fields name (R225). -/
def stepVA (x : VCtx) (f : VA) (dm am bm : Nat) : VA :=
  { f with vd := stepField x 0 dm f.vd, va := stepField x 1 am f.va, vb := stepField x 2 bm f.vb }
/-- The fields of a VT partner at a repeat (R225). -/
def stepVT (x : VCtx) (f : VT) : VT :=
  { f with vd := stepField x 0 32 f.vd, va := stepField x 1 32 f.va, tile := stepField x 2 64 f.tile }

/-- One repeat of a vector command (R226): with no repeat pending the command runs once. -/
def vectorRun (opc : Nat) (i : Instr) (body : VCtx → M Unit) : Meaning := runE .vector (do
  let s ← get
  let ph := inPhase s (headOr s .vector i)
  match s.core.rep with
  | none => do
    body { f := vFault opc 0, ph := ph }
    pure .done
  | some r =>
    if r.n ≤ r.j then do
      modCore (fun c => { c with rep := none })
      pure .done
    else do
      body { f := vFault opc r.j, ph := ph, st := r.step, j := r.j }
      if r.n ≤ r.j + 1 then do
        modCore (fun c => { c with rep := none })
        pure .done
      else do
        modCore (fun c => { c with rep := some { r with j := r.j + 1 } })
        let s ← get
        saveHead .vector { headOr s .vector i with grants := [], waits := none, tags := false }
        pure .again)

/-! ### Elements -/

/-- A result with its flags. -/
abbrev Res := Nat × FFlags

/-- A pattern of w bits read as two's complement (R55). -/
def sInt (w v : Nat) : Int := if 2 ^ (w - 1) ≤ v % 2 ^ w then (v % 2 ^ w : Nat) - (2 ^ w : Nat) else (v % 2 ^ w : Nat)
/-- The low w bits of an integer. -/
def uInt (w : Nat) (i : Int) : Nat := (i % ((2 ^ w : Nat) : Int)).toNat
/-- An exact integer result in w bits: it wraps, or with the saturate bit clamps and sets SAT (R55). -/
def fitInt (w : Nat) (sat : Bool) (i : Int) : Res :=
  let lo : Int := -((2 ^ (w - 1) : Nat) : Int)
  let hi : Int := ((2 ^ (w - 1) : Nat) : Int) - 1
  if sat then (uInt w (clampInt lo hi i), { sat := clampInt lo hi i != i }) else (uInt w i, {})

/-- All flags of a list of results. -/
def orFlags (rs : List FFlags) : FFlags := rs.foldl FFlags.or {}

/-- The frame of R236: every source first, then the selected positions below n; flags from these alone. `readB` gives the
second operand's elements; `useD` says that the old destination is an operand. -/
def vElems (x : VCtx) (f : VA) (readB : Nat → Nat → M (List Nat)) (useD : Bool) (op : Nat → Nat → Nat → Res) : M Unit := do
  let s ← get
  let z := tySize f.ty
  let n := s.core.vec.count z
  let a ← readV x f.va.toNat z n
  let b ← readB z n
  let d ← if useD then readV x f.vd.toNat z n else pure (regElems s.core f.vd.toNat z n)
  let rs := ((List.range n).zip (a.zip (b.zip d))).map (fun p =>
    if s.core.vec.sel f.m.toNat p.1 then some (op p.2.1 p.2.2.1 p.2.2.2) else none)
  writeV x f.vd.toNat z (rs.map (·.map (·.1)))
  setVstat (orFlags (rs.filterMap (·.map (·.2))))

/-- The second operand in the register named by vb. -/
def fromReg (x : VCtx) (f : VA) (z n : Nat) : M (List Nat) := readV x f.vb.toNat z n
/-- The second operand in scalar s[vb], taken at the type's width (R222). -/
def fromScalar (f : VA) (z n : Nat) : M (List Nat) := do
  let s ← get
  pure (List.replicate n ((mget 0 s.core.vec.s (f.vb.toNat % 8)).toNat % 2 ^ (8 * z)))
/-- No second operand. -/
def noOperand (_z n : Nat) : M (List Nat) := pure (List.replicate n 0)

/-- An operation of the types F and I on patterns. -/
def byType (f : VA) (fl : Fmt → Nat → Nat → Nat → Res) (it : Int → Int → Int → Int) : Nat → Nat → Nat → Res :=
  match tyFmt f.ty with
  | some t => fl t
  | none =>
    let w := 8 * tySize f.ty
    fun a b d => fitInt w f.sat (it (sInt w a) (sInt w b) (sInt w d))

/-- An element-wise instruction of registers, or of a scalar in vb (Table 11.4). -/
def elementwise (opc : Nat) (i : Instr) (f : VA) (scalar useD : Bool) (op : VA → Nat → Nat → Nat → Res) : Meaning :=
  vectorRun opc i (fun x => do
    let f := stepVA x f 32 32 (if scalar then 8 else 32)
    vElems x f (if scalar then fromScalar f else fromReg x f) useD (op f))

/-- An element-wise instruction of one source. -/
def unary (opc : Nat) (i : Instr) (f : VA) (op : VA → Nat → Res) : Meaning :=
  vectorRun opc i (fun x => do
    let f := stepVA x f 32 32 32
    vElems x f noOperand false (fun a _ _ => op f a))

/-! ### Groups (R241, R242) -/

/-- The groups of a variant: rows, columns, or the whole register, as positions in ascending order (R241). -/
def groupsOf (v rows cols : Nat) : List (List Nat) :=
  if v == 0 then (List.range rows).map (fun r => (List.range cols).map (fun c => r * cols + c))
  else if v == 1 then (List.range cols).map (fun c => (List.range rows).map (fun r => r * cols + c))
  else [List.range (rows * cols)]

/-- An element widened exactly to FP32 (Table 4.4): the pattern and its flags. -/
def widen (t : Fmt) (v : Nat) : Res := if t == fp32 then (v, {}) else convFF t fp32 0 false (t.decode v)
/-- A running FP32 value rounded to the type (R242). -/
def narrow (t : Fmt) (sat : Bool) (v : Nat) : Res := if t == fp32 then (v, {}) else convFF fp32 t 0 sat (fp32.decode v)

/-- One step of a float sum: FP32, RNE (R242). -/
def sumStep (t : Fmt) (sat : Bool) (acc : Res) (e : Nat) : Res :=
  let w := widen t e
  let r := fp32.add 0 sat (fp32.decode acc.1) (fp32.decode w.1)
  (r.1, (acc.2.or w.2).or r.2)
/-- The first member of a float sum: widened, a NaN quieted (R242, R59). -/
def sumFirst (t : Fmt) (e : Nat) : Res := convFF t fp32 0 false (t.decode e)

/-- A minimum or maximum of two elements in a type, with flags gathered. -/
def extremeStep (f : VA) (isMax : Bool) (acc : Res) (e : Nat) : Res :=
  match tyFmt f.ty with
  | some t =>
    let r := t.minmax isMax acc.1 e (t.decode acc.1) (t.decode e)
    (r.1, acc.2.or r.2)
  | none =>
    let w := 8 * tySize f.ty
    (uInt w ((if isMax then max else min) (sInt w acc.1) (sInt w e)), acc.2)
/-- The first member of a minimum or maximum: a NaN is quieted (R242). -/
def extremeFirst (f : VA) (isMax : Bool) (e : Nat) : Res := extremeStep f isMax (e, {}) e

/-- VRSUM of a group's members (R242). -/
def sumGroup (f : VA) (es : List Nat) : Res :=
  match tyFmt f.ty with
  | some t =>
    match es with
    | [] => (0, {})
    | e :: r =>
      let acc := r.foldl (sumStep t f.sat) (sumFirst t e)
      let y := narrow t f.sat acc.1
      (y.1, acc.2.or y.2)
  | none =>
    let w := 8 * tySize f.ty
    fitInt w f.sat ((es.map (sInt w)).sum)

/-- VRMAX or VRMIN of a group's members (R242). -/
def extremeGroup (f : VA) (isMax : Bool) (es : List Nat) : Res :=
  match es with
  | e :: r => r.foldl (extremeStep f isMax) (extremeFirst f isMax e)
  | [] =>
    match tyFmt f.ty with
    | some t => (t.sign isMax + t.maxFinite + 1, {})
    | none =>
      let w := 8 * tySize f.ty
      (if isMax then 2 ^ (w - 1) else 2 ^ (w - 1) - 1, {})

/-- The selected members of a group with their places in it. -/
def membersOf (v : VecState) (m : Nat) (a : List Nat) (g : List Nat) : List (Nat × Nat) :=
  ((List.range g.length).zip g).filterMap (fun p => if v.sel m p.2 then some (p.1, a.getD p.2 0) else none)

/-- A reduction: result g at position g, the other positions unchanged (R241). -/
def reduction (opc : Nat) (i : Instr) (f : VA) (op : VA → List Nat → Res) : Meaning :=
  vectorRun opc i (fun x => do
    let f := stepVA x f 32 32 32
    let s ← get
    let z := tySize f.ty
    let n := s.core.vec.count z
    let a ← readV x f.va.toNat z n
    let rs := (groupsOf f.v.toNat s.core.vec.rows (s.core.vec.rowb / z)).map (fun g =>
      op f ((membersOf s.core.vec f.m.toNat a g).map (·.2)))
    writeV x f.vd.toNat z (rs.map (fun r => some r.1))
    setVstat (orFlags (rs.map (·.2))))

/-- The key of an element: FKEY of the FP32 value, or the signed integer (R244, R245). -/
def keyOf (ty : BitVec 3) (v : Nat) : Int :=
  match tyFmt ty with
  | some t => ((fkey (BitVec.ofNat 32 (widen t v).1)).toNat : Int)
  | none => sInt (8 * tySize ty) v

/-! ### Bound checks (R284, R285) -/

/-- What a bound register says (Table 12.9). -/
structure Bound where
  lo : BitVec 32
  hi : BitVec 32
  action : Nat
  int : Bool
  nanv : Bool
deriving DecidableEq, Repr

/-- The fields of a bound register. -/
def Bound.ofWord (w : BitVec 256) : Bound :=
  { lo := w.extractLsb' 0 32, hi := w.extractLsb' 32 32, action := bits w 65 64, int := bit w 66, nanv := bit w 67 }

/-- The bound does not fit the type, or is empty (R285). -/
def Bound.refused (b : Bound) (ty : BitVec 3) : Bool :=
  match tyFmt ty with
  | some _ =>
    let lo := fp32.decode b.lo.toNat
    let hi := fp32.decode b.hi.toNat
    b.int || lo.isNan || hi.isNan || numLt hi lo
  | none => !b.int || b.hi.toInt < b.lo.toInt

/-- One element against a bound: whether it violates it, and the element that a clamp stores (R285). -/
def Bound.check (b : Bound) (ty : BitVec 3) (v : Nat) : Bool × Nat :=
  match tyFmt ty with
  | some t =>
    let y := fp32.decode (widen t v).1
    let lo := fp32.decode b.lo.toNat
    let hi := fp32.decode b.hi.toNat
    let below := (convFF fp32 t 2 true lo).1
    if y.isNan then (b.nanv, below)
    else if numLt y lo then (true, below)
    else if numLt hi y then (true, (convFF fp32 t 3 true hi).1)
    else (false, v)
  | none =>
    let w := 8 * tySize ty
    let y := sInt w v
    let fit := fun (i : Int) => (fitInt w true i).1
    if y < b.lo.toInt then (true, fit b.lo.toInt)
    else if b.hi.toInt < y then (true, fit b.hi.toInt)
    else (false, v)

/-- BoundCheck over the elements of a command, each with its number (Table 18.3): the elements to store (R285). A violation
sets HIT; a trap cancels the phase once (BRETRY), then raises BOUND_TRAP with the first violating element in word 4. -/
def boundCheck (f : FaultInfo) (ph : Bool) (k : Nat) (ty : BitVec 3) (es : List (Nat × Nat)) : M (List Nat) := do
  let vs := es.map (·.2)
  let s ← get
  let reg := mget (0 : BitVec 256) s.core.mat.bounds k
  let b := Bound.ofWord reg
  if b.action == 0 then pure vs
  else if b.refused ty then raise { f with code := .badOperand }
  else
    let rs := vs.map (b.check ty)
    match (rs.zip es).find? (·.1.1) with
    | none => pure vs
    | some hit =>
      modCore (fun c => { c with mat := { c.mat with bounds := mset 0 c.mat.bounds k (setBit reg 68 true) } })
      if b.action == 1 then pure vs
      else if b.action == 2 then pure ((rs.zip vs).map (fun p => if p.1.1 then p.1.2 else p.2))
      else
        let t : FaultInfo := { f with code := .boundTrap, w4 := BitVec.ofNat 64 (k + hit.2.1 % 2 ^ 13 * 2 ^ 16) }
        if !ph then raise t
        else if s.core.mat.bretry then raise { t with action := .abandon }
        else throw (.cancel .bound)

end Sys2Proof.Machine
end

