-- ==== Sys2Proof/Machine/Vector.lean ====
section
/-! DEFINITION. The vector engine's control instructions, element-wise arithmetic, special functions, reductions and
selection (spec 11_vector R224, R235 to R245). -/

namespace Sys2Proof.Machine

/-! ### Control (R224, R235) -/

/-- Change the vector engine's registers. -/
def modVec (g : VecState → VecState) : M Unit := modCore (fun c => { c with vec := g c.vec })

/-- VSHAPE (Table 11.3). -/
def execVshape (f : VC) : Meaning := runE .vector (do
  modVec (fun v => { v with rows := f.c1.toNat + 1, rowb := (f.c2.toNat + 1) * 32 })
  pure .done)

/-- VROT (Table 11.3). -/
def execVrot (f : VC) : Meaning := runE .vector (do
  modVec (fun v => { v with vbase := f.c1.toNat % 16 })
  pure .done)

/-- VADV (Table 11.3). -/
def execVadv (f : VC) : Meaning := runE .vector (do
  modVec (fun v => { v with vbase := (v.vbase + f.c1.toNat) % 16 })
  pure .done)

/-- The value of a VC lane: its literal, or xs (R19, R27). -/
def vcValue (f : VC) : M Word :=
  if f.lit.isNone then engOperand .vector false f.xs else pure (f.lit.value 0)

/-- REP: the partner executes n times; a register count above 64 raises BAD_OPERAND (R224). -/
def execRep (f : VC) : Meaning := runE .vector (do
  let n ← if f.c3 == 0 then pure (f.c1.toNat + 1) else do
    let v ← vcValue f
    pure v.toNat
  if 64 < n then raise (vFault 4 0)
  else
    modCore (fun c => { c with rep := some { n := n, step := f.c2, j := 0 } })
    pure .done)

/-- VSETS (Table 11.3). -/
def execVsets (f : VC) : Meaning := runE .vector (do
  let v ← vcValue f
  modVec (fun k => { k with s := mset 0 k.s f.c1.toNat v })
  pure .done)

/-- VCNT: every earlier vector command has completed at its turn; f0 rises, or is held to the commit (R228, R355). The
writes that stand in the store side log count as retired (R119). -/
def execVcnt (f : VC) : Meaning := runE .vector (do
  let s ← get
  countFlag 0 (inPhase s (headOr s .vector (.vcnt f)))
  pure .done)

/-! ### Element-wise arithmetic (R236, R237) -/

/-- The float and integer operation of a VA instruction. -/
def vFloat (op : Fmt → Nat → Bool → Num → Num → Num → Res) (it : Int → Int → Int → Int) (f : VA) : Nat → Nat → Nat → Res :=
  byType f (fun t a b d => op t f.v.toNat f.sat (t.decode a) (t.decode b) (t.decode d)) it

/-- VADD. -/
def execVadd (f : VA) : Meaning :=
  elementwise 0x10 (.vadd f) f false false (vFloat (fun t m s a b _ => t.add m s a b) (fun a b _ => a + b))
/-- VSUB. -/
def execVsub (f : VA) : Meaning :=
  elementwise 0x11 (.vsub f) f false false (vFloat (fun t m s a b _ => t.sub m s a b) (fun a b _ => a - b))
/-- VMUL. -/
def execVmul (f : VA) : Meaning :=
  elementwise 0x12 (.vmul f) f false false (vFloat (fun t m s a b _ => t.mul m s a b) (fun a b _ => a * b))
/-- VFMA: the destination is the addend (R237). -/
def execVfma (f : VA) : Meaning :=
  elementwise 0x13 (.vfma f) f false true (vFloat (fun t m s a b d => t.fma m s a b d) (fun a b d => a * b + d))

/-- A minimum or maximum (R62, Table 11.4). -/
def vMinMax (isMax : Bool) (f : VA) (a b _d : Nat) : Res := extremeStep f isMax (a, {}) b
/-- VMIN. -/
def execVmin (f : VA) : Meaning := elementwise 0x14 (.vmin f) f false false (vMinMax false)
/-- VMAX. -/
def execVmax (f : VA) : Meaning := elementwise 0x15 (.vmax f) f false false (vMinMax true)

/-- A float sign operation: only the sign bit changes; a NaN is quieted, INV when signalling (R237, R59). -/
def vSign (t : Fmt) (a : Nat) (neg : Bool) : Res :=
  let low := a % t.sign true
  let n := t.decode a
  let q := if n.isNan && t.kind == .ieee && low / 2 ^ (t.mb - 1) % 2 == 0 then 2 ^ (t.mb - 1) else 0
  (t.sign neg + low + q, { inv := n.isSnan })

/-- VABS (R237). -/
def execVabs (f : VA) : Meaning := unary 0x16 (.vabs f) f (fun f a =>
  byType f (fun t a _ _ => vSign t a false) (fun a _ _ => a.natAbs) a 0 0)
/-- VNEG (R237). -/
def execVneg (f : VA) : Meaning := unary 0x17 (.vneg f) f (fun f a =>
  byType f (fun t a _ _ => vSign t a (!(t.decode a).neg)) (fun a _ _ => -a) a 0 0)

/-- Integer division of VDIV: truncation; by zero all ones (R237, R205). -/
def vIntDiv (a b : Int) : Int := if b = 0 then -1 else a.tdiv b
/-- VDIV. -/
def execVdiv (f : VA) : Meaning :=
  elementwise 0x18 (.vdiv f) f false false (vFloat (fun t m s a b _ => t.div m s a b) (fun a b _ => vIntDiv a b))

/-- A bitwise operation on the patterns of the integer types (Table 11.4). -/
def vBitwise (op : Nat → Nat → Nat) (_f : VA) (a b _d : Nat) : Res := (op a b, {})
/-- VAND. -/
def execVand (f : VA) : Meaning := elementwise 0x19 (.vand f) f false false (vBitwise (· &&& ·))
/-- VOR. -/
def execVor (f : VA) : Meaning := elementwise 0x1A (.vor f) f false false (vBitwise (· ||| ·))
/-- VXOR. -/
def execVxor (f : VA) : Meaning := elementwise 0x1B (.vxor f) f false false (vBitwise (· ^^^ ·))

/-- A shift by the low log2(8z) bits of B (Table 11.4). -/
def vShift (op : Nat → Nat → Nat → Nat) (f : VA) (a b _d : Nat) : Res :=
  let w := 8 * tySize f.ty
  (op w a (b % w), {})
/-- VSHL. -/
def execVshl (f : VA) : Meaning := elementwise 0x1C (.vshl f) f false false (vShift (fun w a k => a * 2 ^ k % 2 ^ w))
/-- VSHR. -/
def execVshr (f : VA) : Meaning := elementwise 0x1D (.vshr f) f false false (vShift (fun _ a k => a / 2 ^ k))
/-- VSAR. -/
def execVsar (f : VA) : Meaning :=
  elementwise 0x1E (.vsar f) f false false (vShift (fun w a k => uInt w (sInt w a / 2 ^ k)))

/-! ### Compares and selection (R238, R239) -/

/-- A compare of two elements. -/
def vCompareElem (f : VA) (fl : Num → Num → Bool × FFlags) (it : Int → Int → Bool) (a b : Nat) : Bool × FFlags :=
  match tyFmt f.ty with
  | some t => fl (t.decode a) (t.decode b)
  | none =>
    let w := 8 * tySize f.ty
    (it (sInt w a) (sInt w b), {})

/-- A compare writes mask m[vd]: the selected positions below n take the comparison, every other bit becomes 0 (R238); a
stepped vd that reaches m0 raises BAD_OPERAND (R225). -/
def vCompare (opc : Nat) (i : Instr) (f : VA) (fl : Num → Num → Bool × FFlags) (it : Int → Int → Bool) : Meaning :=
  vectorRun opc i (fun x => do
    let f := stepVA x f 8 32 32
    if f.vd == 0 then raise x.f
    else
      let s ← get
      let z := tySize f.ty
      let n := s.core.vec.count z
      let a ← readV x f.va.toNat z n
      let b ← readV x f.vb.toNat z n
      let rs := ((List.range n).zip (a.zip b)).filterMap (fun p =>
        if s.core.vec.sel f.m.toNat p.1 then some (p.1, vCompareElem f fl it p.2.1 p.2.2) else none)
      let m := rs.foldl (fun m p => if p.2.1 then m + 2 ^ p.1 else m) 0
      modVec (fun v => { v with m := mset 0 v.m f.vd.toNat (BitVec.ofNat 2048 m) })
      setVstat (orFlags (rs.map (·.2.2))))

/-- VCMPEQ: INV only for a signalling NaN (R238). -/
def execVcmpeq (f : VA) : Meaning :=
  vCompare 0x1F (.vcmpeq f) f (fun a b => (numEq a b, { inv := a.isSnan || b.isSnan })) (fun a b => a == b)
/-- VCMPLT: INV for any NaN (R238). -/
def execVcmplt (f : VA) : Meaning :=
  vCompare 0x20 (.vcmplt f) f (fun a b => (!a.isNan && !b.isNan && numLt a b, { inv := a.isNan || b.isNan })) (fun a b => a < b)
/-- VCMPLE: INV for any NaN (R238). -/
def execVcmple (f : VA) : Meaning :=
  vCompare 0x21 (.vcmple f) f
    (fun a b => (!a.isNan && !b.isNan && (numLt a b || numEq a b), { inv := a.isNan || b.isNan })) (fun a b => a ≤ b)

/-- VSEL: A where the mask bit is 1, else B; every position below n is written (R239). -/
def execVsel (f : VA) : Meaning := vectorRun 0x22 (.vsel f) (fun x => do
  let f := stepVA x f 32 32 32
  let s ← get
  let z := tySize f.ty
  let n := s.core.vec.count z
  let a ← readV x f.va.toNat z n
  let b ← readV x f.vb.toNat z n
  let rs := ((List.range n).zip (a.zip b)).map (fun p => some (if s.core.vec.sel f.m.toNat p.1 then p.2.1 else p.2.2))
  writeV x f.vd.toNat z rs)

/-- VADDS. -/
def execVadds (f : VA) : Meaning :=
  elementwise 0x23 (.vadds f) f true false (vFloat (fun t m s a b _ => t.add m s a b) (fun a b _ => a + b))
/-- VMULS. -/
def execVmuls (f : VA) : Meaning :=
  elementwise 0x24 (.vmuls f) f true false (vFloat (fun t m s a b _ => t.mul m s a b) (fun a b _ => a * b))
/-- VFMAS. -/
def execVfmas (f : VA) : Meaning :=
  elementwise 0x25 (.vfmas f) f true true (vFloat (fun t m s a b d => t.fma m s a b d) (fun a b d => a * b + d))

/-! ### Special functions (R240, R73, R74) -/

/-- A special function: computed in FP32, and for a narrow type rounded once more with RNE; only INV, DZ and OVF. -/
def vSpecial (fn : Num → Res) (f : VA) (a : Nat) : Res :=
  let t := (tyFmt f.ty).getD fp32
  let w := widen t a
  let y := fn (fp32.decode w.1)
  let r := narrow t false y.1
  let fl := (w.2.or y.2).or r.2
  (r.1, { inv := fl.inv, dz := fl.dz, ovf := fl.ovf })

/-- VEXP2. -/
def execVexp2 (f : VA) : Meaning := unary 0x40 (.vexp2 f) f (vSpecial fexp2)
/-- VLOG2. -/
def execVlog2 (f : VA) : Meaning := unary 0x41 (.vlog2 f) f (vSpecial flog2)
/-- VRCP. -/
def execVrcp (f : VA) : Meaning := unary 0x42 (.vrcp f) f (vSpecial frcp)
/-- VRSQRT. -/
def execVrsqrt (f : VA) : Meaning := unary 0x43 (.vrsqrt f) f (vSpecial frsqrt)
/-- VTANH. -/
def execVtanh (f : VA) : Meaning := unary 0x44 (.vtanh f) f (vSpecial ftanh)
/-- VSINPI. -/
def execVsinpi (f : VA) : Meaning := unary 0x45 (.vsinpi f) f (vSpecial (fsincos false))
/-- VCOSPI. -/
def execVcospi (f : VA) : Meaning := unary 0x46 (.vcospi f) f (vSpecial (fsincos true))

/-! ### Reductions, scans, selection (R241 to R245) -/

/-- VRSUM. -/
def execVrsum (f : VA) : Meaning := reduction 0x50 (.vrsum f) f sumGroup
/-- VRMAX. -/
def execVrmax (f : VA) : Meaning := reduction 0x51 (.vrmax f) f (fun f => extremeGroup f true)
/-- VRMIN. -/
def execVrmin (f : VA) : Meaning := reduction 0x52 (.vrmin f) f (fun f => extremeGroup f false)

/-- The running value of an integer or float scan with the result that a position writes (R243): inclusive sum and
maximum, or the sum before the member. -/
def scanRow (f : VA) : Option Res → List (Nat × Nat) → List (Nat × Res)
  | _, [] => []
  | acc, (pos, e) :: rest =>
    let w := 8 * tySize f.ty
    -- the running value with this member, the integer sum as its low 64 bits
    let next : Res := match f.v.toNat, tyFmt f.ty, acc with
      | 2, _, none => extremeFirst f true e
      | 2, _, some a => extremeStep f true (a.1, {}) e
      | _, some t, none => sumFirst t e
      | _, some t, some a => sumStep t f.sat (a.1, {}) e
      | _, none, none => (uInt 64 (sInt w e), {})
      | _, none, some a => (uInt 64 (sInt 64 a.1 + sInt w e), {})
    let out := fun (r : Res) => match f.v.toNat, tyFmt f.ty with
      | 2, _ => r
      | _, some t =>
        let y := narrow t f.sat r.1
        (y.1, r.2.or y.2)
      | _, none => fitInt w f.sat (sInt 64 r.1)
    if f.v.toNat == 1 then
      (pos, match acc with
        | none => (0, {})
        | some a => out a) :: scanRow f (some next) rest
    else (pos, out next) :: scanRow f (some (next.1, {})) rest

/-- VSCAN: along rows; masked-off positions keep their value and add nothing (R243). -/
def execVscan (f : VA) : Meaning := vectorRun 0x53 (.vscan f) (fun x => do
  let f := stepVA x f 32 32 32
  let s ← get
  let z := tySize f.ty
  let n := s.core.vec.count z
  let a ← readV x f.va.toNat z n
  let rs := (groupsOf 0 s.core.vec.rows (s.core.vec.rowb / z)).flatMap (fun g =>
    scanRow f none ((g.filter (s.core.vec.sel f.m.toNat)).map (fun i => (i, a.getD i 0))))
  writeV x f.vd.toNat z ((List.range n).map (fun i => (rs.find? (fun r => r.1 == i)).map (·.2.1)))
  setVstat (orFlags (rs.map (·.2.2))))

/-- Members by key descending, equal keys by place ascending: insertion of one member (R244, R245). -/
def insertKey (m : Int × Nat) : List (Int × Nat) → List (Int × Nat)
  | [] => [m]
  | h :: t => if h.1 < m.1 || (h.1 == m.1 && m.2 < h.2) then m :: h :: t else h :: insertKey m t
/-- Members in selection order. -/
def rankKeys (ms : List (Int × Nat)) : List (Int × Nat) := ms.foldl (fun l m => insertKey m l) []

/-- VTOPK (R245). -/
def execVtopk (f : VA) : Meaning := vectorRun 0x54 (.vtopk f) (fun x => do
  let f := stepVA x f 32 32 8
  let s ← get
  let z := tySize f.ty
  let n := s.core.vec.count z
  let sk := mget 0 s.core.vec.s (f.vb.toNat % 8)
  let k := bits sk 15 0
  if bits sk 31 16 != 0 || k == 0 || min n 512 < k then raise x.f
  else
    let a ← readV x f.va.toNat z n
    let ms := ((List.range n).zip a).filter (fun p => s.core.vec.sel f.m.toNat p.1)
    let best := ((rankKeys (ms.map (fun p => (keyOf f.ty p.2, p.1)))).take k).map (·.2)
    let order := if f.v == 0 then (List.range n).filter (fun i => best.contains i) else best
    let words := order.map (fun i => (i + bits sk 63 32) % 2 ^ 32) ++ List.replicate (k - order.length) 0xFFFFFFFF
    writeV x f.vd.toNat 4 (words.map some))

/-- VARGMAX: the index of the largest member of each group; words beyond the register's 2 KiB have no place (R244). -/
def execVargmax (f : VA) : Meaning := vectorRun 0x55 (.vargmax f) (fun x => do
  let f := stepVA x f 32 32 32
  let s ← get
  let z := tySize f.ty
  let n := s.core.vec.count z
  let a ← readV x f.va.toNat z n
  let rs := (groupsOf f.v.toNat s.core.vec.rows (s.core.vec.rowb / z)).map (fun g =>
    match rankKeys ((membersOf s.core.vec f.m.toNat a g).map (fun p => (keyOf f.ty p.2, p.1))) with
    | [] => some 0xFFFFFFFF
    | b :: _ => some b.2)
  writeV x f.vd.toNat 4 (rs.take 512))

end Sys2Proof.Machine
end

