-- ==== Sys2Proof/Machine/VecMove.lean ====
section
/-! DEFINITION. The vector engine's conversions, quantisation, tile and memory accesses, moves and permutations (spec
11_vector R246 to R257). -/

namespace Sys2Proof.Machine

/-! ### Conversion and quantisation (R246 to R249) -/

/-- The range of an integer type (R55). -/
def intRange (w : Nat) : Int × Int := (-((2 ^ (w - 1) : Nat) : Int), ((2 ^ (w - 1) : Nat) : Int) - 1)

/-- One conversion of Table 4.4, from a type (an INT8 source read unsigned with `u8`) to a type. -/
def convElem (src dst : BitVec 3) (u8 : Bool) (mode : Nat) (sat : Bool) (v : Nat) : Res :=
  let ws := 8 * tySize src
  let wd := 8 * tySize dst
  match tyFmt src, tyFmt dst with
  | some a, some b => convFF a b mode sat (a.decode v)
  | some a, none =>
    let r := convFI mode (intRange wd).1 (intRange wd).2 (a.decode v)
    (uInt wd r.1, r.2)
  | none, some b => convIF b mode sat (if u8 then (v : Int) else sInt ws v)
  | none, none => fitInt wd sat (if u8 then (v : Int) else sInt ws v)

/-- VCVT (R246). -/
def execVcvt (f : VA) : Meaning := vectorRun 0x60 (.vcvt f) (fun x => do
  let f := stepVA x f 32 32 32
  let s ← get
  let n := s.core.vec.count (tySize f.ty)
  let dt : BitVec 3 := f.vb.setWidth 3
  let a ← readV x f.va.toNat (tySize f.ty) n
  let rs := ((List.range n).zip a).map (fun p =>
    if s.core.vec.sel f.m.toNat p.1 then some (convElem f.ty dt (bit f.vb 3) f.v.toNat f.sat p.2) else none)
  writeRun x f.vd.toNat (tySize dt) (rs.map (·.map (·.1)))
  setVstat (orFlags (rs.filterMap (·.map (·.2)))))

/-- One element of VCVTSR at a value of SRCTR (R66); a zero, NaN or infinite element as under RNE. -/
def srElem (src dst : Fmt) (sat : Bool) (ctr : Word) (v : Nat) : Res :=
  match src.decode v with
  | .fin neg m e => if m = 0 then convFF src dst 0 sat (.fin neg m e) else dst.roundSR sat neg m e (srBits ctr)
  | y => convFF src dst 0 sat y

/-- VCVTSR: every position takes one step of SRCTR, in ascending order, masked or not (R247, R66). -/
def execVcvtsr (f : VA) : Meaning := vectorRun 0x61 (.vcvtsr f) (fun x => do
  let f := stepVA x f 32 32 32
  let s ← get
  let n := s.core.vec.count (tySize f.ty)
  let dt : BitVec 3 := f.vb.setWidth 3
  let a ← readV x f.va.toNat (tySize f.ty) n
  let rs := ((List.range n).zip a).map (fun p =>
    if s.core.vec.sel f.m.toNat p.1 then
      some (srElem ((tyFmt f.ty).getD fp32) ((tyFmt dt).getD fp32) f.sat (s.core.vec.srctr + BitVec.ofNat 64 p.1) p.2)
    else none)
  writeRun x f.vd.toNat (tySize dt) (rs.map (·.map (·.1)))
  modVec (fun v => { v with srctr := v.srctr + BitVec.ofNat 64 n })
  setVstat (orFlags (rs.filterMap (·.map (·.2)))))

/-- The element format of an fmt code (R248). -/
def mxFmt (c : Nat) : Fmt :=
  match c with
  | 0 => e2m1
  | 1 => e2m3
  | 2 => e3m2
  | 3 => e4m3
  | _ => e5m2

/-- Elements of w bits packed from bit 0 (R57). -/
def packBits (w : Nat) : List Nat → Nat
  | [] => 0
  | e :: r => e + 2 ^ w * packBits w r
/-- Element i of w bits. -/
def packedAt (w v i : Nat) : Nat := v / 2 ^ (w * i) % 2 ^ w

/-- VQMX (R248). -/
def execVqmx (f : VA) : Meaning := vectorRun 0x62 (.vqmx f) (fun x => do
  let f := stepVA x f 32 32 32
  let s ← get
  let n := s.core.vec.count (tySize f.ty)
  let t := (tyFmt f.ty).getD fp32
  let mf := mxFmt f.vb.toNat
  if n % 32 != 0 || f.vd == 31 then raise x.f
  else
    let a ← readV x f.va.toNat (tySize f.ty) n
    let bs := (List.range (n / 32)).map (fun b => quantBlock mf f.v.toNat (((a.drop (32 * b)).take 32).map t.decode))
    writeVBytes x f.vd.toNat 0 (leBytes (n * mf.width / 8) (packBits mf.width (bs.flatMap (·.2.1))))
    writeVBytes x (f.vd.toNat + 1) 0 (bs.map (fun b => BitVec.ofNat 8 b.1))
    setVstat (orFlags (bs.map (·.2.2))))

/-- One element of VDQMX: e × 2^(X − 127) rounded to the type; scale 0xFF gives the default NaN (R249). -/
def dqElem (mf t : Fmt) (mode : Nat) (sat : Bool) (scale e : Nat) : Res :=
  if scale == 0xFF then (t.defaultNaN, {})
  else match mxValue mf scale e with
    | .fin n m k => t.roundQ mode sat n m 1 k
    | y => convFF mf t mode sat y

/-- VDQMX (R249); scales in a register beyond v31 raise BAD_OPERAND, as for VQMX. -/
def execVdqmx (f : VA) : Meaning := vectorRun 0x63 (.vdqmx f) (fun x => do
  let f := stepVA x f 32 32 32
  let s ← get
  let z := tySize f.ty
  let n := s.core.vec.count z
  let t := (tyFmt f.ty).getD fp32
  let mf := mxFmt f.vb.toNat
  if n % 32 != 0 || f.va == 31 then raise x.f
  else
    let es ← readVBytes x f.va.toNat (n * mf.width / 8)
    let sc ← readVBytes x (f.va.toNat + 1) (n / 32)
    let packed := leNat es
    let rs := (List.range n).map (fun i =>
      if s.core.vec.sel f.m.toNat i then
        some (dqElem mf t f.v.toNat f.sat (sc.getD (i / 32) 0).toNat (packedAt mf.width packed i))
      else none)
    writeV x f.vd.toNat z (rs.map (·.map (·.1)))
    setVstat (orFlags (rs.filterMap (·.map (·.2)))))

/-! ### Tiles and memory (R250 to R252) -/

/-- The tile offset of a VT variant (R250). -/
def tileOffset (x : VCtx) (f : VT) (size : Nat) : M Nat := do
  let s ← get
  let o := if f.v == 0 then 0 else if f.v == 1 then 2048 else bits (mget 0 s.core.vec.s 0) 11 0
  if o % 64 != 0 then raise { x.f with code := .misaligned }
  else if 4096 < o + size then raise x.f
  else pure o

/-- The memory address of a VT of variant 11 (R250, R103). -/
def vtAddress (x : VCtx) (f : VT) : M Nat := do
  let s ← get
  let a := mget 0 s.core.vec.s (f.tile.toNat % 8)
  if bits a 5 0 != 0 then raise { x.f with code := .misaligned, addr := a }
  else checkVirtual x.f a

/-- Each tile sector that a range touches is consumed (R251, R87). -/
def consumeTile (f : FaultInfo) (ph : Bool) (off n : Nat) : M Unit := do
  let s ← get
  (List.range ((off + n + 63) / 64 - off / 64)).forM (fun k => consume f ph 0 (s.core.tiles.mark (off / 64 + k)))

/-- Memory-form VSTT writes that the executing phase holds, over bytes read from memory (R230, R231). -/
def overlayHeld (s : State) (va : Nat) (bs : List Byte) : List Byte :=
  match s.core.ph.exec with
  | none => bs
  | some e => (e.deferred.filter (fun p => p.1 == .vector)).foldl (fun bs p =>
      let lo := p.2.dest.toNat
      (List.range bs.length).map (fun i =>
        if lo ≤ va + i && va + i < lo + p.2.held.length then p.2.held.getD (va + i - lo) 0 else bs.getD i 0)) bs

/-- VLDT (R251). -/
def execVldt (f : VT) : Meaning := vectorRun 0x70 (.vldt f) (fun x => do
  let f := stepVT x f
  let s ← get
  let size := s.core.vec.rows * s.core.vec.rowb
  if f.v == 3 then
    let va ← vtAddress x f
    let bs ← engBytes x.f x.ph va size
    let s ← get
    writeVBytes x f.vd.toNat 0 (if x.ph then overlayHeld s va bs else bs)
  else
    let o ← tileOffset x f size
    let t := f.tile.toNat
    tagStartSrc x.f x.ph f.tag.toNat 0 t
    noteRead x.ph t
    let s ← get
    consumeTile x.f x.ph (4096 * t + o) size
    writeVBytes x f.vd.toNat 0 (s.core.win.readN (4096 * t + o) size)
    tagEndSrc x.ph f.tag.toNat t)

/-- A write of consecutive bytes by an engine that has left every phase, sector by sector, each performed or logged
(R83, R119); `cmd` keeps how far the command has come. -/
def engStore (q : Queue) (f : FaultInfo) (cmd : Cmd) (va : Nat) (bs : List Byte) (mk : Marks) : M Unit := do
  let lo := va / 64
  let hi := (va + bs.length + 63) / 64
  let rec go : Nat → Cmd → M Unit
    | 0, c => saveHead q { c with sect := 0 }
    | n + 1, c => do
      let k := hi - lo - (n + 1)
      if k < c.sect then go n c
      else
        let a := max va (64 * (lo + k))
        let e := min (va + bs.length) (64 * (lo + k + 1))
        let part := (bs.drop (a - va)).take (e - a)
        let mask := maskOf (a % 64) (e - a)
        let data := placeBytes (a % 64) part
        let s ← get
        let logged ← engWrite f c.logged a .write
          { engine := f.engine, asn := s.core.attrs.asn.toNat, va := a, data := data, mask := mask, marks := mk, op := 0, ch := none }
          (fun l => homeWrite { f with addr := BitVec.ofNat 64 a } l mask data mk) (pageAhead a (va + bs.length)).head?
        let c := { c with sect := k + 1, logged := c.logged || logged }
        saveHead q c
        go n c
  go (hi - lo) cmd

/-- The faults of a memory-form write over its whole range, found before anything is written (R233): a range that leaves the
address space, and the walks of the pages that it touches. -/
def checkStore (f : FaultInfo) (va size : Nat) : M Unit := do
  if 2 ^ 52 < va + size then raise { f with code := .addrRange, addr := BitVec.ofNat 64 (2 ^ 52) }
  else ((List.range ((va + size + 65535) / 65536 - va / 65536)).map (fun k => max va (65536 * (va / 65536 + k)))).forM (fun a => do
    let s ← get
    let r := coreReq s f
    if (tlbFind s.core r a).isSome then pure ()
    else
      let (w, s') := walk r.home r.asn r.tbase a s
      set s'
      match w with
      | .held => stall .selfTest
      | .bad c mk => raise { f with code := c, addr := BitVec.ofNat 64 a, w4 := mk.log, w5 := mk.found }
      | _ => pure ())

/-- VSTT (R252): the bound check first; the tile form writes the tile; the memory form writes memory, held in the engine
until the commit inside a phase (R231). -/
def execVstt (f : VT) : Meaning := fun s =>
  let c := headOr s .vector (.vstt f)
  if c.deferred then runE .vector (do
    engStore .vector (vFault 0x71 0) c c.dest.toNat c.held {}
    pure .done) s
  else vectorRun 0x71 (.vstt f) (fun x => do
    let f := stepVT x f
    let s ← get
    let size := s.core.vec.rows * s.core.vec.rowb
    let z := tySize f.ty
    let store : List Byte → M (List Byte) := fun bs => do
      if bit f.vd 4 then
        let es := (List.range (size / z)).map (fun i => (i, leNat ((bs.drop (i * z)).take z)))
        let es ← boundCheck x.f x.ph (f.vd.toNat % 16) f.ty es
        pure (es.flatMap (leBytes z))
      else pure bs
    if f.v == 3 then
      let va ← vtAddress x f
      let bs ← readVBytes x f.va.toNat size
      if c.sect == 0 then checkStore x.f va size else pure ()
      let bs ← store bs
      if x.ph then
        modCore (modExec (fun e => { e with deferred := e.deferred ++ [(.vector, { c with dest := BitVec.ofNat 64 va, held := bs })] }))
      else engStore .vector x.f c va bs {}
    else
      let o ← tileOffset x f size
      let t := f.tile.toNat
      noteWrite x.f x.ph t
      tagStartDst x.f x.ph f.tag.toNat 0 t
      let bs ← readVBytes x f.va.toNat size
      let bs ← store bs
      modCore (fun k => k.writeScratch (4096 * t + o) bs {})
      tagEndDst x.ph f.tag.toNat t) s

/-! ### Moves and permutations (R253 to R257) -/

/-- VPERM (R254). -/
def execVperm (f : VA) : Meaning := vectorRun 0x72 (.vperm f) (fun x => do
  let f := stepVA x f 32 32 32
  let s ← get
  let z := tySize f.ty
  let n := s.core.vec.count z
  let cols := s.core.vec.rowb / z
  let a ← readV x f.va.toNat z n
  let u ← readV x f.vb.toNat z n
  writeV x f.vd.toNat z (((List.range n).zip u).map (fun p =>
    if s.core.vec.sel f.m.toNat p.1 then some (a.getD (p.1 / cols * cols + p.2 % cols) 0) else none)))

/-- VTRANS (R255). -/
def execVtrans (f : VA) : Meaning := vectorRun 0x73 (.vtrans f) (fun x => do
  let f := stepVA x f 32 32 32
  let s ← get
  let z := tySize f.ty
  let n := s.core.vec.count z
  let cols := s.core.vec.rowb / z
  let rows := s.core.vec.rows
  let a ← readV x f.va.toNat z n
  writeV x f.vd.toNat z ((List.range n).map (fun k => some (a.getD (k % rows * cols + k / rows) 0))))

/-- VBCAST (R256). -/
def execVbcast (f : VA) : Meaning := vectorRun 0x74 (.vbcast f) (fun x => do
  let f := stepVA x f 32 32 (if f.v == 3 then 8 else 32)
  let s ← get
  let z := tySize f.ty
  let n := s.core.vec.count z
  let cols := s.core.vec.rowb / z
  let a ← if f.v == 3 then fromScalar f z n else readV x f.va.toNat z n
  let src := fun (i : Nat) => if f.v == 0 then i % cols else if f.v == 1 then i / cols * cols else 0
  writeV x f.vd.toNat z ((List.range n).map (fun i =>
    if s.core.vec.sel f.m.toNat i then some (a.getD (src i) 0) else none)))

/-- VGATH (R257). -/
def execVgath (f : VA) : Meaning := vectorRun 0x75 (.vgath f) (fun x => do
  let f := stepVA x f 32 32 32
  let s ← get
  let rows := s.core.vec.rows
  let rowb := s.core.vec.rowb
  let a ← readVBytes x f.va.toNat (rows * rowb)
  let u ← readV x f.vb.toNat (tySize f.ty) rows
  writeVBytes x f.vd.toNat 0 (u.flatMap (fun r => (a.drop (r % rows * rowb)).take rowb)))

/-- VMOV (R253); a stepped mask destination that reaches m0 raises BAD_OPERAND (R225). -/
def execVmov (f : VA) : Meaning := vectorRun 0x76 (.vmov f) (fun x => do
  let f := stepVA x f (if f.v == 2 then 8 else 32) (if f.v == 1 then 8 else 32) 32
  let s ← get
  if f.v == 1 then
    writeVBytes x f.vd.toNat 0 (leBytes 256 (s.core.vec.mask f.va.toNat).toNat)
  else if f.v == 2 then
    if f.vd == 0 then raise x.f
    else
      let bs ← readVBytes x f.va.toNat 256
      modVec (fun v => { v with m := mset 0 v.m f.vd.toNat (BitVec.ofNat 2048 (leNat bs)) })
  else
    let z := tySize f.ty
    let n := s.core.vec.count z
    let a ← readV x f.va.toNat z n
    writeV x f.vd.toNat z (((List.range n).zip a).map (fun p =>
      if s.core.vec.sel f.m.toNat p.1 then some p.2 else none)))

end Sys2Proof.Machine
end

