-- ==== Sys2Proof/Machine/GatherOps.lean ====
section
/-! DEFINITION. The gather engine's shared operations (spec 09_kv_gather R170 to R185; 05_main_memory_protection R96 for
code 14): sequence descriptors, block tables, pools, slots, the block map cache, and the stages of a command. -/

namespace Sys2Proof.Machine

/-! ### How a unit reaches the tables -/

/-- How a unit reaches sequence descriptors, tables and pools: its reads (consumption), its writes, the place of an address,
the test before writes that none of them will have to wait, and its fault prototype. -/
structure Reach where
  read : Nat → Nat → M (List Byte)
  write : Nat → List Byte → M Unit
  place : Nat → M Loc
  ready : List (Nat × Nat) → M Unit
  fault : FaultInfo

/-! ### Descriptors (Tables 9.1, 9.2) -/

/-- A sequence descriptor. -/
structure Seq where
  va : Nat
  btab : Nat
  score : Nat
  tokens : Nat
  epoch : Nat
  cap : Nat
  pool : Nat
deriving DecidableEq, Repr

/-- The descriptor in 64 bytes, or none where a limit of R170 is broken. -/
def Seq.parse (va : Nat) (b : BitVec 512) : Option Seq :=
  let q : Seq := { va := va, btab := bits b 63 0, score := bits b 127 64, tokens := bits b 159 128, epoch := bits b 191 160,
                   cap := bits b 223 192, pool := bits b 259 256 }
  if bits b 511 260 == 0 && q.btab % 64 == 0 && q.score % 64 == 0 && 1 ≤ q.cap && q.cap ≤ 65536 && q.tokens ≤ 16 * q.cap then some q
  else none

/-- Blocks that hold published tokens. -/
def Seq.blocks (q : Seq) : Nat := (q.tokens + 15) / 16

/-- A pool descriptor, with its virtual address and its physical place. -/
structure Pool where
  va : Nat
  id : Nat
  slots : Nat
  bpt : Nat
  freel : Nat
  nslot : Nat
  freen : Nat
  dim : Nat
  brain : Bool
deriving DecidableEq, Repr

/-- SLOTB. -/
def Pool.slotb (p : Pool) : Nat := 64 * p.dim
/-- The virtual address of a slot. -/
def Pool.slotVa (p : Pool) (s : Nat) : Nat := p.slots + s * p.slotb

/-- The descriptor in 64 bytes, or none where a limit of R173 is broken. -/
def Pool.parse (va id : Nat) (b : BitVec 512) : Option Pool :=
  let p : Pool := { va := va, id := id, slots := bits b 63 0, bpt := bits b 127 64, freel := bits b 191 128, nslot := bits b 223 192,
                    freen := bits b 255 224, dim := bits b 271 256, brain := bits b 279 272 == 0 }
  if bits b 511 280 == 0 && bits b 279 272 ≤ 1 && p.slots % 65536 == 0 && p.bpt % 64 == 0 && p.freel % 64 == 0
      && 1 ≤ p.nslot && p.nslot ≤ 2 ^ 24 && p.freen ≤ p.nslot && [64, 128, 256, 512, 1024].contains p.dim then some p
  else none

/-- A 512-bit value of 64 bytes. -/
def bitsOfBytes (bs : List Byte) : BitVec 512 := BitVec.ofNat 512 (leNat bs)

/-- Read a sequence descriptor (R170, R184). -/
def readSeq (r : Reach) (a : Word) : M Seq := do
  if bits a 5 0 != 0 then raise { r.fault with code := .misaligned, addr := a }
  else
    let va ← checkVirtual r.fault a
    let bs ← r.read va 64
    match Seq.parse va (bitsOfBytes bs) with
    | some q => pure q
    | none => raise r.fault

/-- Read a pool descriptor; KVPOOLS 0 means no pools (R173). -/
def readPool (r : Reach) (kvpools : Word) (n : Nat) : M Pool := do
  if kvpools == 0 then raise r.fault
  else
    let va := kvpools.toNat + 64 * n
    let bs ← r.read va 64
    let l ← r.place va
    match Pool.parse va (if l.host then 2 ^ 60 + l.addr else l.addr) (bitsOfBytes bs) with
    | some p => pure p
    | none => raise r.fault

/-- The 32-bit word of an empty table entry (R171). -/
def emptyEntry : Nat := 0xFFFFFFFF

/-- Table entry j: none when empty; a slot at or above NSLOT raises BAD_OPERAND (R171). -/
def tableEntry (r : Reach) (q : Seq) (p : Pool) (j : Nat) : M (Option Nat) := do
  let bs ← r.read (q.btab + 4 * j) 4
  if leNat bs == emptyEntry then pure none
  else if p.nslot ≤ leNat bs then raise r.fault
  else pure (some (leNat bs))

/-- Table entry j, which must hold a slot: KV_HOLE otherwise (R171). -/
def heldEntry (r : Reach) (q : Seq) (p : Pool) (j : Nat) : M Nat := do
  match ← tableEntry r q p j with
  | some s => pure s
  | none => raise { r.fault with code := .kvHole }

/-! ### Pools (R174, R175) -/

/-- The reference count of a slot. -/
def readCount (r : Reach) (p : Pool) (s : Nat) : M Nat := do
  let bs ← r.read (p.bpt + 2 * s) 2
  pure (leNat bs)

/-- The counts after references (false) and drops (true) in order, and the slots whose count reaches 0 (R174). -/
def countOps (r : Reach) (p : Pool) : List (Nat × Bool) → List (Nat × Nat) → List Nat → M (List (Nat × Nat) × List Nat)
  | [], m, freed => pure (m, freed)
  | (s, drop) :: rest, m, freed => do
    let n ← match m.find? (fun e => e.1 == s) with
      | some e => pure e.2
      | none => readCount r p s
    let others := m.filter (fun e => e.1 != s)
    if drop then
      if n == 0 then raise { r.fault with code := .kvRefcnt }
      else countOps r p rest (others ++ [(s, n - 1)]) (if n == 1 then freed ++ [s] else freed)
    else if n == 0xFFFF then raise { r.fault with code := .kvRefcnt }
    else countOps r p rest (others ++ [(s, n + 1)]) freed

/-- The stream pins of a core: those of its gather command, unless a fault holds it (R175). -/
def Core.pins (c : Core) : List (Nat × Nat) := if c.gq.held then [] else (c.gq.headCmd.map (·.pins)).getD []

/-- A stream pin is held on a slot (R175). -/
def slotPinned (s : State) (pool slot : Nat) : Bool := (coreNumbers s).any (fun n => (coreOf s n).pins.contains (pool, slot))

/-- The pins held in a die's pin table of 1,024 entries (R175). -/
def pinsOn (s : State) (die : Nat) : Nat :=
  ((coreNumbers s).filter (fun n => dieOfCore n == die)).foldl (fun a n => a + (coreOf s n).pins.length) 0

/-- Push slots onto a pool's free list (R174). -/
def pushSlots (r : Reach) (p : Pool) (slots : List Nat) : M Unit := do
  if slots.isEmpty then pure ()
  else
    let bs ← r.read (p.va + 28) 4
    let n := leNat bs
    let at' := (slots.zip (List.range slots.length)).map (fun x => (p.freel + 4 * (n + x.2), x.1))
    r.ready ((p.va + 28, 4) :: at'.map (fun x => (x.1, 4)))
    at'.forM (fun x => r.write x.1 (leBytes 4 x.2))
    r.write (p.va + 28) (leBytes 4 (n + slots.length))

/-- Perform counts and pushes in one atomic step on the pool; a pinned slot waits for its last pin (R174, R175). -/
def commitCounts (r : Reach) (p : Pool) (asn tbase : Nat) (counts : List (Nat × Nat)) (freed : List Nat) : M Unit := do
  let s ← get
  let held := freed.filter (slotPinned s p.id)
  let push := freed.filter (fun x => !held.contains x)
  r.ready (counts.map (fun e => (p.bpt + 2 * e.1, 2)))
  pushSlots r p push
  counts.forM (fun e => r.write (p.bpt + 2 * e.1) (leBytes 2 e.2))
  if held.isEmpty then pure ()
  else modDie (homeDie (p.id % 2 ^ 52)) (fun d => { d with
    pinned := d.pinned ++ held.map (fun x => { pool := p.id, va := p.va, asn := asn, tbase := tbase, slot := x }) })

/-- The slots that n pops take, in pop order; KV_NOSLOT where the free list is too short (R174, R185). A free-list entry at or
above NSLOT raises BAD_OPERAND: the model's choice (log entry 74). -/
def peekPops (r : Reach) (p : Pool) (n : Nat) : M (List Nat) := do
  if p.freen < n then raise { r.fault with code := .kvNoslot }
  else (List.range n).mapM (fun i => do
    let bs ← r.read (p.freel + 4 * (p.freen - 1 - i)) 4
    if p.nslot ≤ leNat bs then raise r.fault else pure (leNat bs))

/-! ### The gather engine's commands -/

/-- What a gather command runs under. -/
structure GatherCtx where
  f : GM
  i : Instr
  fault : FaultInfo
  ph : Bool
deriving DecidableEq, Repr

/-- The prototype of a gather fault (R185, Table 18.5). -/
def gatherFault (opc : Nat) : FaultInfo := { code := .badOperand, engine := 6, opc := opc, action := .hold .gather }

/-- The command at the head of the gather queue, as it now stands. -/
def gatherHead (x : GatherCtx) : M Cmd := do
  let s ← get
  pure (headOr s .gather x.i)

/-- A write of consecutive bytes by the gather engine, sector by sector, or with `add` an addition to the FP32 words there (R191):
performed, or logged (R180, R119). -/
def gatherPut (x : GatherCtx) (add : Bool) (mk : Marks) (va : Nat) (bs : List Byte) : M Unit :=
  (List.range ((va + bs.length + 63) / 64 - va / 64)).forM (fun k => do
    let s ← get
    let c := headOr s .gather x.i
    let a := max va (64 * (va / 64 + k))
    let e := min (va + bs.length) (64 * (va / 64 + k + 1))
    let mask := maskOf (a % 64) (e - a)
    let data := placeBytes (a % 64) ((bs.drop (a - va)).take (e - a))
    let f := { x.fault with addr := BitVec.ofNat 64 a }
    let logged ← engWrite x.fault c.logged a (if add then .combine else .write)
      { engine := 6, asn := s.core.attrs.asn.toNat, va := a, data := data, mask := mask, marks := mk, op := if add then 1 else 0, ch := none }
      (fun l => if add then homeReduce f l 0 mask data mk else homeWrite f l mask data mk)
    if logged then saveHead .gather { c with logged := true } else pure ())

/-- The place of a change to a pool, which the device performs atomically at its home (R174): it reads and writes, so a page that
does not permit both holds the stream, as a read does (R118), and no such change enters the store side log; it waits for the
command's writes that have (R119; log entry 75). -/
def poolPlace (x : GatherCtx) (va : Nat) : M Loc := do
  let s ← get
  if (headOr s .gather x.i).logged && !(sdlOf s.core 6).isEmpty then stall .logWait
  else
    awaitLog 6 va
    translate (coreReq s x.fault) va .combine

/-- The writes that make up one change to a pool will not have to wait part-way. -/
def poolReady (x : GatherCtx) (ws : List (Nat × Nat)) : M Unit := ws.forM (fun w => do
  let l ← poolPlace x w.1
  awaitSector { x.fault with addr := BitVec.ofNat 64 w.1 } true l)

/-- A write of a change to a pool, within one sector. -/
def poolPut (x : GatherCtx) (va : Nat) (bs : List Byte) : M Unit := do
  let l ← poolPlace x va
  homeWrite { x.fault with addr := BitVec.ofNat 64 va } l (maskOf (va % 64) bs.length) (placeBytes (va % 64) bs) {}

/-- The gather engine's reach (R180). -/
def gatherReach (x : GatherCtx) : Reach :=
  { fault := x.fault
    read := fun va n => engBytes x.fault x.ph va n
    write := poolPut x
    place := fun va => do
      let s ← get
      awaitLog 6 va
      translate (coreReq s x.fault) va .read
    ready := poolReady x }

/-- The head read of an SD by a gather command: stale block map cache entries of it go (R172). -/
def headSeq (x : GatherCtx) (a : Word) : M Seq := do
  let q ← readSeq (gatherReach x) a
  modCore (fun c => { c with bmc := c.bmc.filter (fun e => e.sd != q.va || e.epoch == q.epoch) })
  pure q

/-- The pool of an SD. -/
def poolOf (x : GatherCtx) (q : Seq) : M Pool := do
  let s ← get
  readPool (gatherReach x) s.core.attrs.kvpools q.pool

/-- The tiles of a span of n bytes from the command's tile; one that passes t63 raises BAD_OPERAND (R184). -/
def gatherSpan (x : GatherCtx) (n : Nat) : M (List Nat) :=
  let t := x.f.tile.toNat
  if (64 - t) * 4096 < n then raise x.fault else pure ((List.range ((n + 4095) / 4096)).map (t + ·))

/-- The tag waits of a span, kept while the command waits; the hazard check first for a destination (R357). -/
def gatherTags (x : GatherCtx) (dst : Bool) (ts : List Nat) : M Unit := do
  let c ← gatherHead x
  if c.tags then pure ()
  else
    if dst then ts.forM (hazard x.fault x.ph) else pure ()
    keepWaits (tagStartAll dst x.fault x.ph x.f.tag.toNat 0 ts)
    let c ← gatherHead x
    saveHead .gather { c with tags := true }

/-- Write a sector of a destination tile: no arrival under any tag action (R184). -/
def gatherTile (x : GatherCtx) (off : Nat) (v : BitVec 512 × Marks) : M Unit :=
  modCore (fun c => markWritten x.ph (off / 4096) (c.writeScratch off (leBytes 64 v.1.toNat) v.2))

/-- The head of the gather queue in `old`, with the stream pins that it holds in `new`. -/
def keepPins (old new : Core) : Core :=
  match old.gq.headCmd, new.gq.headCmd with
  | some a, some b => { old with gq := old.gq.setHead { a with pins := b.pins } }
  | _, _ => old

/-- A part of a command that, if it waits, leaves the core as it was, with what came before it and the stream pins kept. -/
def keptPart {α : Type} (m : M α) : M α := fun s =>
  match m s with
  | .error (.wait r _) t => .error (.wait r true) { t with core := keepPins s.core t.core }
  | o => o

/-! ### Slots (R176, R177) -/

/-- The format of a pool's elements. -/
def Pool.fmt (p : Pool) : Fmt := if p.brain then bf16 else fp16

/-- An element of a code-14 page, by its number in the page: its value in the pool's format (R96, R177). -/
def requantElem (p : Pool) (secs : List (Nat × SecRead)) (e : Nat) : Nat :=
  let r := ((secs.find? (fun s => s.1 == e / 48)).map (·.2.data)).getD 0
  let g := e % 48 / 16
  let v := e4m3.decode (r.extractLsb' (8 * (16 * g + e % 16)) 8).toNat
  let s := fp16.decode (r.extractLsb' (384 + 16 * g) 16).toNat
  if s.isNan || v.isNan then p.fmt.defaultNaN else (p.fmt.mul 0 false v s).1

/-- Sector k of a slot that lies at a place, as delivered, with its marks (R176, R177). -/
def slotSector (x : GatherCtx) (p : Pool) (va : Nat) (l : Loc) (k : Nat) : M (BitVec 512 × Marks) := do
  if l.nlc == 14 && !l.host then
    let e0 := l.addr % 65536 / 2 + 32 * k
    let frame := l.addr / 65536 * 65536
    let secs ← ((List.range ((e0 + 31) / 48 - e0 / 48 + 1)).map (e0 / 48 + ·)).mapM (fun n => do
      let r ← homeRead { x.fault with addr := BitVec.ofNat 64 va } { l with addr := frame + 64 * n }
      checkE3 x.fault (BitVec.ofNat 64 va) r
      pure (n, r))
    let v := packBits 16 ((List.range 32).map (fun i => requantElem p secs (e0 + i)))
    pure (BitVec.ofNat 512 v, secs.foldl (fun m r => unionMarks m r.2.marks) {})
  else
    let r ← homeRead { x.fault with addr := BitVec.ofNat 64 va } { l with addr := l.addr + 64 * k }
    checkE3 x.fault (BitVec.ofNat 64 va) r
    pure (r.data, r.marks)

/-- Sectors k0 on of a slot, a copy (R180). -/
def readSlot (x : GatherCtx) (p : Pool) (slot k0 n : Nat) : M (List (BitVec 512 × Marks)) := do
  let va := p.slotVa slot
  let s ← get
  awaitLog 6 va
  let l ← translate (coreReq s x.fault) va .read
  (List.range n).mapM (fun k => slotSector x p va l (k0 + k))

/-- Pinned slots of a pool whose count reached 0 and on which no pin is held are pushed (R175). -/
def pushUnpinned (r : Reach) (p : Pool) : M Unit := do
  let s ← get
  let d := homeDie (p.id % 2 ^ 52)
  let free := (dieOf s d).pinned.filter (fun e => e.pool == p.id && !e.zero && !slotPinned s e.pool e.slot)
  pushSlots r p (free.map (·.slot))
  modDie d (fun x => { x with pinned := x.pinned.filter (fun e => !free.contains e) })

/-- A stream pin on a slot, which waits while the die's pin table is full (R175). -/
def pinSlot (x : GatherCtx) (p : Pool) (slot : Nat) : M Unit := do
  let s ← get
  let c := headOr s .gather x.i
  if c.pins.contains (p.id, slot) then pure ()
  else if 1024 ≤ pinsOn s (dieOfCore s.cur) then throw (.wait .pinTable true)
  else saveHead .gather { c with pins := c.pins ++ [(p.id, slot)] }

/-- The pin on a slot drops, and what waits for it is pushed (R175); a push that cannot be made now is made in its own turn. -/
def unpinSlot (x : GatherCtx) (p : Pool) (slot : Nat) : M Unit := do
  let c ← gatherHead x
  saveHead .gather { c with pins := c.pins.filter (· != (p.id, slot)) }
  tryCatch (pushUnpinned (gatherReach x) p) (fun _ => pure ())

/-- A whole slot read under a stream pin (R175, R190, R192). -/
def readPinned (x : GatherCtx) (p : Pool) (slot : Nat) : M (List (BitVec 512 × Marks)) := do
  pinSlot x p slot
  let img ← readSlot x p slot 0 p.dim
  unpinSlot x p slot
  pure img

/-- KV_LAYOUT for a slot on a code-14 page (R177). A page that cannot be written now is not checked: its writes retire into the
store side log (R180; log entry 75). -/
def checkLayout (x : GatherCtx) (p : Pool) (slot : Nat) : M Unit := do
  let s ← get
  match ← tryTranslate (coreReq s x.fault) (p.slotVa slot) .write with
  | .ok l => if l.nlc == 14 then raise { x.fault with code := .kvLayout } else pure ()
  | .error _ => pure ()

/-- The K row and V row of one token with their marks: the K row's sectors; the V row's bytes and the marks of each of its
sectors. -/
structure TokenRows where
  key : List (BitVec 512 × Marks)
  val : List Byte
  vmarks : List Marks
deriving DecidableEq, Repr

/-- A token of a slot read whole (R176). -/
def tokenOf (p : Pool) (img : List (BitVec 512 × Marks)) (t : Nat) : TokenRows :=
  let per := p.dim / 32
  let vs := img.drop (p.dim / 2)
  { key := (img.drop (t * per)).take per
    val := (List.range p.dim).flatMap (fun d =>
      leBytes 2 (((vs.getD (d / 2) (0, {})).1.extractLsb' (8 * (32 * (d % 2) + 2 * t)) 16).toNat))
    vmarks := (List.range per).map (fun k =>
      ((vs.drop (16 * k)).take 16).foldl (fun m v => unionMarks m v.2) {}) }

/-- Value sector v of a block whose base content is given, with the columns of some tokens replaced (R176): its marks join
those of the rows it takes. -/
def valueSector (base : BitVec 512 × Marks) (whole : Bool) (toks : List (Nat × TokenRows)) (v : Nat) : BitVec 512 × Marks :=
  let start : BitVec 512 × Marks := if whole then (0, {}) else base
  toks.foldl (fun acc x =>
    let put := fun (a : BitVec 512) (h : Nat) =>
      mergeBytes (maskOf (32 * h + 2 * x.1) 2) (placeBytes (32 * h + 2 * x.1) ((x.2.val.drop (2 * (2 * v + h))).take 2)) a
    (put (put acc.1 0) 1, unionMarks acc.2 (x.2.vmarks.getD (v / 16) {}))) start

/-- The sectors of a block that change when tokens are written into it: `base k` is sector k of the content it starts from,
all of which are listed for a `new` slot (R176, R189). -/
def blockSectors (p : Pool) (new : Bool) (base : Nat → BitVec 512 × Marks) (toks : List (Nat × TokenRows)) :
    List (Nat × (BitVec 512 × Marks)) :=
  let per := p.dim / 32
  let half := p.dim / 2
  let keys := (List.range half).filterMap (fun k =>
    match toks.find? (fun x => x.1 == k / per) with
    | some x => some (k, x.2.key.getD (k % per) (0, {}))
    | none => if new then some (k, base k) else none)
  let vals := (List.range half).map (fun v => (half + v, valueSector (base (half + v)) (toks.length == 16) toks v))
  keys ++ (if toks.isEmpty && !new then [] else vals)

/-- The writes of a slot's sectors. -/
def slotWrites (p : Pool) (slot : Nat) (secs : List (Nat × (BitVec 512 × Marks))) : List PlanWrite :=
  secs.map (fun s => { va := p.slotVa slot + 64 * s.1, bytes := leBytes 64 s.2.1.toNat, marks := s.2.2 })

/-- A write of consecutive bytes as writes of at most one sector each. -/
def splitWrite (va : Nat) (bs : List Byte) : List PlanWrite :=
  (List.range ((va + bs.length + 63) / 64 - va / 64)).map (fun k =>
    let a := max va (64 * (va / 64 + k))
    let e := min (va + bs.length) (64 * (va / 64 + k + 1))
    { va := a, bytes := (bs.drop (a - va)).take (e - a) })

/-- A table entry's write. -/
def entryWrite (q : Seq) (j : Nat) (slot : Option Nat) : PlanWrite :=
  { va := q.btab + 4 * j, bytes := leBytes 4 (slot.getD emptyEntry), slot := slot }
/-- References and drops on the pool (R174). -/
def poolWrite (ops : List (Nat × Bool)) : PlanWrite := { va := 0, bytes := [], ops := ops }
/-- EPOCH raised by 1, mod 2^32 (R172), with the references and drops that end the command: a fault that they meet leaves EPOCH
unchanged (R185). -/
def epochWrite (q : Seq) (ops : List (Nat × Bool)) : PlanWrite :=
  { va := q.va + 20, bytes := leBytes 4 ((q.epoch + 1) % 2 ^ 32), ops := ops }
/-- TOKENS published, last and with release (R179). -/
def tokensWrite (q : Seq) (n : Nat) : PlanWrite := { va := q.va + 16, bytes := leBytes 4 n, release := true }
/-- TOKENS published with EPOCH raised, last and with release, and the drops that end the command (R179, R185, R189). -/
def publishWrite (q : Seq) (n : Nat) (ops : List (Nat × Bool)) : PlanWrite :=
  { va := q.va + 16, bytes := leBytes 4 n ++ leBytes 4 ((q.epoch + 1) % 2 ^ 32), release := true, ops := ops }

/-! ### The stages of a command that changes an SD (R178, R185) -/

/-- What a command takes back when it faults: its reserved slots not yet in a table go back to the free list (R185). -/
def gatherUndo (x : GatherCtx) : M Unit := do
  let c ← gatherHead x
  match c.block with
  | none => pure ()
  | some b =>
    match Seq.parse 0 b with
    | some q =>
      if c.reserved.isEmpty then pure ()
      else
        let p ← poolOf x q
        let s ← get
        commitCounts (gatherReach x) p s.core.attrs.asn.toNat s.core.attrs.tbase (c.reserved.map (fun n => (n, 0))) c.reserved.reverse
    | none => pure ()

/-- Reserved slots that cannot be pushed back now: the home of their pool pushes them in turns of its own (R185). -/
def deferPush (x : GatherCtx) (s : State) : State :=
  let c := headOr s .gather x.i
  let va := s.core.attrs.kvpools.toNat + 64 * bits (c.block.getD 0) 259 256
  let d := homeDie (c.poolAt % 2 ^ 52)
  withDie s d { dieOf s d with pinned := (dieOf s d).pinned ++ c.reserved.reverse.map (fun n =>
    { pool := c.poolAt, va := va, asn := s.core.attrs.asn.toNat, tbase := s.core.attrs.tbase, slot := n, zero := true }) }

/-- The holder's number of a hold that awaits a core's logged writes. -/
def lingering (n : Nat) : Nat := 2 ^ 20 + n

/-- The hold of a core on its SD ends with its command, and lasts while the core's gather log still has entries: the next command on
the SD sees every write of this one (R178, R119). -/
def endHold (s : State) : State :=
  { s with holds := if (sdlOf s.core 6).isEmpty then s.holds.filter (fun h => h.2.2 != s.cur && h.2.2 != lingering s.cur)
      else s.holds.map (fun h => if h.2.2 == s.cur then (h.1, h.2.1, lingering s.cur) else h) }

/-- The command's hold on its SD ends. -/
def dropHold : M Unit := modify endHold

/-- The holds of core n that only awaited its logged writes end with them. -/
def settleHold (n : Nat) (s : State) : State :=
  if (sdlOf (coreOf s n) 6).isEmpty then { s with holds := s.holds.filter (fun h => h.2.2 != lingering n) } else s

/-- Run a part after the head: a fault gives back what the command has reserved and held. -/
def undoOnFault {α : Type} (x : GatherCtx) (m : M α) : M α := fun s =>
  match m s with
  | .error (.fault f k) t =>
    let u := match (gatherUndo x) t with
      | .ok _ u => u
      | .error _ u => deferPush x { u with core := t.core }
    .error (.fault f k) (endHold { u with core := t.core })
  | o => o

/-- What the head of a command needs (R185): its pops; the reached blocks that take them, bit by block (R189); the slots that
it writes in place (R177). -/
structure HeadNeed where
  pops : Nat := 0
  taken : Nat := 0
  inPlace : List Nat := []
deriving DecidableEq, Repr

/-- The head of a command that changes an SD: the operands, the SD and pool, the command's own checks with the pops it
needs and the slots it writes in place, KV_NOSLOT and KV_LAYOUT; then the hold and the reservation: one atomic step that takes the slots off the free list and sets
their counts to 1 (R174, R178, R185). -/
def changeHead (x : GatherCtx) (check : Word → Seq → Pool → M HeadNeed) : M Cmd := do
  let sd ← engOperand .gather false x.f.xs
  let b ← engOperand .gather true x.f.xb
  let c ← gatherHead x
  if c.block.isSome then pure c
  else
    let s ← get
    if s.holds.any (fun h => h.1 == s.core.attrs.asn.toNat && h.2.1 == sd.toNat) then stall .hold
    else
      let r := gatherReach x
      let q ← headSeq x sd
      let p ← poolOf x q
      let bs ← r.read q.va 64
      let need ← check b q p
      let pops ← peekPops r p need.pops
      (pops ++ need.inPlace).forM (checkLayout x p)
      if need.pops == 0 then pure ()
      else
        r.ready ((p.va + 28, 4) :: pops.map (fun n => (p.bpt + 2 * n, 2)))
        r.write (p.va + 28) (leBytes 4 (p.freen - need.pops))
        pops.forM (fun n => r.write (p.bpt + 2 * n) (leBytes 2 1))
      modify (fun s => { s with holds := s.holds ++ [(s.core.attrs.asn.toNat, q.va, s.cur)] })
      let c ← gatherHead x
      let c := { c with block := some (bitsOfBytes bs), reserved := pops, row := need.taken, poolAt := p.id }
      saveHead .gather c
      pure c

/-- References and drops in order, in one atomic step on the pool of the command's SD, with the bytes of `w` if it has any (R174). -/
def poolStep (x : GatherCtx) (q : Seq) (w : PlanWrite) : M Unit := do
  let p ← poolOf x q
  let (counts, freed) ← countOps (gatherReach x) p w.ops [] []
  poolReady x (counts.map (fun e => (p.bpt + 2 * e.1, 2)) ++ (p.va + 28, 4) :: (List.range freed.length).map (fun i => (p.freel + 4 * (p.freen + i), 4)))
  if w.bytes.isEmpty then pure () else gatherPut x false w.marks w.va w.bytes
  let s ← get
  commitCounts (gatherReach x) p s.core.attrs.asn.toNat s.core.attrs.tbase counts freed

/-- The plan of a command once its tags are granted: `job` reads all that it needs and gives the writes (R185). -/
def makePlan (x : GatherCtx) (job : Seq → Pool → Cmd → M (List PlanWrite)) : M Unit := do
  let sd ← engOperand .gather false x.f.xs
  let c ← gatherHead x
  match c.block.bind (Seq.parse sd.toNat) with
  | none => raise x.fault
  | some q =>
    let p ← poolOf x q
    let ws ← job q p c
    let c ← gatherHead x
    saveHead .gather { c with plan := some ws }

/-- One planned write, or one step on the pool. -/
def planStep (x : GatherCtx) (w : PlanWrite) : M Unit := do
  if w.ops.isEmpty then gatherPut x w.add w.marks w.va w.bytes
  else
    let c ← gatherHead x
    match c.block.bind (Seq.parse 0) with
    | some q => poolStep x q w
    | none => raise x.fault

/-- Perform the planned writes that remain, one after the other (R179, R180). -/
def runPlan (x : GatherCtx) : List PlanWrite → M Unit
  | [] => pure ()
  | w :: rest => do
    let s ← get
    if w.release && !(sdlOf s.core 6).isEmpty then throw (.wait .drain true)
    else
      keptPart (planStep x w)
      let c ← gatherHead x
      let reserved := match w.slot with
        | some n => c.reserved.filter (· != n)
        | none => c.reserved
      saveHead .gather { c with plan := some rest, reserved := reserved }
      runPlan x rest

/-- The writes of a command whose plan is made. -/
def performPlan (x : GatherCtx) : M Unit := do
  let c ← gatherHead x
  runPlan x (c.plan.getD [])

/-- The end of a command that fills tiles: its tag actions and its count; one that a cancelled or abandoned phase has left behind
has neither (R182, R360). -/
def gatherEnd (x : GatherCtx) (ts : List Nat) : M Unit := do
  let c ← gatherHead x
  if c.orphan then pure ()
  else
    ts.forM (tagEndDst x.ph x.f.tag.toNat)
    countCnt x.f.cnt 4 x.ph

/-- A gather command at the head of its queue; outside GKV, GEMB, GLEN and GBMINV a command of the executing phase is set
aside to the commit (R181), where it also pops its x62 operand: the model's choice (log entry 70). -/
def gatherRun (opc : Nat) (i : Instr) (f : GM) (aside : Bool) (body : GatherCtx → M Unit) : Meaning := runE .gather (do
  let s ← get
  let c := headOr s .gather i
  let ph := inPhase s c
  if ph && aside then modCore (modExec (fun e => { e with deferred := e.deferred ++ [(.gather, c)] }))
  else body { f := f, i := i, fault := gatherFault opc, ph := ph }
  pure .done)

/-- A command that changes an SD (R178): its head, its source span's tags, its reads and pool changes, its writes, the end
of its hold, its count. `span` gives the bytes of the source span. -/
def changeRun (opc : Nat) (i : Instr) (f : GM) (check : GatherCtx → Word → Seq → Pool → M HeadNeed)
    (span : Word → Pool → Nat) (job : GatherCtx → Word → Seq → Pool → Cmd → M (List PlanWrite)) :
    Meaning := gatherRun opc i f true (fun x => do
  let c ← changeHead x (check x)
  let b ← engOperand .gather true x.f.xb
  if c.plan.isNone then
    let ts ← undoOnFault x (keptPart (do
      let p ← match c.block.bind (Seq.parse 0) with
        | some q => poolOf x q
        | none => raise x.fault
      gatherSpan x (span b p)))
    undoOnFault x (gatherTags x false ts)
    undoOnFault x (keptPart (makePlan x (job x b)))
    ts.forM (tagEndSrc x.ph x.f.tag.toNat)
  else pure ()
  undoOnFault x (performPlan x)
  dropHold
  countCnt f.cnt 4 x.ph)

end Sys2Proof.Machine
end

