-- ==== Sys2Proof/Machine/LoomOps.lean ====
section
/-! DEFINITION. The shared operations of the Loom, the Heddle and the NSM (spec 17_loom R368 to R375, R386 to R388): task
ids and slots, messages between islands, answers, the end of a task, KV attachments and their drops. -/

namespace Sys2Proof.Machine

/-! ### Task ids and node ids (R368, R389) -/

/-- ISLAND of a task or node id. -/
def idIsland (t : BitVec 32) : Nat := bits t 31 22
/-- DIE of a task or node id. -/
def idDie (t : BitVec 32) : Nat := bits t 21 20
/-- SLOT of a task id. -/
def idSlot (t : BitVec 32) : Nat := bits t 19 4
/-- GEN of a task id. -/
def idGen (t : BitVec 32) : Nat := bits t 3 0
/-- INDEX of a node id. -/
def idIndex (t : BitVec 32) : Nat := bits t 19 0
/-- No task, no node. -/
def noId : BitVec 32 := 0xFFFFFFFF#32

/-- The task record in a slot of a die. -/
def taskOf (s : State) (die slot : Nat) : Task := mget {} (dieOf s die).tasks slot
/-- Replace a task record. -/
def withTask (die slot : Nat) (t : Task) (s : State) : State :=
  withDie s die { dieOf s die with tasks := mset {} (dieOf s die).tasks slot t }
/-- Change a task record. -/
def modTask (die slot : Nat) (f : Task → Task) (s : State) : State := withTask die slot (f (taskOf s die slot)) s

/-- The id of a slot with its current generation (R368). -/
def taskId (s : State) (die slot : Nat) : BitVec 32 :=
  BitVec.ofNat 32 (s.host.island.toNat * 2 ^ 22 + die * 2 ^ 20 + slot * 2 ^ 4 + (taskOf s die slot).gen)

/-- A task id of this island is stale (R368). -/
def staleTask (s : State) (t : BitVec 32) : Bool :=
  let x := taskOf s (idDie t) (idSlot t)
  x.state == 0 || x.gen != idGen t

/-- The lowest number below n that an ascending list does not hold (which free slot, record or place is taken is the
model's choice, log entry 12). -/
def firstFree (n : Nat) (used : List Nat) : Option Nat :=
  let k := used.foldl (fun k u => if u == k then k + 1 else k) 0
  if k < n then some k else none

/-- The slot has been retired (R403, R406). -/
def slotOff (s : State) (die slot : Nat) : Bool := mget false (dieOf s die).slotsOff slot

/-- The numbers of two ascending lists, ascending. -/
def mergeUsed (xs ys : List Nat) : List Nat :=
  ys.foldl (fun l y => if l.contains y then l else l.takeWhile (· < y) ++ y :: l.dropWhile (· < y)) xs

/-- A FREE slot of a die. -/
def freeSlot (s : State) (die : Nat) : Option Nat :=
  firstFree 65536 (mergeUsed (((dieOf s die).tasks.filter (fun p => p.2.state != 0 || p.2.claimed)).map (·.1))
    ((dieOf s die).slotsOff.map (·.1)))

/-- FLAGS of Table 17.1. -/
def Task.flags (t : Task) : Nat :=
  t.pflags.toNat + (if t.cancel then 16 else 0) + (if t.shedtask then 32 else 0) + (if t.batch then 64 else 0)

/-- The task has ended: DONE or CANCELLED. -/
def Task.over (t : Task) : Bool := t.state == 6 || t.state == 7

/-! ### Status codes (Table 17.4) -/

/-- A result: its status in bits 63:55 over its fields (R373). -/
def loomWord (status fields : Nat) : Word := BitVec.ofNat 64 (status * 2 ^ 55 + fields)

/-- A fault of the Loom, the Heddle or the NSM (Table 18.2). -/
def loomFault (c : FaultCode) : FaultInfo := { code := c, engine := 7 }

/-- An instruction that names a retired Loom slot or NSM record (R403): no memory error record exists for its detail words, which are
free (log entry 64). -/
def retiredFault (s : State) : FaultInfo := { loomFault .memE3 with w4 := Config.freeValue 64 s.fresh, w5 := Config.freeValue 64 (s.fresh + 1) }
/-- The free values of a fault have been taken. -/
def spendFresh (n : Nat) (s : State) : State := { s with fresh := s.fresh + n }

/-- A self-test of the Loom table (unit 8) or of the NSM (unit 7) of a die runs: the unit waits at its next command (Table 18.8). -/
def unitTested (s : State) (unit die : Nat) : Bool := s.selfTests.any (fun t => t.since != s.pick && t.unit == unit && t.die == die)

/-! ### Messages between islands (R313, R317, R373) -/

/-- How a message of a node leaves the island: its port, or the cause of Table 14.5. It enters the mesh from the north. -/
def routeNode (st : Strait) (die node island : Nat) : Except Nat Nat :=
  let st := st.inForce
  let port := islandPort st die island
  if mget false st.fencedIslands island then .error 1
  else if 16 ≤ port then .error 0
  else
    let pd := port / 4
    let first := if pd == die then 228 + port % 4 else 224 + pd
    if !meshReaches st 64 (nodeRouter die node) 3 first || mget false st.fencedPorts port
        || !bridgeReaches st die port then .error 1
    else .ok port

/-- The content of a MSG flit, in the words of its sector; the layout is the model's own (log entry 13). -/
def packWords (ws : List Word) : BitVec 512 := BitVec.ofNat 512 (leNat (wordBytes ws))
/-- Word k of a message. -/
def msgWord (v : BitVec 512) (k : Nat) : Word := v.extractLsb' (64 * k) 64

/-- Injection of a message is held (R318, R323). -/
def msgHeld (st : Strait) (port : Nat) : Bool :=
  st.routing != .normal || mget false st.stopped (8 * port + 7) || mget false st.testing port

/-- Send a message from a node of a die, or hold it there. Keys of `node` are 256 × die + node. -/
def injectMsg (node island : Nat) (fl : Flit) (s : State) : State :=
  let st := s.strait
  match routeNode st (node / 256) (node % 256) island with
  | .error cause => { s with loomWaits := s.loomWaits.map (fun w => if w.tag == fl.tag.toNat then { w with fail := some cause } else w) }
  | .ok port =>
    if msgHeld st port then { s with strait := { st with heldMsgs := st.heldMsgs ++ [(node, island, fl)] } }
    else { s with strait := { st with sent := st.sent ++ [(.msg, { fl with out := BitVec.ofNat 4 port })] } }

/-- A flit leaves by its port on its channel, or waits there (R318, R323). -/
def emitAt (kind : FlitKind) (fl : Flit) (s : State) : State :=
  let st := s.strait
  let key := 8 * fl.out.toNat + fl.vc.toNat
  if st.routing != .normal || mget false st.stopped key || mget false st.testing fl.out.toNat then
    { s with strait := { st with heldFlits := st.heldFlits ++ [(kind, fl)] } }
  else { s with strait := { st with sent := st.sent ++ [(kind, fl)] } }

/-- The master's pick value as this island estimates it (R319). -/
def masterEstimate (s : State) : Word :=
  if s.strait.pickMaster then s.pick else s.strait.masterPick + (s.pick - BitVec.ofNat 64 s.strait.lastTime)

/-- A TIME flit leaves by a port, with the estimate as it then stands, or the port owes it (R318, R319, R323); the measured link delay
is a free value. -/
def sendTime (port : Nat) (s : State) : State :=
  let st := s.strait
  if mget false st.fencedPorts port then s
  else if msgHeld st port then { s with strait := { st with heldTimes := (st.heldTimes ++ [port]).eraseDups } }
  else
    let delay : BitVec 64 := Config.freeValue 64 s.fresh
    let fl : Flit := { vc := 7, src := s.host.island, score := 1023, opnd := delay ++ masterEstimate s, out := BitVec.ofNat 4 port }
    { s with fresh := s.fresh + 1, strait := { st with sent := st.sent ++ [(.time, fl)] } }

/-- Messages, replies and TIME flits held at their nodes and ports try again. -/
def flushMsgs (s : State) : State :=
  let st := s.strait
  let s := { s with strait := { st with heldMsgs := [], heldFlits := [], heldTimes := [] } }
  let s := st.heldFlits.foldl (fun s x => emitAt x.1 x.2 s) s
  let s := st.heldMsgs.foldl (fun s m => injectMsg m.1 m.2.1 m.2.2 s) s
  st.heldTimes.foldl (fun s p => sendTime p s) s

/-- A message to another island with a tag: words of its content, the first its operation. -/
def msgFlit (s : State) (island tag : Nat) (ws : List Word) : Flit :=
  { vc := 7, dst := BitVec.ofNat 10 island, src := s.host.island, score := 1023, tag := BitVec.ofNat 32 tag, size := 6, data := packWords ws }

/-- Ask another island; `cont` is what its reply continues. -/
def askIsland (die node island op : Nat) (args : List Word) (cont : LoomCont) (s : State) : State :=
  let tag := s.strait.nextTag
  let fl := msgFlit s island tag (BitVec.ofNat 64 op :: args)
  injectMsg (256 * die + node) island fl { s with
    loomWaits := s.loomWaits ++ [{ tag, node := 256 * die + node, island, op, arg := args.headD 0, cont }]
    strait := { s.strait with nextTag := tag + 1 } }

/-- Give a client its result, or the fault found (R373, R393, R198). -/
def answerClient (die node : Nat) (cl : Client) (r : Except FaultInfo Word) (s : State) : State :=
  match cl with
  | .island i tag =>
    let ws := match r with
      | .ok v => [0, v]
      | .error f => [BitVec.ofNat 64 (256 * f.code.code + 2 ^ 16 * f.cause), f.addr]
    injectMsg (256 * die + node) i (msgFlit s i tag ws) s
  | .core n tk =>
    match r, (coreOf s n).sh.pending.find? (fun p => p.ticket == tk && !p.ready) with
    | .error f, some _ => answer n tk (fun p => { p with ready := true, fault := some f, redo := none }) s
    | .ok v, some p =>
      if p.toQueue then
        let c := coreOf s n
        postReply n { src := 2, value := v, flag := p.flag }
          (withCore s n { c with sh := { c.sh with pending := c.sh.pending.filter (fun x => x.ticket != tk) } })
      else answer n tk (fun p => { p with ready := true, value := v, redo := none }) s
    | _, none => s

/-- The fault code of a number of Table 18.1 that a reply can carry. -/
def replyFault (n : Nat) : FaultCode :=
  if n == 0x0B then .badOperand else if n == 0x31 then .memE3 else if n == 0x40 then .loomFull else if n == 0x41 then .loomStale else .remoteFail

/-! ### Waiting takes (R371, R372, R376) -/

/-- Task a ranks above task b (R371). -/
def ranksAbove (a b : Nat × Task) : Bool :=
  b.2.key.toNat < a.2.key.toNat || (a.2.key == b.2.key && (a.2.stamp < b.2.stamp || (a.2.stamp == b.2.stamp && a.1 < b.1)))

/-- The highest-ranked QUEUED task of a die under a class mask. -/
def bestTask (s : State) (die mask : Nat) : Option Nat :=
  let best := (dieOf s die).tasks.foldl (fun (b : Option (Nat × Task)) p =>
    if p.2.state == 1 && mask.testBit p.2.cls && !slotOff s die p.1 then
      match b with
      | none => some p
      | some q => if ranksAbove p q then some p else b
    else b) none
  best.map (·.1)

/-- The task that a take of a die chooses, on this die first (R372). -/
def chooseTask (s : State) (die mask : Nat) : Option (Nat × Nat) :=
  [0, 1, 2, 3].foldl (fun (b : Option (Nat × Nat)) k => match b with
    | some _ => b
    | none => (bestTask s ((die + k) % 4) mask).map (fun slot => ((die + k) % 4, slot))) none

/-- The formed shed whose task stands in a slot. -/
def formedOf (s : State) (die slot : Nat) : Option Formed := (dieOf s die).formed.find? (fun f => f.slot == slot)

/-- The task goes to a core's TAKE (R376): for a shed task the core's L1 data cache drops the descriptor's lines, and a reply
entry brings its address and row count; the result is held with the reply. -/
def giveTask (core tk die slot : Nat) (s : State) : State :=
  let t := taskOf s die slot
  let id := taskId s die slot
  let s := modTask die slot (fun t => { t with state := 4 }) s
  let v := loomWord 0 (id.toNat + t.cls * 2 ^ 32 + (if t.shedtask then 2 ^ 36 else 0))
  match (if t.shedtask then formedOf s die slot else none) with
  | none => answer core tk (fun p => { p with ready := true, value := v }) s
  | some f =>
    let key := Loc.key { host := f.host, addr := f.addr, nlc := f.nlc }
    let now := match peekLeaf s f.asn f.tbase f.va with
      | some (pte, _) => (leafLoc pte false f.va).key
      | none => key
    let c := coreOf s core
    let s := withCore s core { c with
      l1d := c.l1d.filter (fun x => !(key ≤ x.key && x.key < key + 64) && !(now ≤ x.key && x.key < now + 64))
      sh := { c.sh with pending := c.sh.pending.map (fun p => if p.ticket == tk then { p with value := v } else p) } }
    postReply core { src := 1, value := BitVec.ofNat 64 (t.payload.toNat % 2 ^ 52 + f.members.length * 2 ^ 52), ticket := some tk } s

/-- Waiting TAKE.Ws are served in the order in which they executed (R376). -/
def serveTakes (s : State) : State :=
  s.takes.foldl (fun s w => match chooseTask s (dieOfCore w.core) w.mask with
    | some (die, slot) =>
      giveTask w.core w.ticket die slot { s with takes := s.takes.filter (fun x => !(x.core == w.core && x.ticket == w.ticket)) }
    | none => s) s

/-! ### The parent's count (R375) -/

/-- A parent of this island counts one more child, linked last; none when it may not. -/
inductive CountChild where
  | ok (s : State)
  | stale
  | ended
  | full

/-- Count a child at its parent's Loom, atomically on the parent's slot (R375). -/
def countChild (parent child : BitVec 32) (s : State) : CountChild :=
  let t := taskOf s (idDie parent) (idSlot parent)
  if staleTask s parent then .stale
  else if t.over || t.cancel then .ended
  else if t.pendingN == 65535 then .full
  else .ok (modTask (idDie parent) (idSlot parent) (fun t => { t with pendingN := t.pendingN + 1, children := t.children ++ [child] }) s)

/-- A parent of this island is told that a child has ended (R375). -/
def tellParent (parent : BitVec 32) (cancelled : Bool) (s : State) : State :=
  if staleTask s parent then s
  else modTask (idDie parent) (idSlot parent) (fun t => { t with
    pendingN := t.pendingN - 1
    donec := if cancelled then t.donec else min (t.donec + 1) 65535
    cancc := if cancelled then min (t.cancc + 1) 65535 else t.cancc }) s

/-! ### Attachments and their drops (R386 to R388) -/

/-- The holder's number of the drops of a task in `holds`: no core has it. -/
def dropHolder (die slot : Nat) : Nat := 4096 + 65536 * die + slot

/-- How a Loom reaches the KV tables under a translation (R386, R388): at their home points; `e1` says that an E1 mark is
consumption. -/
def loomReach (req : Req) (e1 : Bool) : Reach :=
  let spans := fun (va n : Nat) => (List.range ((va + n + 63) / 64 - va / 64)).map (fun k =>
    let a := max va (64 * (va / 64 + k))
    (a, min (va + n) (64 * (va / 64 + k + 1)) - a))
  { fault := req.fault
    read := fun va n => do
      let parts ← (spans va n).mapM (fun p => do
        let l ← translate req p.1 .read
        let r ← unitRead { req.fault with addr := BitVec.ofNat 64 p.1 } req.home 232 l
        checkE3 req.fault (BitVec.ofNat 64 p.1) r
        if r.marks.poison || (e1 && r.marks.e1) then raise (memFault req.fault .memE2 (BitVec.ofNat 64 p.1) r.marks)
        else pure (sliceBytes r.data (p.1 % 64) p.2))
      pure parts.flatten
    write := fun va bs => (spans va bs.length).forM (fun p => do
      let l ← translate req p.1 .write
      unitWrite { req.fault with addr := BitVec.ofNat 64 p.1 } req.home 232 l (maskOf (p.1 % 64) p.2) (placeBytes (p.1 % 64) ((bs.drop (p.1 - va)).take p.2)) {})
    place := fun va => translate req va .read
    ready := fun ws => ws.forM (fun w => (spans w.1 w.2).forM (fun p => do
      let l ← translate req p.1 .write
      unitGate { req.fault with addr := BitVec.ofNat 64 p.1 } req.home 232 l
      sectorFree true l)) }

/-- An attachment record (R386): its SD, ASN, J, NB and the next record. -/
structure Attachment where
  sd : Nat
  asn : Nat
  j : Nat
  nb : Nat
  next : Nat
deriving DecidableEq, Repr

/-- The record in 16 bytes. -/
def Attachment.of (bs : List Byte) : Attachment :=
  let v := leNat bs
  { sd := v % 2 ^ 52, asn := v / 2 ^ 52 % 2 ^ 12, j := v / 2 ^ 64 % 2 ^ 32, nb := v / 2 ^ 96 % 2 ^ 16, next := v / 2 ^ 112 % 2 ^ 16 }

/-- The 16 bytes of a record. -/
def Attachment.bytes (a : Attachment) : List Byte :=
  leBytes 16 (a.sd + a.asn * 2 ^ 52 + a.j * 2 ^ 64 + a.nb * 2 ^ 96 + a.next * 2 ^ 112)

/-- Run a part that acts for the device and not for a core: if it stops, the state is as before but for what the device
recorded. -/
def deviceTry (m : M Unit) (s : State) : Option Stop × State :=
  match m s with
  | .ok _ s' => (none, s')
  | .error e s' => (some e, { s' with core := s.core })

/-- The request of a task's drops (R388). -/
def dropReq (die asn tbase : Nat) : Req :=
  { eng := 8, core := 1023, asn := asn, tbase := tbase, fault := loomFault .badOperand, cached := false, die := some die }

/-- The drop of block j of an attachment (R388, R190), with its SD held. -/
def dropBlock (die : Nat) (side : AttSide) (a : Attachment) (j : Nat) : M Unit := do
  let r := loomReach (dropReq die a.asn side.tbase) false
  let q ← readSeq r (BitVec.ofNat 64 a.sd)
  let p ← readPool r side.kvpools q.pool
  let slot ← heldEntry r q p j
  let (counts, freed) ← countOps r p [(slot, true)] [] []
  commitCounts r p a.asn side.tbase counts freed

/-- The blocks of one attachment from block k on; a block that faults is skipped and counted (R388). The answer is the block
at which the drops wait, if they do. -/
def dropBlocksFrom (die : Nat) (side : AttSide) (a : Attachment) : Nat → Nat → State → Option Nat × State
  | 0, _, s => (none, s)
  | n + 1, k, s => match deviceTry (dropBlock die side a (a.j + k)) s with
    | (none, s) => dropBlocksFrom die side a n (k + 1) s
    | (some (.fault _ _), s) =>
      let c := coreOf s 1023
      let s := withCore s 1023 { c with refused := c.refused.filter (fun x => !(x.1 == 8 && x.2.1 == a.asn)) }
      dropBlocksFrom die side a n (k + 1) (addCounter die 14 1 s)
    | (some _, s) => (some k, s)

/-- Every drop of a task has been performed: its records are free, and KVHEAD is none (R388). -/
def endDrops (die slot : Nat) (s : State) : State :=
  let d := dieOf s die
  let s := withDie s die { d with attUsed := (taskOf s die slot).dropped.foldl (fun m i => mset {} m i {}) d.attUsed }
  modTask die slot (fun t => { t with kvhead := noId, dropAt := none, dropRec := none, dropped := [] }) s

/-- The drops of a task in a slot go on, attachment by attachment, each with its SD held (R178, R388). An attachment record
that cannot be read ends the list (log entry 14). -/
def dropTask (die slot : Nat) : Nat → State → State
  | 0, s => s
  | fuel + 1, s =>
    let t := taskOf s die slot
    match t.dropAt with
    | none => s
    | some k =>
      let d := dieOf s die
      let i := t.dropRec.getD t.kvhead.toNat
      if i == 0xFFFFFFFF || i == 0xFFFF then endDrops die slot s
      else
        let (r, s) := readSector true none 0 ((d.attBase + 16 * i) / 64) s
        if r.e3 || r.marks.poison then
          endDrops die slot (addCounter die 14 1 (modTask die slot (fun t => { t with dropped := t.dropped ++ [i] }) s))
        else
          let a := Attachment.of (sliceBytes r.data ((d.attBase + 16 * i) % 64) 16)
          let side := mget {} d.attUsed i
          let me := dropHolder die slot
          if s.holds.any (fun h => h.1 == a.asn && h.2.1 == a.sd && h.2.2 != me) then s
          else
            let s := { s with holds := s.holds.filter (fun h => h.2.2 != me) ++ [(a.asn, a.sd, me)] }
            match dropBlocksFrom die side a (a.nb - k) k s with
            | (some k, s) => modTask die slot (fun t => { t with dropAt := some k }) s
            | (none, s) =>
              let s := { s with holds := s.holds.filter (fun h => h.2.2 != me) }
              dropTask die slot fuel (modTask die slot (fun t => { t with
                dropRec := some a.next, dropAt := some 0, dropped := t.dropped ++ [i] }) s)

/-! ### The end of a task (R370, R375, R377, R385) -/

/-- The DONE whose task has its drops performed or deferred and its parent told receives its result (R377). -/
def finishDone (die slot : Nat) (s : State) : State :=
  let t := taskOf s die slot
  match t.ending with
  | some (cl, v) =>
    if t.dropAt.isNone && t.told then answerClient die 232 cl (.ok v) (modTask die slot (fun t => { t with ending := none }) s)
    else s
  | none => s

/-- A slot that may become FREE (Table 17.2). A JOIN that waits on the task is answered first. -/
def mayFree (s : State) (die slot : Nat) : Bool :=
  let t := taskOf s die slot
  t.over && t.pendingN == 0 && t.told && t.dropAt.isNone && t.ending.isNone && t.shed.isNone
    && !s.joins.any (fun j => j.task == taskId s die slot)

/-- A task that a cancel for another island has handled: FREE, or kept by its children, by its shed or by its own DONE (R384). -/
def cancelHandled (s : State) (id : BitVec 32) : Bool :=
  let t := taskOf s (idDie id) (idSlot id)
  staleTask s id || !t.over || t.pendingN != 0 || t.shed.isSome || slotOff s (idDie id) (idSlot id)

/-- A cancel for another island whose tasks have all been handled, its own remote messages included, is answered (R384). -/
def serveGroups (s : State) : State :=
  s.groups.foldl (fun s g =>
    if g.left == 0 && g.tasks.all (cancelHandled s) then
      answerClient 0 232 g.client (.ok 0) { s with groups := s.groups.filter (fun x => x.id != g.id) }
    else s) s

/-- The slot becomes FREE: its generation rises, and a parent of this island no longer links it (R368, R370). -/
def freeTask (die slot : Nat) (s : State) : State :=
  let t := taskOf s die slot
  let id := taskId s die slot
  let s := if t.parent != noId && idIsland t.parent == s.host.island.toNat && !staleTask s t.parent then
      modTask (idDie t.parent) (idSlot t.parent) (fun p => { p with children := p.children.filter (· != id) }) s
    else s
  serveGroups (withTask die slot { gen := (t.gen + 1) % 16 } s)

/-- Attachment records of a die: the bound on a task's list. -/
def attRecords : Nat := 65535

/-- The drops of an ended task are performed as far as they can be, and its DONE answered. -/
def settleTask (die slot : Nat) (s : State) : State := finishDone die slot (dropTask die slot (attRecords + 1) s)

/-- A task ends in one step (R370): its parent is told, its drops begin or, for a member of a formed shed, are deferred. -/
def endTask (die slot : Nat) (cancelled : Bool) (done : Option (Client × Word)) (s : State) : State :=
  let t := taskOf s die slot
  let id := taskId s die slot
  let here := t.parent == noId || idIsland t.parent == s.host.island.toNat
  let s := withTask die slot { t with
    state := if cancelled then 7 else 6
    told := here
    ending := done
    dropAt := if t.shed.isSome then none else some 0 } s
  let s := if t.parent == noId then s
    else if here then tellParent t.parent cancelled s
    else askIsland die 232 (idIsland t.parent) 2
      [t.parent.setWidth 64, id.setWidth 64, if cancelled then 1 else 0] (.told die slot) s
  settleTask die slot s

/-- A shed task has ended (R385): the members still SHED become CANCELLED, the deferred drops are performed, the descriptor
slot is free, and every member that may becomes FREE. -/
def endShed (die slot : Nat) (s : State) : State :=
  match formedOf s die slot with
  | none => s
  | some f =>
    let s := f.members.foldl (fun s m => if (taskOf s die m).state == 3 then endTask die m true none s else s) s
    let s := f.members.foldl (fun s m =>
      settleTask die m (modTask die m (fun t => { t with shed := none, dropAt := some 0 }) s)) s
    let d := dieOf s die
    let s := withDie s die { d with
      formed := d.formed.filter (fun x => x.slot != slot)
      descUsed := mset false d.descUsed (256 * f.cls + f.desc) false }
    f.members.foldl (fun s m => if mayFree s die m then freeTask die m s else s) s

end Sys2Proof.Machine
end

