-- ==== Sys2Proof/Machine/Paging.lean ====
section
/-! DEFINITION. Answers to page requests and the replay of store side logs (spec 06_translation R117, R119, R120), pages
brought in by the migration unit (R122, R123) and sequences swapped out (R124, R125). -/

namespace Sys2Proof.Machine

/-! ### Replay of store side logs (R119, R120) -/

/-- The request of a replayed entry: a fresh walk for the entry's engine. -/
def replayReq (s : State) (n : Nat) (e : SdlEntry) : Req :=
  { eng := e.engine, core := n, asn := e.asn, tbase := (coreOf s n).attrs.tbase, cached := false,
    fault := { code := .misaligned, engine := e.engine, precise := false } }

/-- One entry of the log of core n: its write, or its reduction with memory as it now stands. -/
def replayEntry (n : Nat) (e : SdlEntry) : M Unit := do
  let s ← get
  let r := replayReq s n e
  let k := if e.op == 0 then Kind.replay else .combine
  match ← tryTranslate r e.va k with
  | .error m =>
    noteMiss r k m false
    stall .pageMiss
  | .ok l =>
    sectorFree true l
    if e.op == 0 then modify (locWrite l e.mask e.data e.marks)
    else
      let s ← get
      match (reduceAt l (e.op - 1) e.mask e.data e.marks s) with
      | (none, t) => set t
      | (some mk, t) =>
        set t
        throw (.fault (memFault r.fault .memE3 (BitVec.ofNat 64 e.va) mk) true)

/-- A write that leaves the log, performed or not, lets bytes count on its channel: with the last earlier write through it that is still
logged, or that is not acknowledged, else on the pointer (R158). -/
def leaveLog (performed : Bool) (n : Nat) (before : List SdlEntry) (e : SdlEntry) (s : State) : List SdlEntry × State :=
  let bs := e.bytes performed
  match e.ch with
  | none => (before, s)
  | some k =>
    if before.any (fun b => b.ch == some k) then (addLast (fun b => b.ch == some k) (·.park bs) before, s)
    else if s.strait.waiting.any (·.outstanding n k) then
      (before, { s with strait := { s.strait with waiting := addLast (·.outstanding n k) (·.park bs) s.strait.waiting } })
    else (before, addPointer n k bs s)

/-- The entries of core n for one page, in log order; an engine whose entry misses again or waits keeps that entry and those
behind it (`held`: such engines). The answer is what stays in the log. -/
def replayLog (n asn page : Nat) (held : List Nat) (kept : List SdlEntry) : List SdlEntry → State → List SdlEntry × State
  | [], s => (kept, s)
  | e :: rest, s =>
    if e.asn != asn || e.va / 65536 != page || held.contains e.engine then replayLog n asn page held (kept ++ [e]) rest s
    else match deviceTry (replayEntry n e) s with
      | (none, s) =>
        let (kept, s) := leaveLog true n kept e s
        replayLog n asn page held kept rest s
      | (some (.fault f _), s) =>
        let (kept, s) := leaveLog false n kept e s
        replayLog n asn page held kept rest (faultOn n { f with precise := false } s)
      | (some _, s) => replayLog n asn page (e.engine :: held) (kept ++ [e]) rest s

/-- The memory unit replays a page's entries on every core of the island (R120); a saved context's log waits for its restore. -/
def replayPage (asn page : Nat) (s : State) : State :=
  ((coreNumbers s).filter (· < 768)).foldl (fun s n =>
    if (coreOf s n).sdl.isEmpty then s
    else
      let (kept, s) := replayLog n asn page [] [] (coreOf s n).sdl s
      settleHold n (withCore s n { coreOf s n with sdl := kept })) s

/-- A page with logged writes of a core for which no answer is awaited: its entries replay. -/
def replayDue (s : State) (n : Nat) : List (Nat × Nat) :=
  (((coreOf s n).sdl.map (fun e => (e.asn, e.va / 65536))).eraseDups).filter (fun p =>
    !s.pageReqs.any (fun q => q.asn == p.1 && q.page == p.2) && !s.bringIns.any (fun b => b.asn == p.1 && b.page == p.2))

/-! ### Answers (R117) -/

/-- The page and ASN of a value written to PRQ_DONE (R117). -/
def donePage (v : Word) : Nat × Nat := (bits v 15 4, bits v 51 16)

/-- The outstanding request that an answer names. -/
def namedRequest (s : State) (v : Word) : Option PageReq :=
  s.pageReqs.find? (fun q => q.written && q.asn == (donePage v).1 && q.page == (donePage v).2)

/-- The request is answered: a request that waited for room in the ring is written (R116). -/
def closeRequest (q : PageReq) (s : State) : State :=
  flushPageReqs { s with pageReqs := s.pageReqs.filter (fun x => !(x.asn == q.asn && x.page == q.page)) }

/-- MAPPED: the requesters walk again, each at its next turn; the page's logged writes replay (R120). -/
def answerMapped (v : Word) (s : State) : State :=
  let s := match namedRequest s v with
    | some q => closeRequest q s
    | none => s
  if s.pageReqs.any (fun q => q.asn == (donePage v).1 && q.page == (donePage v).2) then s
  else replayPage (donePage v).1 (donePage v).2 s

/-- The log without the entries that a test names; none of them is performed. -/
def dropLog (gone : SdlEntry → Bool) (n : Nat) (kept : List SdlEntry) : List SdlEntry → State → List SdlEntry × State
  | [], s => (kept, s)
  | e :: rest, s =>
    if gone e then
      let (kept, s) := leaveLog false n kept e s
      dropLog gone n kept rest s
    else dropLog gone n (kept ++ [e]) rest s

/-- The imprecise PAGE_FAULT of an engine whose logged writes to a page are discarded (R120). -/
def discardLog (n asn page cause eng : Nat) (s : State) : State :=
  let c := coreOf s n
  let gone := c.sdl.filter (fun e => e.engine == eng && e.asn == asn && e.va / 65536 == page)
  match gone with
  | [] => s
  | e :: _ =>
    faultOn n { code := .pageFault, engine := eng, precise := false, addr := BitVec.ofNat 64 e.va, cause := cause,
                w4 := BitVec.ofNat 64 gone.length }
      (let (kept, s) := dropLog (fun e => e.engine == eng && e.asn == asn && e.va / 65536 == page) n [] c.sdl s
       settleHold n (withCore s n { coreOf s n with sdl := kept }))

/-- REFUSED: every waiting requester raises PAGE_FAULT at its next turn; a context that is not on a core translates again
(R118); the page's logged writes are discarded (R120). -/
def answerRefused (v : Word) (s : State) : State :=
  match namedRequest s v with
  | none => s
  | some q =>
    let s := closeRequest q s
    let s := q.waiters.foldl (fun s w =>
      if w.1 < 1024 then
        let c := coreOf s w.1
        withCore s w.1 { c with refused := c.refused ++ [(w.2, q.asn, q.page, q.cause)] }
      else s) s
    ((coreNumbers s).filter (· < 768)).foldl (fun s n => [2, 3, 5, 6].foldl (fun s g => discardLog n q.asn q.page q.cause g s) s) s

/-- PAGE_REQUEST_MAPPED (R117, R120): also the turn by which entries of a page that is not awaited replay. -/
def execPageRequestMapped : Meaning := runM (modify fun s => answerMapped s.input.value s)
/-- PAGE_REQUEST_REFUSED (R117, R120). -/
def execPageRequestRefused : Meaning := runM (modify fun s => answerRefused s.input.value s)

/-! ### Rings of frames (R123, R124) -/

/-- The ring holds no entry. -/
def Ring.isEmpty (r : Ring) : Bool := r.head == r.tail
/-- How many entries it holds. -/
def Ring.count (r : Ring) : Nat := (r.head - r.tail).toNat
/-- The read of the frame address at the tail. -/
def readFrameAt (r : Ring) (s : State) : Nat × State :=
  let (v, s) := devRead (r.slot r.tail 8) 8 s
  (v / 65536 * 65536, s)
/-- The frame address at the tail. -/
def frameAt (s : State) (r : Ring) : Nat := (readFrameAt r s).1
/-- The tail passes one entry. -/
def Ring.take (r : Ring) : Ring := { r with tail := r.tail + 1 }
/-- Write a frame address at the head. -/
def pushFrame (r : Ring) (a : Nat) (s : State) : Ring × State :=
  ({ r with head := r.head + 1 }, devWrite 16 (r.slot r.head 8) (leBytes 8 a) s)

/-! ### The migration unit (R123) -/

/-- KIND from its number. -/
def Kind.ofCode (n : Nat) : Kind := if n == 1 then .write else if n == 2 then .exec else if n == 3 then .atomic else if n == 4 then .replay else .read

/-- Copy a 64 KiB host page into a frame under a code; a line that CXL returns poisoned is stored with the poison mark (R91,
R123). -/
def copyIn (host nlc frame : Nat) (s : State) : State :=
  (List.range 1024).foldl (fun s k =>
    let (r, s) := locRead false 6 { host := true, addr := host + 64 * k, nlc := nlc } s
    fillSector (frame / 64 + k) r.data (some nlc) r.marks s) s

/-- The entry of a page brought in: V = 1, LEAF = 1, H = LOC = PORT = A = D = 0, the frame; NLC, R, W, X and SW kept (R123). -/
def broughtEntry (pte frame : Nat) : Nat :=
  pteNlc pte * 2 ^ 57 + frame + pteField pte 14 8 * 2 ^ 8 + 2 ^ 5 + pteField pte 4 2 * 2 ^ 2 + 1

/-- MIGRATION_BRING_IN (R123): the bring-in in place n. With an empty free-frame ring a page request with CAUSE 1; with the
port down, or no room for the host frame's release, it waits. -/
def execMigrationBringIn : Meaning := runM (do
  let s ← get
  match s.bringIns[s.input.n]? with
  | none => pure ()
  | some b =>
    let d := b.die
    let x := dieOf s d
    let rest := s.bringIns.eraseIdx s.input.n
    match peekLeaf s b.asn b.tbase (65536 * b.page) with
    | none => set { s with bringIns := rest }
    | some (pte, a) =>
      if pteBit pte 0 || !pteBit pte 1 || !pteBit pte 56 then set { s with bringIns := rest }
      else
        let port := if pteBit pte 55 then 1 else 0
        if mget false s.host.portsDown port then stall .hold
        else if x.ffr.isEmpty then
          let s := requestPage b.asn b.page 7 b.core 1 (Kind.ofCode b.kind) b.va false { s with bringIns := rest }
          set { s with pageReqs := s.pageReqs.map (fun (q : PageReq) =>
            if q.asn == b.asn && q.page == b.page then { q with waiters := (q.waiters ++ b.waiters).eraseDups } else q) }
        else if x.released.full then stall .bufferFull
        else
          let (frame, s) := readFrameAt x.ffr s
          let host := pteFrame pte
          let s := copyIn (2 ^ 52 * port + host) (pteNlc pte) frame { s with bringIns := rest }
          let s := putEntry a (broughtEntry pte frame) s
          let (r, s) := pushFrame x.released host s
          set (withDie s d { dieOf s d with ffr := x.ffr.take, released := r }))

/-- The bring-in that each die's migration unit serves next: the first of its own in order (R122). -/
def nextBringIns (s : State) : List Nat :=
  (List.range s.bringIns.length).filter (fun i => match s.bringIns[i]? with
    | some b => (s.bringIns.take i).all (fun x => x.die != b.die)
    | none => false)

/-- The span of a prefetch block resets when no page of it is resident any more (R122); `r` asks for the pages' address space. -/
def resetSpan (r : Req) (va : Nat) (s : State) : State :=
  match (blockOf s r.asn va).bind (fun i => (s.prefetch[i]?).map (fun b => (i, b))) with
  | none => s
  | some (i, b) =>
    if (blockLeaves r b s).any (fun p => p.2.any (fun l => pteBit l.1 0 && !pteBit l.1 56)) then s
    else { s with prefetch := s.prefetch.set i { b with q := 0, fresh := true } }

/-- Firmware describes or rewrites a prefetch block (R122): its base is aligned to its size, s is 21 to 30 and the threshold 0 to
255, at most 16 blocks in an address space; a block of the same base is rewritten, and its span resets (log entry 24). -/
def describeBlock (b : PrefBlock) (s : State) : State :=
  let b := { b with q := 0, fresh := true }
  if b.s < 21 || 30 < b.s || 255 < b.theta || b.base % 2 ^ b.s != 0 || 2 ^ 52 ≤ b.base || 4096 ≤ b.asn then s
  else match s.prefetch.findIdx? (fun x => x.asn == b.asn && x.base == b.base) with
    | some i => { s with prefetch := s.prefetch.set i b }
    | none =>
      if 16 ≤ s.prefetch.countP (fun x => x.asn == b.asn) then s else { s with prefetch := s.prefetch ++ [b] }

/-! ### Swap-out (R124, R125) -/

/-- A field of entry i of the swap group table, as the device reads it. -/
def groupField (s : State) (i o n : Nat) : Nat := (devRead (s.host.groupTable.toNat + 32 * i + o) n s).1
/-- What the read of entry i leaves (R85, R92). -/
def readGroup (i : Nat) (s : State) : State := (devRead (s.host.groupTable.toNat + 32 * i) 8 s).2
/-- STATE of a group. -/
def groupState (s : State) (i : Nat) : Nat := groupField s i 8 2 / 2 ^ 12
/-- Set STATE of a group: 2 out, 3 busy. -/
def setGroup (i st : Nat) (s : State) : State :=
  devWrite 16 (s.host.groupTable.toNat + 32 * i + 8) (leBytes 2 (groupField s i 8 2 % 2 ^ 12 + st * 2 ^ 12)) s

/-- The eligible group with the smallest priority key, the lower index on ties. -/
def chooseGroup (s : State) : Option Nat :=
  (List.range s.host.groupCount.toNat).foldl (fun best i =>
    if groupState s i != 1 then best
    else match best with
      | none => some i
      | some j => if groupField s i 4 4 < groupField s j 4 4 then some i else some j) none

/-- The level-3 table of an address space: that of a launch, or of an attachment, that names it. -/
def tableOf (s : State) (asn : Nat) : Option Nat :=
  match s.host.launches.find? (fun l => l.record.asn.toNat == asn) with
  | some l => some l.record.tbase
  | none => ((s.core :: s.others.map (·.2)).find? (fun c => c.run != .free && c.attrs.asn.toNat == asn)).map (·.attrs.tbase)

/-- The translations of one page are invalidated as TLBINV does (R112, R114). -/
def invalidatePage (asn va : Nat) (s : State) : State :=
  dropTranslations (fun e => e.asn == asn && leafOverlaps e va (va + 65536)) (fun w => w.asn == asn && walkOverlaps w va (va + 65536)) s

/-- Copy a frame to a host frame (R124): a poison-marked sector as CXL poison, any other as delivered. -/
def copyOut (frame host : Nat) (s : State) : State :=
  (List.range 1024).foldl (fun s k =>
    let (r, s) := readSector false none 5 (frame / 64 + k) s
    { s with
      hostMem := s.hostMem.write (host + 64 * k) (leBytes 64 r.data.toNat)
      hostPoison := mset false s.hostPoison (host / 64 + k) r.marks.poison }) s

/-- The entry of a page swapped out: V = A = D = 0, H = LOC = 1, PORT and ADDR naming the host frame; NLC, LEAF, R, W, X and SW
kept (R124). -/
def swappedEntry (pte port host : Nat) : Nat :=
  pteNlc pte * 2 ^ 57 + 2 ^ 56 + port * 2 ^ 55 + host + pteField pte 14 8 * 2 ^ 8 + pteField pte 5 2 * 2 ^ 2 + 2

/-- The copy of a frame under way, of a kind. -/
def copyOf (s : State) (kind old : Nat) : Option FrameCopy := s.copies.find? (fun c => c.kind == kind && c.old == old)
/-- Replace the copy of a frame. -/
def setCopy (c : FrameCopy) (s : State) : State :=
  { s with copies := s.copies.map (fun x => if x.kind == c.kind && x.old == c.old then c else x) }
/-- The copy of a frame is over. -/
def endCopy (c : FrameCopy) (s : State) : State :=
  { s with copies := s.copies.filter (fun x => !(x.kind == c.kind && x.old == c.old)) }

/-- The copy starts again because a write reached the frame (R99, R125). -/
def restartCopy (c : FrameCopy) (s : State) : State := setCopy { c with hit := false, restarts := c.restarts + 1 } s

/-- Steps 2 to 4 of R124, once the copy is whole: the entry, the invalidation, the rings. -/
def finishSwap (d : Nat) (r : Req) (c : FrameCopy) (s : State) : State :=
  let host := 65536 * (c.new % 2 ^ 36)
  let port := c.new / 2 ^ 36
  let s := putEntry c.pteAddr (swappedEntry c.pte port host) (endCopy c s)
  let s := resetSpan r c.va (invalidatePage c.asn c.va s)
  let (f, s) := pushFrame (dieOf s d).ffr (65536 * c.old) s
  withDie s d { dieOf s d with ffr := f }

/-- One turn at a page of the current group: its copy to a host frame of its port, or of the other when that is down, again when
a write has reached the frame (R125), and once the copy is whole the rest of R124. The answer is the next state with
whether the page is out, or why the channel waits. -/
def swapPage (d : Nat) (r : Req) (va : Nat) (pte a : Nat) (s : State) : Except Stall (Bool × State) :=
  let x := dieOf s d
  let frame := pteFrame pte
  let want := frame / 65536 % 2
  let down := fun p => mget false s.host.portsDown p
  match copyOf s 2 (frame / 65536) with
  | some c =>
    if down (c.new / 2 ^ 36) then .error .hold
    else if c.hit then .ok (false, copyOut frame (65536 * c.new) (restartCopy c s))
    else if x.ffr.full then .error .bufferFull
    else .ok (true, finishSwap d r { c with pte := pte, pteAddr := a } s)
  | none =>
    if down 0 && down 1 then .error .hold
    else
      let port := if down want then 1 - want else want
      let h := (dieOf s port).hfr
      if h.isEmpty then .error .bufferFull
      else
        let (host, s) := readFrameAt h s
        let s := withDie s port { dieOf s port with hfr := h.take }
        let s := copyOut frame (2 ^ 52 * port + host) s
        let c : FrameCopy :=
          { kind := 2, old := frame / 65536, new := (2 ^ 52 * port + host) / 65536, pteAddr := a, pte := pte, asn := r.asn, va := va }
        .ok (false, { s with copies := s.copies ++ [c] })

/-- A die's background Ferry channel has something to do: a group to choose, or a page of its group. -/
def swapDue (s : State) (d : Nat) : Bool :=
  let low := (dieOf s d).ffr.count < s.host.swapLow.toNat
  match mget none s.swaps d with
  | some w => w.active || low
  | none => low && (chooseGroup s).isSome

/-- The request of the swap channel of a die for an address space. -/
def swapReq (d asn tbase : Nat) : Req :=
  { eng := 7, core := 192 * d, asn := asn, tbase := tbase, fault := { code := .misaligned, engine := 0 }, cached := false, die := some d }

/-- SWAP_OUT_PAGE (R124, R125): the channel of a die chooses a group, or goes on with the next page of its group. -/
def execSwapOutPage : Meaning := runM (do
  let s ← get
  let d := s.input.die.toNat
  if !swapDue s d then stall .hold
  else match mget none s.swaps d with
    | none => match chooseGroup s with
      | none => pure ()
      | some g => set (setGroup g 3 (readGroup g { s with swaps := mset none s.swaps d (some { group := g, next := 0, active := true }) }))
    | some w =>
      if groupField s w.group 12 4 ≤ w.next then set (setGroup w.group 2 { s with swaps := mset none s.swaps d none })
      else
        let asn := groupField s w.group 8 2 % 2 ^ 12
        let (page, s) := devRead (groupField s w.group 16 8 + 8 * w.next) 8 s
        let va := page % 2 ^ 52 / 65536 * 65536
        let table := tableOf s asn
        let leaf := table.bind (fun t => peekLeaf s asn t va)
        let moved := match leaf with
          | some (pte, a) =>
            if pteBit pte 0 && !pteBit pte 56 then swapPage d (swapReq d asn (table.getD 0)) va pte a s else .ok (true, s)
          | none => .ok (true, s)
        match moved with
        | .error r => stall r
        | .ok (out, s) =>
          if !out then set s
          else
            let go := (dieOf s d).ffr.count < s.host.swapHigh.toNat
            let ended := groupField s w.group 12 4 ≤ w.next + 1
            let s := if ended then setGroup w.group 2 s else s
            set { s with swaps := mset none s.swaps d (if ended then none else some { w with next := w.next + 1, active := go }) })

end Sys2Proof.Machine
end

