-- ==== Sys2Proof/Machine/Reliability.lean ====
section
/-! DEFINITION. Background memory work (spec 05_main_memory_protection R93 to R99): scrubbing, requantisation, row sparing
and frame retirement; the end of a targeted self-test (spec 18_faults_reliability R402, R405 to R407). -/

namespace Sys2Proof.Machine

/-- Background work pauses while a checkpoint or a restore runs (R100). -/
def workPaused (s : State) : Bool := s.host.ck.status == 2 || s.host.ck.status == 3

/-- Background work that waits while it is paused. -/
def background (m : M Unit) : Meaning := runM (do
  let s ← get
  if workPaused s then stall .hold else m)

/-! ### Scrubbing, calibration, wear (R93, R94) -/

/-- PATROL_SCRUB_SECTOR (R94): a sector of HBM is decoded under its stored code, and a corrected one written back; at E1 to E3
only the record is written. -/
def execPatrolScrubSector : Meaning := background (modify fun s =>
  let sec := s.input.addr.toNat / 64
  if memEnd ≤ 64 * sec then s
  else
    let (e, r, s) := readHbmBy logMemError 2 sec s
    if e.any (fun e => e.cls == 0) then writeHbm sec r.data (mget {} s.sectors sec).code (mget {} s.sectors sec).marks s else s)

/-- LINK_CALIBRATION (R93): a pause of the stack's traffic, with no effect on any state. -/
def execLinkCalibration : Meaning := background (pure ())
/-- WEAR_REFRESH (R93): rows keep what they hold. -/
def execWearRefresh : Meaning := background (pure ())

/-! ### Requantisation (R96 to R98) -/

/-- The scale and elements of a group of values (R96). -/
def kvGroup (vs : List Num) : Nat × List Nat :=
  if vs.any (fun v => v.isNan || v.isInf) then (0x7E00, vs.map (fun _ => 0x7F))
  else match vs.foldl (fun a v => if magLt a v then v.mag else a) (.fin false 0 0) with
    | .fin _ m e =>
      if m = 0 then (0, vs.map (fun v => if v.neg then 0x80 else 0))
      else
        let s := min (fp16.roundQ 2 false false m 448 e).1 0x7BFF
        match fp16.decode s with
        | .fin _ sm se => (s, vs.map (fun v => match v with
            | .fin n vm ve => (e4m3.roundQ 0 true n vm sm (ve - se)).1
            | _ => 0x7F))
        | _ => (s, vs.map (fun _ => 0x7F))
    | _ => (0x7E00, vs.map (fun _ => 0x7F))

/-- Target sector k of a requantised page, from its source sectors as delivered (R96, R81). -/
def kvSector (f : Fmt) (src : List SecRead) (k : Nat) : BitVec 512 × Marks :=
  let value := fun (i : Nat) => (src[i / 32]?).map (fun r => f.decode (r.data.extractLsb' (16 * (i % 32)) 16).toNat)
  let groups := (List.range 3).map (fun g => kvGroup ((List.range 16).filterMap (fun j => value (48 * k + 16 * g + j))))
  let elems := (groups.zip (List.range 3)).foldl (fun a p =>
    a + ((p.1.2.zip (List.range 16)).foldl (fun b q => b + q.1 * 2 ^ (8 * q.2)) 0) * 2 ^ (128 * p.2)) 0
  let scales := (groups.zip (List.range 3)).foldl (fun a p => a + p.1.1 * 2 ^ (384 + 16 * p.2)) 0
  let used := (src.drop (48 * k / 32)).take ((48 * k + 47) / 32 - 48 * k / 32 + 1)
  (BitVec.ofNat 512 (elems + scales), { poison := used.any (fun r => r.marks.poison) })

/-- Read the sectors of a frame as background work. -/
def readFrame (source frame : Nat) (s : State) : List SecRead × State :=
  let (l, s) := (List.range 1024).foldl (fun (acc : List SecRead × State) k =>
    let (r, s) := readSector false none source (frame / 64 + k) acc.2
    (r :: acc.1, s)) ([], s)
  (l.reverse, s)

/-- Copy a page of code 4 or 5 into a new frame under code 14 (R96, R97). -/
def requantCopy (nlc old new : Nat) (s : State) : State :=
  let (src, s) := readFrame 3 old s
  let f := if nlc == 4 then bf16 else fp16
  (List.range 1024).foldl (fun s k =>
    let (v, mk) := if k < 683 then kvSector f src k else (0, {})
    fillSector (new / 64 + k) v (some 14) mk s) s

/-- A leaf that R96 admits: a valid 64 KiB leaf in device memory under code 4 or 5. -/
def requantable (pte : Nat) : Bool := pteBit pte 0 && pteBit pte 5 && !pteBit pte 56 && !badLeaf pte false && (pteNlc pte == 4 || pteNlc pte == 5)

/-- The requantisation ring's entry at its tail is over: RESULT is written, and the tail passes it (R98). -/
def endRequant (result : Nat) (s : State) : State :=
  let s := devWrite 16 (s.rq.slot s.rq.tail 32 + 16) [BitVec.ofNat 8 result] s
  { s with rq := s.rq.take }

/-- A frame goes onto the free-frame ring of a die. -/
def freeFrame (d frame : Nat) (s : State) : State :=
  let (f, s) := pushFrame (dieOf s d).ffr frame s
  withDie s d { dieOf s d with ffr := f }

/-- The first turn at a ring entry: it is refused (R96; an entry address that is no multiple of 8 or lies beyond device memory too,
log entry 28), finds no free frame, or its page is copied into a new frame (step 1 of R97). -/
def startRequant (ptepa tag : Nat) (clean : Bool) (s : State) : State :=
  if ptepa % 8 != 0 || memEnd ≤ ptepa || !clean then endRequant 2 s
  else
    let (pte, s) := devRead ptepa 8 s
    if !requantable pte then endRequant 2 s
    else
      let old := pteFrame pte
      let d := homeDie old
      if (dieOf s d).ffr.isEmpty then endRequant 4 s
      else
        let (new, s) := readFrameAt (dieOf s d).ffr s
        let s := withDie s d { dieOf s d with ffr := (dieOf s d).ffr.take }
        let s := requantCopy (pteNlc pte) old new s
        let c : FrameCopy :=
          { kind := 0, old := old / 65536, new := new / 65536, pteAddr := ptepa, pte := pte, asn := tag / 2 ^ 52, va := tag % 2 ^ 52 }
        { s with copies := s.copies ++ [c] }

/-- The later turns (R97): a write that has reached the page abandons the copy; else the entry is swapped in one write; then the
old translations go, and the old frame is released, or, when a write was held meanwhile, the entry is written back with A and
D as they then stand, its page invalidated again and the new frame released. -/
def goOnRequant (c : FrameCopy) (s : State) : State :=
  let d := homeDie (65536 * c.old)
  if !c.copied then
    if c.hit then endRequant 3 (freeFrame d (65536 * c.new) (endCopy c s))
    else
      let (pte, s) := devRead c.pteAddr 8 s
      setCopy { c with copied := true, pte := pte } (putEntry c.pteAddr (14 * 2 ^ 57 + 65536 * c.new + pte % 2 ^ 15) s)
  else
    let s := invalidatePage c.asn c.va (endCopy c s)
    if c.wanted then
      let (pte, s) := devRead c.pteAddr 8 s
      let s := putEntry c.pteAddr (pteNlc c.pte * 2 ^ 57 + 65536 * c.old + pte % 2 ^ 15) s
      endRequant 3 (freeFrame d (65536 * c.new) (invalidatePage c.asn c.va s))
    else endRequant 1 (freeFrame d (65536 * c.old) s)

/-- REQUANT_ENTRY (R97, R98): one turn at the ring's next entry; with a cap of 0 it waits. -/
def execRequantEntry : Meaning := background (do
  let s ← get
  match s.copies.find? (fun c => c.kind == 0) with
  | some c => modify (goOnRequant c)
  | none =>
    if s.rq.isEmpty then pure ()
    else if s.host.rqCap == 0 then stall .hold
    else
      let a := s.rq.slot s.rq.tail 32
      let (ptepa, s) := devRead a 8 s
      let (tag, s) := devRead (a + 8) 8 s
      let (rest, s) := devRead (a + 17) 15 s
      set (startRequant ptepa tag (tag % 65536 == 0 && rest == 0) s))

/-! ### The end of a self-test (R402, R405 to R407) -/

/-- What the re-reads of a sector at fault leave (Table 18.8): below E2 it is rewritten, in HBM and in its home L2 slice, as
delivered and without marks; a failing cell shows its error again. A sector stored as poisoned stays so, and an unwritten
one unwritten. -/
def retestSector (sec : Nat) (s : State) : State :=
  let m := mget {} s.sectors sec
  if m.code.isNone || m.marks.poison || retiredSector s sec then s
  else
    let code := m.code.getD 0
    let (raw, e) := decodeFlips code sec m.flipped (sectorData s sec)
    if e.any (fun e => 2 ≤ e.cls) then s
    else
      let v := if e.any (fun e => e.cls == 1) then zeroE1 code sec (e.bind (·.groups)) raw else raw
      let s := match homeLine s sec with
        | some l => putLine sec v l.code {} l.dirty s
        | none => s
      writeHbm sec v m.code {} s

/-- The self-test log entry (Table 18.9), its low word. -/
def testEntry (lasting : Bool) (unit repair location : Nat) : Word :=
  BitVec.ofNat 64 ((if lasting then 2 ^ 62 else 0) + unit * 2 ^ 56 + repair * 2 ^ 48 + location)

/-- Phases whose cancel waited for a test that has ended rewind (R402). -/
def releaseRewinds (s : State) : State :=
  mapCores (fun c => if c.ph.exec.any (fun e => e.rewind && !e.awaits.any (fun w => testRuns s w.1 w.2)) then rewindCore c else c) s

/-- A Strait lane's test has ended: a LASTING lane is removed (R406), and the port's flits go on. -/
def endLaneTest (location : Nat) (lasting : Bool) (s : State) : State :=
  let port := location % 16
  let st := s.strait
  let off := if lasting then mset 0 st.lanesOff port (setBit (mget 0 st.lanesOff port) (location / 16 % 8) true) else st.lanesOff
  flushMsgs { s with strait := { st with testing := mset false st.testing port false, lanesOff := off } }

/-- The array that a unit code and a location name: its unit, and its core or its die (Tables 18.6, 18.9). -/
def arrayKey (unit location : Nat) : Nat := unit * 1024 + (if unit == 6 || unit == 7 || unit == 8 then location / 2 ^ 38 else location / 2 ^ 30)

/-- The repair of an on-chip array found LASTING (R406), with REPAIR of Table 18.9: a redundant column while one of two is left
(log entry 64); else of a core array none, which awaits firmware, and of a die array the way set, node records or task
slots at fault are retired until reset. -/
def repairArray (t : SelfTest) (s : State) : Nat × State :=
  let key := arrayKey t.unit t.location
  let mended := fun (s : State) => { s with failing := s.failing.filter (· != (t.unit, t.location)) }
  if mget 0 s.columns key < 2 then (1, mended { s with columns := mset 0 s.columns key (mget 0 s.columns key + 1) })
  else
    let x := dieOf s t.die
    let off := fun (m : SMap Bool) => t.sectors.foldl (fun m k => mset false m k true) m
    match t.unit with
    | 6 => (3, mended (dropLines (t.sectors.flatMap (evicted s)) (withDie s t.die { x with waysOff := x.waysOff + 1 })))
    | 7 => (3, mended (withDie s t.die { x with nodesOff := off x.nodesOff }))
    | 8 => (3, mended (withDie s t.die { x with slotsOff := off x.slotsOff }))
    | _ => (4, { s with lasting := s.lasting ++ [(t.unit, t.location)] })

/-- A test that has ended LASTING: what is repaired, with REPAIR of Table 18.9. -/
def repairPart (t : SelfTest) (s : State) : Nat × State :=
  if t.unit == 9 then (2, { s with lasting := s.lasting ++ [(t.unit, t.location)] })
  else if t.unit == 0 then (4, { s with lasting := s.lasting ++ [(t.unit, t.location)] })
  else repairArray t s

/-- SELF_TEST_COMPLETE (R405 to R407): the test in place n ends. -/
def execSelfTestComplete : Meaning := runM (modify fun s =>
  match s.selfTests[s.input.n]? with
  | none => s
  | some t =>
    let row := t.sectors.flatMap (fun x => (List.range 64).map (x / 64 * 64 + ·))
    let cells := t.unit == 0 && row.any (fun x => !(mget {} s.sectors x).cells.isEmpty)
    let lasting := t.lasting || cells
    let s := { s with selfTests := s.selfTests.eraseIdx s.input.n }
    let s := if t.unit == 9 then endLaneTest t.location lasting s
      else if t.unit == 0 then t.sectors.foldl (fun s x => retestSector x s) s else s
    let s := addCounter t.die (if lasting then 11 else 10) 1 (addCounter t.die 9 1 s)
    let (repair, s) := if lasting then repairPart t s else (0, s)
    let s := match appendDieRing (dieOf s t.die).testLog [testEntry lasting t.unit repair t.location, s.pick] s with
      | some (r, s) => withDie s t.die { dieOf s t.die with testLog := r }
      | none => s
    releaseRewinds s)

/-! ### Repairs (R99) -/

/-- Copy a sector with its code and marks to another, as delivered: unreadable data with the poison mark. -/
def copySector (src dst : Nat) (s : State) : State :=
  let code := homeCode s src
  let (r, s) := readSector false none 5 src s
  fillSector dst r.data code r.marks s

/-- A sector moves to a spare row: its readable content with its marks; cells that failed stay behind (R99). -/
def spareSector (sec : Nat) (s : State) : State :=
  let m := mget {} s.sectors sec
  let (_, r, s) := readHbmBy logMemError 5 sec s
  { s with
    hbm := s.hbm.write (64 * sec) (leBytes 64 r.data.toNat)
    sectors := mset {} s.sectors sec { code := m.code, marks := r.marks } }

/-- The part is LASTING and not repaired. -/
def isLasting (s : State) (unit location : Nat) : Bool := s.lasting.contains (unit, location)

/-- ROW_SPARING (R99): the row of an address takes a spare row; `ok` false says that the bank has none left. -/
def execRowSparing : Meaning := runM (modify fun s =>
  let first := s.input.addr.toNat / 4096 * 64
  let loc := rowLocation first
  if !s.input.ok || memEnd ≤ 64 * first || !isLasting s 0 loc then s
  else
    let s := (List.range 64).foldl (fun s k => spareSector (first + k) s) s
    let d := homeDie (64 * first)
    let x := dieOf s d
    { withDie s d { x with spared := mset false x.spared first true } with lasting := s.lasting.filter (· != (0, loc)) })

/-- The copy of a frame by FRAME_RETIREMENT (R99). -/
def copyFrame (old new : Nat) (s : State) : State :=
  (List.range 1024).foldl (fun s k => copySector (1024 * old + k) (1024 * new + k) s) s

/-- The frame enters the retired list of its home die, which holds 8,192; its lines leave L2, and its rows await no other
repair. -/
def retireFrame (c : FrameCopy) (s : State) : State :=
  let d := homeDie (65536 * c.old)
  let rows := (List.range 16).map (fun k => (0, rowLocation (1024 * c.old + 64 * k)))
  let s := dropLines ((List.range 1024).map (1024 * c.old + ·)) (endCopy c s)
  { withDie s d { dieOf s d with retired := mset false (dieOf s d).retired c.old true } with
    lasting := s.lasting.filter (fun p => !rows.contains p) }

/-- FRAME_RETIREMENT (R99), one part at a time: the copy to a new frame; the copy again while a write has reached the frame, else
its end; and, once firmware has rewritten the entries that map the frame (step 2), the retired list. -/
def execFrameRetirement : Meaning := runM (modify fun s =>
  let old := s.input.addr.toNat / 65536
  let new := s.input.addr2.toNat / 65536
  let d := homeDie (65536 * old)
  match copyOf s 1 old with
  | some c =>
    if c.copied then retireFrame c s
    else if c.hit then copyFrame c.old c.new (restartCopy c s)
    else setCopy { c with copied := true } s
  | none =>
    if memEnd ≤ 65536 * old || memEnd ≤ 65536 * new || old == new || 8192 ≤ (dieOf s d).retired.length || retiredSector s (1024 * old)
    then s
    else { copyFrame old new s with copies := s.copies ++ [{ kind := 1, old := old, new := new }] })

end Sys2Proof.Machine
end

