-- ==== Sys2Proof/Machine/Launch.lean ====
section
/-! DEFINITION. Launches (spec 16_execution_scheduling R345 to R350; 19_host_bringup R413): launch
records, placing, start and completion. -/

namespace Sys2Proof.Machine

/-! ### CRC-32 (R100) -/

/-- One bit of the reflected CRC-32 with polynomial 0x04C1_1DB7. -/
def crcBit (c : BitVec 32) : BitVec 32 := if bit c 0 then (c >>> 1) ^^^ 0xEDB88320#32 else c >>> 1
/-- One byte. -/
def crcByte (c : BitVec 32) (b : Byte) : BitVec 32 := (List.range 8).foldl (fun c _ => crcBit c) (c ^^^ b.setWidth 32)
/-- The CRC-32 of bytes: initial value and final XOR all ones (R100). -/
def crc32 (bs : List Byte) : BitVec 32 := ~~~(bs.foldl crcByte 0xFFFFFFFF#32)

/-! ### Launch records (R345, R346) -/

/-- n bytes of a record from an offset, as a number. -/
def fieldAt (bs : List Byte) (o n : Nat) : Nat := leNat ((bs.drop o).take n)

/-- The size of a record from its header. -/
def recordSize (h : List Byte) : Nat := 128 + 16 * fieldAt h 18 1 + 8 * fieldAt h 19 1 + 32 * fieldAt h 20 1

/-- The limits of Table 16.2 on the header. -/
def headerOk (h : List Byte) : Bool :=
  let b := fun o => fieldAt h o 1
  let w := fun o => fieldAt h o 8
  let joint := b 8 / 128 == 1
  w 0 % 32 == 0 && b 8 / 4 % 32 == 0
    && 1 ≤ b 11 && 1 ≤ b 12 && b 9 + b 11 ≤ 12 && b 10 + b 12 ≤ 16
    && (!joint || (b 9 % 2 == 0 && b 10 % 2 == 0 && b 11 % 2 == 0 && b 12 % 2 == 0))
    && b 13 < 64 && b 14 ≤ 1 && b 15 < 64 && fieldAt h 16 2 < 4096
    && b 18 ≤ 62 && b 19 ≤ 64 && b 20 ≤ 32 && fieldAt h 21 3 == 0
    && w 24 % 32768 == 0 && w 24 < memEnd && w 32 % 64 == 0 && w 40 % 8 == 0 && w 48 < 2 ^ 63
    && fieldAt h 60 4 == 0 && fieldAt h 64 64 == 0

/-- An initial-register entry (R346). -/
def readInit (e : List Byte) : Option (Nat × Word) :=
  let r := fieldAt e 0 1
  if fieldAt e 1 7 == 0 && ((1 ≤ r && r ≤ 61) || r == 63) then some (r, BitVec.ofNat 64 (fieldAt e 8 8)) else none

/-- A tile entry (R346, R135). -/
def readTile (e : List Byte) : Option (Nat × Nat) :=
  let n := fieldAt e 2 2
  if fieldAt e 0 1 < 64 && fieldAt e 1 1 == 0 && fieldAt e 4 4 == 0 && 64 ≤ n && n ≤ 4096 && n % 64 == 0 then some (fieldAt e 0 1, n)
  else none

/-- A binding entry (R346, with the limits of R332). -/
def readBinding (e : List Byte) : Option (Nat × Binding) :=
  let base := fieldAt e 8 8
  let len := fieldAt e 16 8
  let sync : Word := BitVec.ofNat 64 (fieldAt e 24 8)
  if fieldAt e 0 1 < 32 && fieldAt e 1 1 ≤ 4 && fieldAt e 2 6 == 0 && base % 64 == 0 && len != 0 && len % 64 == 0 && len < 2 ^ 48
      && base < 2 ^ 52 && base + len ≤ 2 ^ 52 && bits sync 1 0 == 0
      && (if bit sync 63 then !bit sync 52 && bits sync 51 39 == 0 else bits sync 62 52 == 0) then
    some (fieldAt e 0 1, { sync := sync, len := BitVec.ofNat 48 len, scope := BitVec.ofNat 3 (fieldAt e 1 1), valid := true,
                           base := BitVec.ofNat 52 base })
  else none

/-- n entries of `sz` bytes. -/
def readEntries {α : Type} (f : List Byte → Option α) (sz : Nat) : Nat → List Byte → Option (List α)
  | 0, _ => some []
  | n + 1, bs => do
    let x ← f (bs.take sz)
    let r ← readEntries f sz n (bs.drop sz)
    pure (x :: r)

/-- A launch record, or none where it breaks a limit of R345 or R346. -/
def parseRecord (bs : List Byte) : Option Record :=
  if !headerOk bs then none
  else do
    let b := fun o => fieldAt bs o 1
    let ni := b 18
    let nt := b 19
    let inits ← readEntries readInit 16 ni (bs.drop 128)
    let tlens ← readEntries readTile 8 nt (bs.drop (128 + 16 * ni))
    let binds ← readEntries readBinding 32 (b 20) (bs.drop (128 + 16 * ni + 8 * nt))
    pure { entry := BitVec.ofNat 64 (fieldAt bs 0 8), die := b 8 % 4, row0 := b 9, col0 := b 10, nrows := b 11, ncols := b 12,
           joint := b 8 / 128 == 1, stage := BitVec.ofNat 6 (b 13), e1pol := b 14, rights := BitVec.ofNat 6 (b 15),
           asn := BitVec.ofNat 12 (fieldAt bs 16 2), tbase := fieldAt bs 24 8, kvpools := BitVec.ofNat 64 (fieldAt bs 32 8),
           doneAddr := BitVec.ofNat 64 (fieldAt bs 40 8), doneVal := BitVec.ofNat 64 (fieldAt bs 48 8),
           pwin := if fieldAt bs 56 4 == 0 then 65536 else fieldAt bs 56 4, inits := inits, tlens := tlens, binds := binds }

/-! ### Placing (R347) -/

/-- The cores of a record's rectangle. -/
def Record.cores (r : Record) : List Nat :=
  (List.range r.nrows).flatMap (fun i => (List.range r.ncols).map (fun j => 192 * r.die + 16 * (r.row0 + i) + r.col0 + j))

/-- Step 2 of R347 refuses: a disabled core in the rectangle, or for a joint launch in one of its quads. -/
def placeRefused (s : State) (r : Record) : Bool :=
  r.cores.any (fun n => (if r.joint then quadMembers n else [n]).any (fun k => (coreOf s k).run == .disabled))

/-- Step 2 of R347 finds the rectangle busy: a launch or a restored context on a core, or a claim. -/
def placeBusy (s : State) (r : Record) : Bool :=
  r.cores.any (fun n => (coreOf s n).run != .free || s.host.launches.any (fun l => !l.started && l.leaves.any (fun x => x.1 == n)))

/-- Claim the rectangle; the caches' entries of the launch's address space go (R347, R348). -/
def claim (r : Record) (link : Option Nat) (s : State) : State :=
  let asn := r.asn.toNat
  let s := r.cores.foldl (fun s n =>
    let c := coreOf s n
    withCore s n { c with
      tlb := c.tlb.filter (fun e => e.asn != asn), stlb := c.stlb.filter (fun p => p.2.asn != asn)
      pbc := c.pbc.filter (fun e => e.asn != asn), bmc := [] }) s
  let d := dieOf s r.die
  let s := withDie s r.die { d with walk := d.walk.filter (fun w => w.asn != asn) }
  { s with host := { s.host with
      launches := s.host.launches ++
        [{ number := s.host.nextLaunch, record := r, link := link, started := false, leaves := r.cores.map (fun n => (n, none)) }]
      nextLaunch := s.host.nextLaunch + 1 } }

/-- The attributes of a launch on a core. -/
def Record.attrs (r : Record) (number : Nat) : Attrs :=
  { launch := number, asn := r.asn, tbase := r.tbase, rights := r.rights, e1pol := r.e1pol, kvpools := r.kvpools, pwin := r.pwin,
    joint := r.joint, stage := r.stage }

/-- The state of a core at T0 (R348): what a launch does not set starts at its launch-start value; the scratchpad's bytes
and marks and the L1 caches stay. -/
def startCore (r : Record) (number : Nat) (c : Core) : Core :=
  let x := r.inits.foldl (fun m p => mset 0 m p.1 p.2) ([] : SMap Word)
  { run := .running
    attrs := r.attrs number
    sh := { x := x, pc := r.entry, nextTicket := c.sh.nextTicket }
    win := c.win.filter (fun e => e.1 < 0x40000)
    tiles := { tlen := r.tlens.foldl (fun m p => mset 4096 m p.1 p.2) [], marks := c.tiles.marks }
    binds := r.binds.foldl (fun m p => mset {} m p.1 p.2) []
    tlb := c.tlb, stlb := c.stlb, l1d := c.l1d, l1i := c.l1i, pbc := c.pbc }

/-- Every CTXSAVE that waits for a core without a launch answers 1, with nothing written (R367). -/
def answerSavers (n : Nat) (s : State) : State :=
  (coreOf s n).saver.foldl (fun s p => answer p.1 p.2.1 (fun x => { x with ready := true, value := 1 }) s)
    (withCore s n { coreOf s n with saver := [] })

/-- LAUNCH_START (R347, R348): every core of a claimed launch starts in one tick. -/
def execLaunchStart : Meaning := runM (do
  let s ← get
  match s.host.launches.find? (fun l => l.number == s.input.n && !l.started) with
  | none => pure ()
  | some l =>
    modify (fun s => l.record.cores.foldl (fun s n => 
      let s := answerSavers n s
      withCore s n (startCore l.record l.number (coreOf s n))) s)
    modHost (fun h => { h with launches := h.launches.map (fun x => if x.number == l.number then { x with started := true } else x) }))

/-- A record read from memory by LAUNCH, with the consumption of its sectors (R349). -/
def launchBytes (va n : Nat) : M (Except FaultInfo (List Byte)) := do
  let lo := va / 64
  let parts ← (List.range ((va + n + 63) / 64 - lo)).mapM (fun k => do
    let s ← get
    let a := 64 * (lo + k)
    let l ← translate (coreReq s shData) a .read
    let r ← homeRead { shData with addr := BitVec.ofNat 64 a } l
    if r.e3 then pure (Except.error (memFault shData .memE3 (BitVec.ofNat 64 a) r.marks))
    else if bad s r.marks then
      if (openPhase s).isSome then syncConsumed (BitVec.ofNat 64 a) r.marks
      pure (Except.error (memFault shData .memE2 (BitVec.ofNat 64 a) r.marks))
    else pure (Except.ok (leBytes 64 r.data.toNat)))
  pure (parts.foldr (fun p acc => match p, acc with
    | .error f, _ => .error f
    | .ok _, .error f => .error f
    | .ok b, .ok r => .ok (b ++ r)) (.ok []))

/-- LAUNCH (R349): a fault found in the record is delivered under R198. -/
def execLaunch (f : SA) : Meaning := runM (do
  awaitDest f.d
  let r ← readX f.t f.a
  needRight 4
  if bits r 5 0 != 0 then shFault .misaligned r
  else
    let va ← checkVirtual shData r
    let s ← get
    match ← launchBytes va 128 with
    | .error e => later { d := f.d, fault := some e }
    | .ok h =>
      match ← launchBytes (va + 128) (if headerOk h then recordSize h - 128 else 0) with
      | .error e => later { d := f.d, fault := some e }
      | .ok rest =>
        match parseRecord (h ++ rest) with
        | none => later { d := f.d, fault := some { shData with code := .badOperand } }
        | some rec' =>
          if rec'.rights &&& ~~~s.core.attrs.rights != 0 then later { d := f.d, fault := some { shData with code := .noRight } }
          else
            let s ← get
            if placeRefused s rec' then later { d := f.d, value := 2 }
            else if placeBusy s rec' then later { d := f.d, value := 1 }
            else
              modify (claim rec' none)
              later { d := f.d, value := 0 })

/-! ### Completion (R350) -/

/-- Every write of a launch's cores has been performed: no logged write and no unacknowledged remote write (R350). -/
def writesDone (s : State) (l : Launch) : Bool :=
  l.leaves.all (fun x =>
    let c := coreOf s x.1
    c.attrs.launch != l.number || (c.sdl.isEmpty && !unacked s x.1 (fun _ => true)))

/-- Write the completion word under the launch's translation; the fault where it cannot be written. -/
def writeDone (l : Launch) : M (Option FaultInfo) := do
  let low := (l.leaves.map (·.1)).foldl min 1023
  let f : FaultInfo := { code := .misaligned, engine := 1, precise := false, addr := l.record.doneAddr }
  let req : Req := { eng := 10, core := low, asn := l.record.asn.toNat, tbase := l.record.tbase, fault := f, cached := false }
  let bad := l.leaves.any (fun x => x.2 == some true)
  let v := l.record.doneVal.toNat % 2 ^ 63 + (if bad then 2 ^ 63 else 0)
  tryCatch (do
    let a := l.record.doneAddr.toNat
    let p ← translate req a .write
    sectorFree true p
    modify (locWrite p (maskOf (a % 64) 8) (placeBytes (a % 64) (leBytes 8 v)) {})
    let s ← get
    if !p.host && retiredSector s (p.addr / 64) then pure (some { f with code := .memE3 }) else pure none)
    (fun e => match e with
      | .fault f _ => pure (some f)
      | e => throw e)

/-- The record of a completion word that could not be written: BUNDLE 0, ENGINE 1, PRECISE 0, ADDR DONEADDR (R350). -/
def doneFault (die : Nat) (f : FaultInfo) (addr : Word) (s : State) : State :=
  appendFault die
    (faultRecord {} { f with engine := 1, precise := false, addr := addr, producer := some (0, 0), w4 := 0, w5 := 0 }) s

/-- A freed core (R350). -/
def freeCore (c : Core) : Core := { c with run := if c.run == .disabled then .disabled else .free, attrs := {}, preempt := none }

/-- LAUNCH_COMPLETION (R350, R413): once every leaf is reached and every write performed, the completion word, the cores,
the signal. -/
def execLaunchCompletion : Meaning := runM (do
  let s ← get
  match s.host.launches.find? (fun l => l.number == s.input.n) with
  | none => pure ()
  | some l =>
    if !(l.started && l.leaves.all (fun x => x.2.isSome) && writesDone s l) then stall .drain
    else
      let failed ← (if l.record.doneAddr == 0 then pure none else writeDone l)
      modify (fun s => match failed with
        | some f => doneFault l.record.die f l.record.doneAddr s
        | none => s)
      modify (fun s => l.leaves.foldl (fun s x =>
        let c := coreOf s x.1
        let c := { c with refused := c.refused.filter (fun r => r.1 != 10) }
        withCore s x.1 (if c.attrs.launch == l.number then freeCore c else c)) s)
      modHost (fun h => { h with
        launches := h.launches.filter (fun x => x.number != l.number)
        msix := match l.link with
          | some k => h.msix ++ [(k, 0)]
          | none => h.msix }))

end Sys2Proof.Machine
end

