-- ==== Sys2Proof/Machine/Submit.lean ====
section
/-! DEFINITION. Launch ports (spec 19_host_bringup R409, R413) and the conditions under which a host reaches the control
window (R411, R415, R417, R420). -/

namespace Sys2Proof.Machine

/-- The link exists: link B only on a split port (R409). -/
def linkExists (h : HostSide) (link : Nat) : Bool := link % 2 == 0 || mget false h.split (link / 2)
/-- The links of the device. -/
def links (h : HostSide) : List Nat := (List.range 4).filter (linkExists h)

/-- Change a launch port. -/
def modPort (link : Nat) (f : LaunchPort → LaunchPort) (s : State) : State :=
  { s with host := { s.host with ports := mset {} s.host.ports link (f (mget {} s.host.ports link)) } }

/-- A checkpoint or restore is in progress (R102). -/
def ckBusy (s : State) : Bool := 1 ≤ s.host.ck.status && s.host.ck.status ≤ 3

/-- Placement of a submitted record (R347, R413): LSTAT 2 placed, 3 busy, 4 refused, 5 malformed. -/
def placeRecord (link : Nat) (bs : List Byte) (s : State) : State :=
  match parseRecord bs with
  | none => modPort link (fun p => { p with stat := 5 }) s
  | some r =>
    if placeRefused s r then modPort link (fun p => { p with stat := 4 }) s
    else if placeBusy s r then modPort link (fun p => { p with stat := 3 }) s
    else modPort link (fun p => { p with stat := 2 }) (claim r (some link) s)

/-- Submissions that a checkpoint held proceed when it has ended (R102, R413). -/
def releaseSubmits (s : State) : State :=
  s.host.heldSubmits.foldl (fun s x => placeRecord x.1 x.2 s) { s with host := { s.host with heldSubmits := [] } }

/-- A write of 1 to LGO (R413): LBUF is copied; ignored while LSTAT is 1 or 6, or on a link that does not exist. -/
def submitLaunch (link : Nat) (s : State) : State :=
  let p := mget {} s.host.ports link
  if !linkExists s.host link || p.stat == 1 || p.stat == 6 then s
  else
    let bs := p.buf.readN 0 4096
    if ckBusy s then
      modPort link (fun p => { p with stat := 6 }) { s with host := { s.host with heldSubmits := s.host.heldSubmits ++ [(link, bs)] } }
    else placeRecord link bs s

/-- Answer the host access in progress: 1 success, 2 Unsupported Request, 3 Configuration Request Retry Status, 4 a poisoned
completion. -/
def hostAnswer (code : Nat) (v : Word) (s : State) : State := { s with host := { s.host with reply := code, replyData := v } }

/-- BAR accesses of a link are served: after step 8, and not in D3hot (R415, R420). -/
def barOpen (s : State) (link : Nat) : Bool := s.host.boot == 8 && linkExists s.host link && !mget false s.host.d3hot link

/-- A BAR access by the link of the event: Unsupported Request where BARs are not served. -/
def barAccess (f : State → State) : Meaning := runM (modify fun s =>
  if barOpen s s.input.link.toNat then f (hostAnswer 1 0 s) else hostAnswer 2 0 s)

end Sys2Proof.Machine
end

