-- ==== Sys2Proof/Machine/Checkpoint.lean ====
section
/-! DEFINITION. Whole-memory checkpoint and restore (spec 05_main_memory_protection R100 to R102). -/

namespace Sys2Proof.Machine

/-- Change the checkpoint registers. -/
def modCk (f : Checkpoint → Checkpoint) (s : State) : State := { s with host := { s.host with ck := f s.host.ck } }

/-- The frames of device memory. -/
def frameCount : Nat := memEnd / 65536

/-- A port is up. -/
def portUp (s : State) (p : Nat) : Bool := !mget false s.host.portsDown p

/-- STATE 4, 5 or 6: held launches proceed (R102). -/
def ckEnd (st failPort : Nat) (s : State) : State := releaseSubmits (modCk (fun k => { k with status := st, failPort := failPort, op := 0 }) s)

/-- STATE 4 with MSI-X vector 1 of the function of each link A. -/
def ckDone (s : State) : State :=
  ckEnd 4 0 { s with host := { s.host with msix := s.host.msix ++ [(0, 1), (2, 1)] } }

/-- A CKCMD write of 1 or 2 (R102): ignored while STATE is 1 to 3. -/
def ckStart (op : Nat) (s : State) : State :=
  if ckBusy s then s
  else modCk (fun k => { k with
    status := 1, failPort := 0, frames := 0, crcErr := if op == 2 then 0 else k.crcErr, op := op, nextFrame := 0, lastFrame := [], ended := [] }) s

/-- A CKCMD write of 3 (R102). -/
def ckAbort (s : State) : State := if ckBusy s then ckEnd 5 0 s else s

/-- CHECKPOINT_START (R102): the write of CKCMD, which BAR0 serves from READY on (R415). -/
def execCheckpointStart : Meaning := barAccess (ckStart 1)
/-- RESTORE_START (R102). -/
def execRestoreStart : Meaning := barAccess (ckStart 2)
/-- CHECKPOINT_ABORT (R102): each record is one step, so the record in progress has ended. -/
def execCheckpointAbort : Meaning := barAccess ckAbort

/-- The conditions of R100: no core runs or holds a context that is not in memory, no claimed launch waits for its start, and
background work has ended. -/
def quiet (s : State) : Bool :=
  ((coreNumbers s).filter (· < 768)).all (fun n =>
      (coreOf s n).run == .free || (coreOf s n).run == .disabled || (coreOf s n).run == .haltedDone)
    && s.host.launches.all (·.started) && s.selfTests.isEmpty && s.bringIns.isEmpty

/-- CHECKPOINT_QUIESCED (R100, R102). -/
def execCheckpointQuiesced : Meaning := runM (do
  let s ← get
  if s.host.ck.status != 1 then pure ()
  else if quiet s then modify (modCk (fun k => { k with status := if k.op == 2 then 3 else 2 })) else stall .condition)

/-! ### Records (R100) -/

/-- A bitmap of 1,024 sectors: bit s at byte s div 8. -/
def bitmap (l : List Bool) : List Byte :=
  leBytes 128 ((l.zip (List.range 1024)).foldl (fun a p => if p.1 then a + 2 ^ p.2 else a) 0)

/-- A record with its CRC, padded to a multiple of 64 bytes (R102). -/
def sealRecord (bs : List Byte) : List Byte :=
  let r := bs ++ leBytes 4 (crc32 bs).toNat
  r ++ List.replicate ((64 - r.length % 64) % 64) 0

/-- The end record of a ring (R102). -/
def endRecord : List Byte := sealRecord (leBytes 8 (2 ^ 64 - 1) ++ leBytes 8 0)

/-- CODE of a frame (Table 5.6). -/
def frameCode (codes : List (Option Nat)) : Nat :=
  match codes.head? with
  | some none => if codes.all (·.isNone) then 62 else 63
  | some (some c) => if codes.all (· == some c) then c else 63
  | none => 62

/-- The record of a frame, each sector decoded under its stored code, and the state that its reads leave (R100). -/
def frameRecord (f : Nat) (s : State) : List Byte × State :=
  let header := fun (code : Nat) (p e r : Bool) =>
    leBytes 8 (code * 2 ^ 58 + (if p then 2 ^ 57 else 0) + (if e then 2 ^ 56 else 0) + (if r then 2 ^ 55 else 0) + f) ++ leBytes 8 0
  if retiredSector s (1024 * f) then (sealRecord (header 62 false false true), s)
  else
    let codes := (List.range 1024).map (fun k => homeCode s (1024 * f + k))
    let code := frameCode codes
    let (rs, s) := readFrame 4 (65536 * f) s
    let p := rs.any (·.marks.poison)
    let e := rs.any (·.marks.e1)
    let body := (if p then bitmap (rs.map (·.marks.poison)) else []) ++ (if e then bitmap (rs.map (·.marks.e1)) else [])
      ++ (if code == 63 then codes.map (fun c => BitVec.ofNat 8 (c.getD 62)) else [])
      ++ (if code == 62 then [] else rs.flatMap (fun r => leBytes 64 r.data.toNat))
    (sealRecord (header code p e false ++ body), s)

/-! ### Rings (R102) -/

/-- The host memory address of byte n of a ring's stream. -/
def ringByte (s : State) (p : Nat) (n : Word) : Nat :=
  2 ^ 52 * p + ((mget 0 s.host.ck.base p).toNat + n.toNat % (mget 0 s.host.ck.size p).toNat) % 2 ^ 52

/-- Room in a ring for n bytes. -/
def ringRoom (s : State) (p n : Nat) : Bool :=
  n + (mget 0 s.host.ck.head p - mget 0 s.host.ck.tail p).toNat ≤ (mget 0 s.host.ck.size p).toNat

/-- Write a record into a ring, sector by sector, and advance CKHEAD. -/
def ringPut (p : Nat) (bs : List Byte) (s : State) : State :=
  let head := mget 0 s.host.ck.head p
  let s := (List.range (bs.length / 64)).foldl (fun s k =>
    let a := ringByte s p (head + BitVec.ofNat 64 (64 * k))
    { s with hostMem := s.hostMem.write a ((bs.drop (64 * k)).take 64), hostPoison := mset false s.hostPoison (a / 64) false }) s
  modCk (fun k => { k with head := mset 0 k.head p (head + BitVec.ofNat 64 bs.length) }) s

/-- n bytes of a ring's stream from CKTAIL. -/
def ringGet (s : State) (p n : Nat) : List Byte :=
  (List.range n).map (fun i => s.hostMem.read (ringByte s p (mget 0 s.host.ck.tail p + BitVec.ofNat 64 i)))

/-- The port of a frame (R100): f mod 2, or the one that is up. -/
def framePort (s : State) (f : Nat) : Nat := if portUp s (f % 2) then f % 2 else 1 - f % 2

/-- CHECKPOINT_FRAME_WRITE (R100, R102): the next frame's record; after the last one an end record to each ring whose port is
up. -/
def execCheckpointFrameWrite : Meaning := runM (do
  let s ← get
  let f := s.host.ck.nextFrame
  if s.host.ck.status != 2 then pure ()
  else if frameCount ≤ f then
    let ports := [0, 1].filter (fun p => portUp s p && !mget false s.host.ck.ended p)
    match ports with
    | [] => modify ckDone
    | p :: _ =>
      if ringRoom s p 64 then modify (fun s => modCk (fun k => { k with ended := mset false k.ended p true }) (ringPut p endRecord s))
      else stall .bufferFull
  else if !portUp s 0 && !portUp s 1 then stall .hold
  else
    let p := framePort s f
    let (bs, s') := frameRecord f s
    if !ringRoom s p bs.length then stall .bufferFull
    else
      set s'
      modify (fun s => modCk (fun k => { k with nextFrame := f + 1, frames := k.frames + 1 }) (ringPut p bs s)))

/-! ### Restore (R101) -/

/-- The length of a record without its padding, from its header's first word. -/
def recordLength (w : Nat) : Nat :=
  let code := w / 2 ^ 58
  16 + (if w.testBit 57 then 128 else 0) + (if w.testBit 56 then 128 else 0) + (if code == 63 then 1024 else 0)
    + (if code == 62 || w.testBit 55 then 0 else 65536) + 4

/-- Set a sector as a restore finds it; a retired frame's sector keeps what it has. -/
def restoreSector (sec : Nat) (code : Option Nat) (v : BitVec 512) (mk : Marks) (s : State) : State :=
  if retiredSector s sec then s
  else match code with
    | some c => putSector sec v (some c) mk s
    | none => putSector sec 0 none {} s

/-- Write a frame as unwritten. -/
def clearFrame (f : Nat) (s : State) : State := (List.range 1024).foldl (fun s k => restoreSector (1024 * f + k) none 0 {} s) s

/-- A code byte: 0 to 16, else unwritten. -/
def codeOfByte (b : Nat) : Option Nat := if b ≤ 16 then some b else none

/-- Apply a record whose CRC is good (R101). -/
def applyRecord (f w : Nat) (bs : List Byte) (s : State) : State :=
  let code := w / 2 ^ 58
  let p := if w.testBit 57 then fieldAt bs 16 128 else 0
  let o := 16 + (if w.testBit 57 then 128 else 0)
  let e := if w.testBit 56 then fieldAt bs o 128 else 0
  let o := o + (if w.testBit 56 then 128 else 0)
  let codes := bs.drop o
  let o := o + (if code == 63 then 1024 else 0)
  let data := bs.drop o
  if w.testBit 55 then s
  else if code == 62 then clearFrame f s
  else (List.range 1024).foldl (fun s k =>
    let c := if code == 63 then codeOfByte (fieldAt codes k 1) else codeOfByte code
    restoreSector (1024 * f + k) c (BitVec.ofNat 512 (fieldAt data (64 * k) 64)) { poison := p.testBit k, e1 := e.testBit k } s) s

/-- Every ring whose port is up has ended (R102). -/
def ringsEnded (s : State) : Bool := [0, 1].all (fun p => !portUp s p || mget false s.host.ck.ended p)

/-- Take one record of a ring: `len` bytes with its padding. -/
def ringTake (p len : Nat) (s : State) : State :=
  modCk (fun k => { k with tail := mset 0 k.tail p (mget 0 k.tail p + BitVec.ofNat 64 len) }) s

/-- RESTORE_FRAME_RECORD (R101, R102): one record of the ring of port n; it waits while the ring does not hold it whole. -/
def execRestoreFrameRecord : Meaning := runM (do
  let s ← get
  let p := s.input.n % 2
  let held := (mget 0 s.host.ck.head p - mget 0 s.host.ck.tail p).toNat
  if s.host.ck.status != 3 then pure ()
  else if ringsEnded s then modify ckDone
  else if !portUp s p || mget false s.host.ck.ended p then pure ()
  else if held < 64 then stall .bufferFull
  else
    let head := ringGet s p 64
    if head == endRecord then
      modify (fun s => modCk (fun k => { k with ended := mset false k.ended p true }) (ringTake p 64 s))
      let s ← get
      if ringsEnded s then modify ckDone else pure ()
    else
      let w := fieldAt head 0 8
      let f := w % 2 ^ 23
      if w / 2 ^ 23 % 2 ^ 32 != 0 || fieldAt head 8 8 != 0 || frameCount ≤ f || f < mget 0 s.host.ck.lastFrame p then modify (ckEnd 6 p)
      else
        let n := recordLength w
        let len := (n + 63) / 64 * 64
        if held < len then stall .bufferFull
        else
          let bs := ringGet s p n
          let good := fieldAt bs (n - 4) 4 == (crc32 (bs.take (n - 4))).toNat
          modify (fun s => if good then applyRecord f w bs s else modCk (fun k => { k with crcErr := k.crcErr + 1 }) (clearFrame f s))
          modify (fun s => modCk (fun k => { k with frames := k.frames + 1, lastFrame := mset 0 k.lastFrame p (f + 1) }) (ringTake p len s)))

/-- COMPLETION_TIMEOUT (R102): a ring access of the port of the event's link got no completion. -/
def execCompletionTimeout : Meaning := runM (modify fun s =>
  if s.host.ck.status == 2 || s.host.ck.status == 3 then ckEnd 6 (s.input.link.toNat / 2) s else s)

end Sys2Proof.Machine
end

