-- ==== Sys2Proof/Machine/Loom.lean ====
section
/-! DEFINITION. The Loom and the Heddle (spec 17_loom R371 to R388): spawning, taking, ending, joining and cancelling
tasks, sheds, KV attachments; what a Loom does for another island. -/

namespace Sys2Proof.Machine

/-! ### The Heddle (R381 to R383) -/

/-- An HCFG field of a class; ROWMAX is 192 at reset (R381). -/
def hcfgOf (s : State) (die cls field : Nat) : Word :=
  mget 0 (dieOf s die).hcfg (8 * cls + field) ^^^ (if field == 0 then 0xC000#64 else 0)
/-- Write an HCFG field. -/
def setHcfg (die cls field : Nat) (v : Word) (s : State) : State :=
  let d := dieOf s die
  withDie s die { d with hcfg := mset 0 d.hcfg (8 * cls + field) (v ^^^ (if field == 0 then 0xC000#64 else 0)) }
/-- BATCH of a class. -/
def batchable (s : State) (die cls : Nat) : Bool := bit (hcfgOf s die cls 0) 0

/-- A shed place. -/
def shedOf (s : State) (die place : Nat) : Shed := mget {} (dieOf s die).sheds place
/-- Replace a shed place. -/
def withShed (die place : Nat) (x : Shed) (s : State) : State :=
  withDie s die { dieOf s die with sheds := mset {} (dieOf s die).sheds place x }

/-- The open shed of a class and weight key. -/
def openShed (s : State) (die cls : Nat) (wkey : BitVec 32) : Option Nat :=
  ((dieOf s die).sheds.find? (fun p => p.2.used && p.2.closed.isNone && p.2.cls == cls && p.2.wkey == wkey)).map (·.1)

/-- A shed closes (R382). -/
def closeShed (die place : Nat) (s : State) : State := withShed die place { shedOf s die place with closed := some s.pick } s

/-- The descriptor of a shed (R383): its 512 words for a shed task's id. -/
def descriptorBytes (s : State) (x : Shed) (task : BitVec 32) : List Byte :=
  let n := x.rows.length
  let pad := fun (k : Nat) (bs : List Byte) => bs ++ List.replicate (k - bs.length) 0
  let at' := fun (f : BitVec 32 × BitVec 32 × BitVec 32 → Nat) (w : Nat) => x.rows.flatMap (fun r => leBytes w (f r))
  leBytes 4 n ++ leBytes 4 task.toNat ++ leBytes 4 x.wkey.toNat ++ leBytes 4 x.cls
    ++ leBytes 8 (x.closed.getD s.pick).toNat ++ List.replicate 40 0
    ++ pad 768 (at' (fun r => r.1.toNat) 4) ++ pad 768 (at' (fun r => r.2.1.toNat) 4) ++ pad 768 (at' (fun r => r.2.2.toNat) 4)
    ++ pad 1728 (at' (fun r => (x.sdbase + 64#64 * r.2.1.setWidth 64).toNat) 8)

/-- The Heddle of a die writes 4,096 bytes at a place, sector by sector. -/
def writePage (f : FaultInfo) (die : Nat) (l : Loc) (bs : List Byte) : M Unit :=
  (List.range 64).forM (fun k =>
    unitWrite f die 233 { l with addr := l.addr + 64 * k } (BitVec.allOnes 64) (bitsOfBytes ((bs.drop (64 * k)).take 64)) {})

/-- A closed shed forms, or is discarded with no row (R382); none while a slot, a descriptor slot or the descriptor's page is
lacking. A descriptor that faults leaves the shed waiting (log entry 15). -/
def formShed (die place : Nat) (s : State) : Bool × State :=
  let x := shedOf s die place
  if !x.used || x.closed.isNone then (false, s)
  else if x.rows.isEmpty then (true, withShed die place {} s)
  else
    let used := ((dieOf s die).descUsed.filter (fun p => p.1 / 256 == x.cls)).map (fun p => p.1 % 256)
    match freeSlot s die, firstFree x.ndesc used with
    | some slot, some i =>
      let va := x.desc + 4096 * i
      let req : Req := { eng := 9, core := x.owner, asn := x.asn, tbase := x.tbase, fault := loomFault .badOperand, cached := false,
                         die := some die }
      let id := taskId s die slot
      let members := x.rows.map (fun r => idSlot r.1)
      let write : M Unit := do
        let l ← translate req va .write
        writePage { req.fault with addr := BitVec.ofNat 64 va } die l (descriptorBytes s x id)
        modDie die (fun d => { d with
          formed := d.formed ++ [{ slot, cls := x.cls, desc := i, host := l.host, addr := l.addr, nlc := l.nlc, members,
                                   va, owner := x.owner, asn := x.asn, tbase := x.tbase }]
          descUsed := mset false d.descUsed (256 * x.cls + i) true })
      match deviceTry write s with
      | (some e, s) =>
        let c := coreOf s x.owner
        (false, match e with
          | .fault _ _ => withCore s x.owner { c with refused := c.refused.filter (fun r => r.1 != 9) }
          | _ => s)
      | (none, s) =>
        let key := members.foldl (fun k m => max k (taskOf s die m).key.toNat) 0
        let s := members.foldl (fun s m => modTask die m (fun t => { t with state := 3, shed := some slot }) s) s
        let s := modTask die slot (fun t => { gen := t.gen, state := 1, cls := x.cls, key := BitVec.ofNat 32 key, shedtask := true,
                                              stamp := s.pick.toNat, payload := BitVec.ofNat 64 va }) s
        (true, serveTakes (withShed die place {} s))
    | _, _ => (false, s)

/-- The earliest opened shed among those open on a die (R382). -/
def earliestShed (s : State) (die : Nat) : Option Nat :=
  ((dieOf s die).sheds.foldl (fun (b : Option (Nat × Shed)) p =>
    if p.2.used && p.2.closed.isNone then
      match b with
      | none => some p
      | some q => if p.2.opened < q.2.opened then some p else b
    else b) none).map (·.1)

/-- A row joins a shed, which closes when it is full (R382). -/
def addRow (die place slot : Nat) (s : State) : State :=
  let x := shedOf s die place
  let t := taskOf s die slot
  let rows := x.rows ++ [(taskId s die slot, t.payload.extractLsb' 0 32, t.payload.extractLsb' 32 32)]
  let s := withShed die place { x with rows } s
  if x.rowmax ≤ rows.length then closeShed die place s else s

/-- A shed place that is free. -/
def freePlace (die : Nat) (s : State) : Option Nat := firstFree 16 (((dieOf s die).sheds.filter (fun p => p.2.used)).map (·.1))

/-- While no place is free, the shed opened earliest among those still open closes, and forms if it can (R382). -/
def forcePlace (die : Nat) : Nat → State → State
  | 0, s => s
  | n + 1, s => match freePlace die s, earliestShed s die with
    | none, some p => forcePlace die n (formShed die p (closeShed die p s)).2
    | _, _ => s

/-- A HELD task joins the open shed of its class and weight key, or a new one (R382). Its SPAWN's result waits while every place
holds a closed shed that waits. -/
def heddleAdd (w : SpawnWait) (s : State) : State :=
  let die := w.die
  let t := taskOf s die w.slot
  let done := fun (s : State) => answerClient die 232 w.client (.ok (loomWord 0 (taskId s die w.slot).toNat)) s
  match openShed s die t.cls w.wkey with
  | some p => done (addRow die p w.slot s)
  | none =>
    let s := forcePlace die 16 s
    match freePlace die s with
    | none => { s with spawns := s.spawns ++ [w] }
    | some p =>
      let cfg := hcfgOf s die t.cls
      let o := mget {} (dieOf s die).owners t.cls
      let x : Shed := { cls := t.cls, wkey := w.wkey, opened := s.pick.toNat, used := true, rowmax := bits (cfg 0) 15 8,
                        window := (cfg 1).toNat, desc := (cfg 2).toNat, ndesc := (cfg 3).toNat, sdbase := cfg 4,
                        owner := o.core, asn := o.asn, tbase := o.tbase }
      done (addRow die p w.slot (withShed die p x s))

/-- SPAWNs that wait for a place try again, in order. -/
def serveSpawns (s : State) : State := s.spawns.foldl (fun s w => heddleAdd w s) { s with spawns := [] }

/-! ### SPAWN (R375) -/

/-- A spawn template. -/
structure Template where
  parent : BitVec 32
  key : BitVec 32
  cls : Nat
  pflags : BitVec 4
  island : Nat
  die : Nat
  here : Bool
  node : BitVec 32
  wkey : BitVec 32
  payload : Word
deriving DecidableEq, Repr

/-- The template in four words, or none where a limit of R375 is broken. -/
def Template.parse (w0 w1 w2 w3 : Word) : Option Template :=
  let here := bit w1 28
  if bits w1 7 4 != 0 || bits w1 15 12 != 0 || bits w1 31 29 != 0 || bits w1 63 32 != 0 || (here && bits w1 27 16 != 0) then none
  else some { parent := w0.extractLsb' 0 32, key := w0.extractLsb' 32 32, cls := bits w1 3 0, pflags := w1.extractLsb' 8 4,
              island := bits w1 25 16, die := bits w1 27 26, here := here, node := w2.extractLsb' 0 32, wkey := w2.extractLsb' 32 32,
              payload := w3 }

/-- The child enters the queue or the Heddle and becomes visible (R375). -/
def enterTask (die slot : Nat) (wkey : BitVec 32) (cl : Client) (s : State) : State :=
  let t := taskOf s die slot
  if t.batch then heddleAdd ⟨die, slot, wkey, cl⟩ (modTask die slot (fun t => { t with state := 2, claimed := false }) s)
  else
    let s := modTask die slot (fun t => { t with state := 1, claimed := false, stamp := s.pick.toNat }) s
    serveTakes (answerClient die 232 cl (.ok (loomWord 0 (taskId s die slot).toNat)) s)

/-- PARENT_ENDED with no child id (R375). -/
def parentEnded : Word := loomWord 4 0xFFFFFFFF

/-- SPAWN at the Loom of the target die. -/
def spawnAt (die : Nat) (m : Template) (cl : Client) (s : State) : State :=
  let refuse := fun (c : FaultCode) => answerClient die 232 cl (.error (loomFault c)) s
  let parentHere := m.parent != noId && idIsland m.parent == s.host.island.toNat
  let batch := batchable s die m.cls
  if m.wkey != 0 && !batch then refuse .badOperand
  else if batch && (openShed s die m.cls m.wkey).isNone
      && (hcfgOf s die m.cls 1 == 0 || hcfgOf s die m.cls 2 == 0 || hcfgOf s die m.cls 3 == 0) then refuse .badOperand
  else if parentHere && slotOff s (idDie m.parent) (idSlot m.parent) then
    answerClient die 232 cl (.error (retiredFault s)) (spendFresh 2 s)
  else match freeSlot s die with
    | none => refuse .loomFull
    | some slot =>
      let fill := modTask die slot (fun t => { gen := t.gen, parent := m.parent, key := m.key, cls := m.cls, pflags := m.pflags,
                                               node := m.node, payload := m.payload, batch := batch, claimed := true })
      if m.parent == noId then enterTask die slot m.wkey cl (fill s)
      else if idIsland m.parent != s.host.island.toNat then
        askIsland die 232 (idIsland m.parent) 1 [m.parent.setWidth 64, (taskId s die slot).setWidth 64] (.counted die slot m.wkey cl) (fill s)
      else match countChild m.parent (taskId s die slot) s with
        | .ok s => enterTask die slot m.wkey cl (fill s)
        | .stale => refuse .loomStale
        | .ended => answerClient die 232 cl (.ok parentEnded) s
        | .full => refuse .loomFull

/-- A parent on another island has answered for the child in a slot (R375). -/
def counted (die slot : Nat) (wkey : BitVec 32) (cl : Client) (r : Except FaultInfo Word) (s : State) : State :=
  let release := withTask die slot { gen := (taskOf s die slot).gen } s
  match r with
  | .ok v => if v == 0 then enterTask die slot wkey cl s else answerClient die 232 cl (.ok parentEnded) release
  | .error f => answerClient die 232 cl (.error f) release

/-- The request of a Loom's reads for the core whose turn it is (R373). -/
def templateReq (s : State) : Req :=
  { eng := 8, core := s.cur, asn := s.core.attrs.asn.toNat, tbase := s.core.attrs.tbase, fault := loomFault .badOperand, cached := false }

/-- An id of another island, without the REMOTE right. -/
def needsRemote (s : State) (isl : Nat) : Bool := isl != s.host.island.toNat && !bit s.core.attrs.rights 2

/-- The Loom reads a SPAWN's template and spawns (R373, R375). -/
def spawnRead (tk : Nat) (va : Word) : M Unit := do
  let s ← get
  let bs ← (loomReach (templateReq s) (s.core.attrs.e1pol == 1)).read va.toNat 32
  let w := fun k => BitVec.ofNat 64 (leNat ((bs.drop (8 * k)).take 8))
  let cl := Client.core s.cur tk
  match Template.parse (w 0) (w 1) (w 2) (w 3) with
  | none => raise (loomFault .badOperand)
  | some m =>
    if (!m.here && needsRemote s m.island) || (m.parent != noId && needsRemote s (idIsland m.parent)) then raise (loomFault .noRight)
    else if m.here then modify (spawnAt (dieOfCore s.cur) m cl)
    else if m.island == s.host.island.toNat then modify (spawnAt m.die m cl)
    else modify (askIsland (dieOfCore s.cur) 232 m.island 0x80 [w 0, w 1, w 2, w 3] (.client cl))

/-- A part of a core's instruction that its Loom performs: it waits, to be performed again, or its fault is delivered under
R198 (R374). -/
def loomTry (tk : Nat) (m : M Unit) (s : State) : State :=
  match deviceTry m s with
  | (none, s) => answer s.cur tk (fun p => { p with redo := none }) s
  | (some (.fault f _), s) =>
    let s := { s with core := { s.core with refused := s.core.refused.filter (fun r => r.1 != 8) } }
    answer s.cur tk (fun p => { p with ready := true, fault := some f, redo := none }) s
  | (some _, s) => s

/-! ### The lanes (R373) -/

/-- A result that a Loom (flag 6) or an NSM (flag 7) answers later. -/
def loomPending (d : BitVec 6) (flag : Nat) (redo : Option Access) : M Nat := do
  let tk ← ticket
  later { d := d, ready := false, flag := flag, ticket := tk, redo := redo }
  pure tk

/-- The address of a template or a request (R373). -/
def loomAddress (a : Word) (n : Nat) : M Unit :=
  if a.toNat % n != 0 then shFault .misaligned a
  else if bit a 63 || bits a 62 52 != 0 then shFault .addrRange a
  else pure ()

/-- A lane for a Loom (flag 6) or an NSM (flag 7) of a die of this island reaches it over the mesh (R320, R325), and waits for a
self-test of its table (Table 18.8). -/
def laneGate (flag die : Nat) : M Unit := do
  let s ← get
  meshGate (loomFault .remoteFail) die (if flag == 7 then 234 else 232)
  if unitTested s (if flag == 7 then 7 else 8) die then stall .selfTest else pure ()

/-- SPAWN (R375). -/
def execSpawn (f : SA) : Meaning := runM (do
  awaitDest f.d
  let a ← readX f.t f.a
  loomAddress a 32
  let s ← get
  laneGate 6 (dieOfCore s.cur)
  let tk ← loomPending f.d 6 (some (.spawn a))
  modify (loomTry tk (spawnRead tk a)))

/-- A request to another island waits while its message cannot be injected (R318). -/
def awaitInjection (node isl : Nat) : M Unit := do
  let s ← get
  match routeNode s.strait (dieOfCore s.cur) node isl with
  | .ok port => if msgHeld s.strait port then stall .backPressure else pure ()
  | .error _ => pure ()

/-- A lane on a task or a node of this island, or by message of another (R373): `serve` does it at its home. -/
def homeLane (d : BitVec 6) (node flag op : Nat) (isl die : Nat) (toQueue : Bool) (args : List Word) (serve : Client → State → State) : M Unit := do
  let s ← get
  if needsRemote s isl then shFault .noRight
  else
    let away := isl != s.host.island.toNat
    if away then awaitInjection node isl else pure ()
    if away then pure () else laneGate flag die
    let tk ← loomPending d flag none
    modSh (fun h => { h with pending := h.pending.map (fun p => if p.ticket == tk then { p with toQueue := toQueue } else p) })
    let cl := Client.core s.cur tk
    if away then modify (askIsland (dieOfCore s.cur) node isl op args (.client cl)) else modify (serve cl)

/-- A class mask: 16 bits, one at least set (Table 17.3). -/
def checkMask (m : Word) : M Unit := if bits m 63 16 != 0 || bits m 15 0 == 0 then shFault .badOperand else pure ()

/-- TAKE (R376). -/
def execTake (f : SA) : Meaning := runM (do
  awaitDest f.d
  let m ← readX f.t f.a
  checkMask m
  let s ← get
  laneGate 6 (dieOfCore s.cur)
  let tk ← loomPending f.d 6 none
  match chooseTask s (dieOfCore s.cur) m.toNat with
  | some (die, slot) => modify (giveTask s.cur tk die slot)
  | none => modify (answerClient (dieOfCore s.cur) 232 (.core s.cur tk) (.ok (loomWord 1 0))))

/-- TAKE.W (R376). -/
def execTakeW (f : SA) : Meaning := runM (do
  awaitDest f.d
  let (m, t) ← SA.ab f
  checkMask m
  if bits t 63 32 != 0 then shFault .badOperand
  else
    let s ← get
    laneGate 6 (dieOfCore s.cur)
    let tk ← loomPending f.d 6 none
    match chooseTask s (dieOfCore s.cur) m.toNat with
    | some (die, slot) => modify (giveTask s.cur tk die slot)
    | none => modify (fun s => { s with takes := s.takes ++
        [{ core := s.cur, ticket := tk, mask := m.toNat, deadline := if t == 0 then none else some (s.pick.toNat + t.toNat) }] }))

/-- TAKE_W_TIMEOUT (R376): the waiting TAKE.W number n returns TIMEOUT once its time has passed. -/
def execTakeWTimeout : Meaning := runM (do
  let s ← get
  match s.takes[s.input.n]? with
  | none => pure ()
  | some w =>
    if w.deadline.any (· ≤ s.pick.toNat) then
      modify (fun s => answerClient 0 232 (.core w.core w.ticket) (.ok (loomWord 2 0)) { s with takes := s.takes.eraseIdx s.input.n })
    else stall .condition)

/-! ### Tasks at their home (R377 to R380, R384) -/

/-- DONE (R377). -/
def doneTask (cl : Client) (id : BitVec 32) (s : State) : State :=
  let die := idDie id
  let slot := idSlot id
  let t := taskOf s die slot
  if staleTask s id then answerClient die 232 cl (.error (loomFault .loomStale)) s
  else if t.state == 4 || t.state == 5 then
    let s := endTask die slot t.cancel (some (cl, loomWord (if t.cancel then 7 else 0) 0)) s
    if t.shedtask then endShed die slot s else s
  else if t.state == 3 then endTask die slot false (some (cl, loomWord 0 0)) s
  else answerClient die 232 cl (.ok (loomWord 5 0)) s

/-- REPRI (R378). -/
def repriTask (cl : Client) (id key : BitVec 32) (s : State) : State :=
  let die := idDie id
  let slot := idSlot id
  let t := taskOf s die slot
  let reply := fun (v : Word) => answerClient die 232 cl (.ok v)
  if staleTask s id then reply (loomWord 3 0) s
  else if t.over then reply (loomWord 5 0) s
  else
    let s := modTask die slot (fun t => { t with key := key }) s
    let s := match (if t.state == 3 then t.shed.bind (formedOf s die) else none) with
      | some f =>
        if (taskOf s die f.slot).state == 1 then
          let k := f.members.foldl (fun k m => max k (taskOf s die m).key.toNat) 0
          modTask die f.slot (fun t => { t with key := BitVec.ofNat 32 k }) s
        else s
      | none => s
    reply (loomWord 0 t.key.toNat) s

/-- TSTAT (R379). -/
def tstatTask (cl : Client) (id : BitVec 32) (s : State) : State :=
  let t := taskOf s (idDie id) (idSlot id)
  answerClient (idDie id) 232 cl
    (.ok (if staleTask s id then loomWord 3 0 else loomWord 0 (t.state + t.flags * 2 ^ 4 + t.pendingN * 2 ^ 12))) s

/-- The counts that a JOIN returns, which it clears (R380). -/
def joinCounts (status : Nat) (id : BitVec 32) (s : State) : Word × State :=
  let t := taskOf s (idDie id) (idSlot id)
  (loomWord status (t.donec + t.cancc * 2 ^ 16),
   modTask (idDie id) (idSlot id) (fun t => { t with donec := 0, cancc := 0, state := if t.state == 5 then 4 else t.state }) s)

/-- JOIN (R380). -/
def joinTask (cl : Client) (id : BitVec 32) (s : State) : State :=
  let die := idDie id
  let t := taskOf s die (idSlot id)
  if staleTask s id then answerClient die 232 cl (.error (loomFault .loomStale)) s
  else if t.state == 5 then answerClient die 232 cl (.ok (loomWord 6 0)) s
  else if t.state == 4 && t.pendingN != 0 then
    { modTask die (idSlot id) (fun t => { t with state := 5 }) s with joins := s.joins ++ [{ client := cl, task := id }] }
  else
    let (v, s) := joinCounts 0 id s
    answerClient die 232 cl (.ok v) s

/-- JOIN_COMPLETE (R380): the waiting JOIN number n completes once its task has no pending children. -/
def execJoinComplete : Meaning := runM (do
  let s ← get
  match s.joins[s.input.n]? with
  | none => pure ()
  | some j =>
    if (taskOf s (idDie j.task) (idSlot j.task)).pendingN != 0 then stall .condition
    else modify (fun s =>
      let (v, s) := joinCounts 0 j.task { s with joins := s.joins.eraseIdx s.input.n }
      answerClient (idDie j.task) 232 j.client (.ok v) s))

/-- A waiting JOIN of a client is withdrawn (R380). -/
def withdrawJoin (cl : Client) (s : State) : State :=
  match s.joins.find? (fun j => j.client == cl) with
  | none => s
  | some j =>
    let (v, s) := joinCounts 10 j.task { s with joins := s.joins.filter (fun x => x.client != cl) }
    answerClient (idDie j.task) 232 cl (.ok v) s

/-! ### Cancellation (R384) -/

/-- The row of a HELD task leaves its shed, or its SPAWN stops waiting for a place; a closed shed with no row left is
discarded (R382, R384). -/
def leaveShed (die slot : Nat) (s : State) : State :=
  let id := taskId s die slot
  let s := match s.spawns.find? (fun w => w.die == die && w.slot == slot) with
    | some w => answerClient die 232 w.client (.ok (loomWord 0 id.toNat))
        { s with spawns := s.spawns.filter (fun w => !(w.die == die && w.slot == slot)) }
    | none => s
  match (dieOf s die).sheds.find? (fun p => p.2.rows.any (fun r => r.1 == id)) with
  | none => s
  | some (place, x) =>
    let rows := x.rows.filter (fun r => r.1 != id)
    if rows.isEmpty && x.closed.isSome then serveSpawns (withShed die place {} s) else withShed die place { x with rows } s

/-- The void bit of a row, an atomic OR at the home point of the descriptor as its tables then stand (R114, R384). -/
def setVoid (die : Nat) (f : Formed) (row : Nat) : M Unit := do
  let req : Req := { eng := 9, core := f.owner, asn := f.asn, tbase := f.tbase, fault := loomFault .badOperand, cached := false,
                     die := some die }
  let va := f.va + 32 + row / 8
  let l ← translate req va .write
  unitGate { req.fault with addr := BitVec.ofNat 64 va } die 233 l
  sectorFree true l
  let s ← get
  let (r, s) := locRead true 0 l s
  let o := va % 64
  let b := leNat (sliceBytes r.data o 1) ||| 2 ^ (row % 8)
  set (locWrite l (maskOf o 1) (placeBytes o [BitVec.ofNat 8 b]) {} s)

/-- The void bit of a cancelled member is set, or still due where its descriptor's page misses; a fault leaves it unset (log
entry 42). -/
def voidMember (die slot : Nat) (s : State) : State :=
  let settled := modTask die slot (fun t => { t with voidDue := false })
  match (taskOf s die slot).shed.bind (formedOf s die) with
  | none => settled s
  | some f => match f.members.findIdx? (· == slot) with
    | none => settled s
    | some row => match deviceTry (setVoid die f row) s with
      | (some (.wait _ _), s) => modTask die slot (fun t => { t with voidDue := true }) s
      | (some _, s) =>
        let c := coreOf s f.owner
        settled (withCore s f.owner { c with refused := c.refused.filter (fun r => r.1 != 9) })
      | (none, s) => settled s

/-- CANCEL reaches a SHED member. -/
def cancelMember (die slot : Nat) (s : State) : State := voidMember die slot (endTask die slot true none s)

/-- CANCEL at one task, atomic on its slot; the tasks counted. -/
def cancelOne (die slot : Nat) (s : State) : Nat × State :=
  let t := taskOf s die slot
  let members := match (if t.shedtask && !t.over then formedOf s die slot else none) with
    | some f => f.members.filter (fun m => (taskOf s die m).state == 3)
    | none => []
  let s := members.foldl (fun s m => cancelMember die m s) s
  let n := members.length
  if t.state == 1 then
    let s := endTask die slot true none s
    (n + 1, if t.shedtask then endShed die slot s else s)
  else if t.state == 2 then (n + 1, endTask die slot true none (leaveShed die slot s))
  else if t.state == 3 then (n + 1, cancelMember die slot s)
  else if t.state == 4 || t.state == 5 then
    (if t.cancel then n else n + 1, modTask die slot (fun t => { t with cancel := true }) s)
  else (n, s)

/-- The visit of a cancel over a stack of tasks, depth first (R384): the tasks counted and the messages sent. A stale link
leads nowhere. -/
def cancelTree (cont : LoomCont) (from' : Nat) : Nat → List (BitVec 32) → Nat × Nat × State → Nat × Nat × State
  | 0, _, acc => acc
  | _, [], acc => acc
  | fuel + 1, id :: rest, (n, m, s) =>
    if idIsland id != s.host.island.toNat then
      cancelTree cont from' fuel rest (n, m + 1, askIsland from' 232 (idIsland id) 3 [id.setWidth 64] cont s)
    else if staleTask s id || slotOff s (idDie id) (idSlot id) then cancelTree cont from' fuel rest (n, m, s)
    else
      let children := (taskOf s (idDie id) (idSlot id)).children
      let (k, s) := cancelOne (idDie id) (idSlot id) s
      cancelTree cont (idDie id) fuel (children ++ rest) (n + k, m, s)

/-- A bound on the visits of a cancel: every task and every link of the island. -/
def cancelFuel (s : State) : Nat :=
  [0, 1, 2, 3].foldl (fun n d => (dieOf s d).tasks.foldl (fun n p => n + 1 + p.2.children.length) n) 1

/-- CANCEL (R384) for a core of an island: the flag rises there with each reply. -/
def cancelTask (cl : Client) (isl core : Nat) (id : BitVec 32) (flag : Nat) (s : State) : State :=
  if staleTask s id then answerClient (idDie id) 232 cl (.ok (loomWord 3 0)) s
  else
    let (n, m, s) := cancelTree (.flag isl core flag) (idDie id) (cancelFuel s) [id] (0, 0, s)
    answerClient (idDie id) 232 cl (.ok (loomWord 0 (n % 2 ^ 16 + m % 2 ^ 16 * 2 ^ 16))) s

/-- The tasks of the island that have ended and are not FREE yet. -/
def endedTasks (s : State) : List (BitVec 32) :=
  (List.range 4).flatMap (fun d => ((dieOf s d).tasks.filter (fun t => t.2.over)).map (fun t => taskId s d t.1))

/-- The cancel of a subtree that a remote parent's Loom asks for: the reply comes once all of it has been handled (R384). -/
def cancelChild (cl : Client) (id : BitVec 32) (s : State) : State :=
  if staleTask s id then answerClient (idDie id) 232 cl (.ok 0) s
  else
    let g := s.nextGroup
    let before := endedTasks s
    let (_, m, s) := cancelTree (.group g) (idDie id) (cancelFuel s) [id] (0, 0, { s with nextGroup := g + 1 })
    serveGroups { s with groups := s.groups ++
      [{ id := g, left := m, client := cl, tasks := (endedTasks s).filter (fun t => !before.contains t) }] }

/-- One remote subtree of a group has been handled. -/
def groupStep (g : Nat) (s : State) : State :=
  serveGroups { s with groups := s.groups.map (fun x => if x.id == g then { x with left := x.left - 1 } else x) }

/-! ### The task lanes -/

/-- What the Loom of a task's island does for a task instruction. -/
def serveTask (op : Nat) (cl : Client) (isl core : Nat) (a b : Word) (s : State) : State :=
  let id := a.setWidth 32
  if slotOff s (idDie id) (idSlot id) then answerClient (idDie id) 232 cl (.error (retiredFault s)) (spendFresh 2 s)
  else if op == 0x83 then doneTask cl id s
  else if op == 0x84 then cancelTask cl isl core id b.toNat s
  else if op == 0x85 then repriTask cl id (b.setWidth 32) s
  else if op == 0x86 then joinTask cl id s
  else tstatTask cl id s

/-- A lane on a task id (Table 17.3). -/
def taskLane (f : SA) (op : Nat) (ok : Word → Bool) : M Unit := do
  awaitDest f.d
  let (a, b) ← SA.ab f
  if bits a 63 32 != 0 || !ok b then shFault .badOperand
  else
    let s ← get
    homeLane f.d 232 6 op (idIsland (a.setWidth 32)) (idDie (a.setWidth 32)) false [a, b, BitVec.ofNat 64 s.cur]
      (fun cl => serveTask op cl s.host.island.toNat s.cur a b)

/-- DONE (R377). -/
def execDone (f : SA) : Meaning := runM (taskLane f 0x83 (fun _ => true))
/-- CANCEL (R384). -/
def execCancel (f : SA) : Meaning := runM (taskLane f 0x84 (fun b => bits b 63 5 == 0 && (b == 0 || 8 ≤ b.toNat)))
/-- REPRI (R378). -/
def execRepri (f : SA) : Meaning := runM (taskLane f 0x85 (fun b => bits b 63 32 == 0))
/-- JOIN (R380). -/
def execJoin (f : SA) : Meaning := runM (taskLane f 0x86 (fun _ => true))
/-- TSTAT (R379). -/
def execTstat (f : SA) : Meaning := runM (taskLane f 0x87 (fun _ => true))

/-! ### TKV (R386, R387) -/

/-- The Loom performs a TKV: the request, the task's state, the references and the attachment record. -/
def tkvRead (tk : Nat) (id : BitVec 32) (va : Word) : M Unit := do
  let s ← get
  if s.core.attrs.kvpools == 0 then raise (loomFault .badOperand)
  let req := templateReq s
  let r := loomReach req (s.core.attrs.e1pol == 1)
  let bs ← r.read va.toNat 16
  let sd := leNat (bs.take 8)
  let j := leNat ((bs.drop 8).take 4)
  let nb := leNat ((bs.drop 12).take 2)
  let die := idDie id
  let t := taskOf s die (idSlot id)
  let d := dieOf s die
  if sd % 64 != 0 then raise { loomFault .misaligned with addr := BitVec.ofNat 64 sd }
  else if nb == 0 || leNat (bs.drop 14) != 0 then raise (loomFault .badOperand)
  else if slotOff s die (idSlot id) then
    modify (fun s => answerClient die 232 (.core s.cur tk) (.error (retiredFault s)) (spendFresh 2 s))
  else if staleTask s id then raise (loomFault .loomStale)
  else if t.over then modify (answerClient die 232 (.core s.cur tk) (.ok (loomWord 5 0)))
  else match firstFree attRecords (d.attUsed.map (·.1)) with
    | none => raise (loomFault .loomFull)
    | some i =>
      if d.attBase == 0 then raise (loomFault .loomFull)
      else if s.holds.any (fun h => h.1 == req.asn && h.2.1 == sd) then stall .hold
      else
        let q ← readSeq r (BitVec.ofNat 64 sd)
        let p ← readPool r s.core.attrs.kvpools q.pool
        if q.cap < j + nb then raise (loomFault .badOperand)
        else
          let ops ← (List.range nb).mapM (fun k => do
            let slot ← heldEntry r q p (j + k)
            pure (slot, false))
          let (counts, freed) ← countOps r p ops [] []
          commitCounts r p req.asn req.tbase counts freed
          let a : Attachment := { sd := sd, asn := req.asn, j := j, nb := nb, next := t.kvhead.toNat % 2 ^ 16 }
          modify (devWrite 16 (d.attBase + 16 * i) a.bytes)
          modDie die (fun d => { d with attUsed := mset {} d.attUsed i { used := true, tbase := req.tbase, kvpools := s.core.attrs.kvpools } })
          modify (modTask die (idSlot id) (fun t => { t with kvhead := BitVec.ofNat 32 i }))
          modify (answerClient die 232 (.core s.cur tk) (.ok (loomWord 0 nb)))

/-- TKV (R386). -/
def execTkv (f : SA) : Meaning := runM (do
  awaitDest f.d
  let (a, b) ← SA.ab f
  let s ← get
  if bits a 63 32 != 0 || idIsland (a.setWidth 32) != s.host.island.toNat then shFault .badOperand
  else
    loomAddress b 16
    laneGate 6 (idDie (a.setWidth 32))
    let tk ← loomPending f.d 6 (some (.tkv (a.setWidth 32) b))
    modify (loomTry tk (tkvRead tk (a.setWidth 32) b)))

/-! ### HCFG, HFLUSH, HSTAT (R381 to R383) -/

/-- The limits of Table 17.5. -/
def hcfgOk (field : Nat) (v : Word) : Bool :=
  match field with
  | 0 => bits v 7 1 == 0 && bits v 63 16 == 0 && 1 ≤ bits v 15 8 && bits v 15 8 ≤ 192
  | 1 => 1 ≤ v.toNat && v.toNat ≤ 2 ^ 24
  | 2 => v != 0 && v.toNat % 4096 == 0 && v.toNat < 2 ^ 52
  | 3 => 1 ≤ v.toNat && v.toNat ≤ 256
  | _ => v.toNat % 64 == 0 && v.toNat < 2 ^ 52

/-- Close the open sheds of a die that a class test names; how many (R383). -/
def closeClasses (die : Nat) (p : Nat → Bool) (s : State) : Nat × State :=
  let open' := (dieOf s die).sheds.filter (fun x => x.2.used && x.2.closed.isNone && p x.2.cls)
  (open'.length, open'.foldl (fun s x => closeShed die x.1 s) s)

/-- A lane that the Heddle of the issuing core's die answers at once. -/
def heddleLane (d : BitVec 6) (act : Nat → State → Except FaultInfo Word × State) : M Unit := do
  let s ← get
  meshGate (loomFault .remoteFail) (dieOfCore s.cur) 233
  let tk ← loomPending d 6 none
  modify (fun s =>
    let (r, s) := act (dieOfCore s.cur) s
    answerClient (dieOfCore s.cur) 232 (.core s.cur tk) r s)

/-- HCFG (R381). -/
def execHcfg (f : SA) : Meaning := runM (do
  awaitDest f.d
  let (a, v) ← SA.ab f
  let cls := bits a 3 0
  let field := bits a 11 8
  if bits a 7 4 != 0 || bits a 63 12 != 0 || 5 ≤ field then shFault .badOperand
  else heddleLane f.d (fun die s =>
    if !hcfgOk field v then (.error (loomFault .badOperand), s)
    else
      let old := hcfgOf s die cls field
      let s := if field == 0 && bit old 0 && !bit v 0 then (closeClasses die (· == cls) s).2 else s
      let s := setHcfg die cls field v s
      let s := if field == 2 then
          let d := dieOf s die
          let o : DescOwner := { core := s.cur, asn := s.core.attrs.asn.toNat, tbase := s.core.attrs.tbase }
          withDie s die { d with owners := mset {} d.owners cls o }
        else s
      (.ok (loomWord 0 (old.toNat % 2 ^ 55)), s)))

/-- HFLUSH (R383). -/
def execHflush (f : SA) : Meaning := runM (do
  awaitDest f.d
  let m ← readX f.t f.a
  if bits m 63 16 != 0 then shFault .badOperand
  else heddleLane f.d (fun die s =>
    let (n, s) := closeClasses die (fun c => bit m c) s
    (.ok (loomWord 0 n), s)))

/-- HSTAT (R383). -/
def execHstat (f : SA) : Meaning := runM (do
  awaitDest f.d
  let a ← readX f.t f.a
  if bits a 63 4 != 0 then shFault .badOperand
  else heddleLane f.d (fun die s =>
    let x := shedOf s die a.toNat
    (.ok (loomWord 0 (if !x.used then 0 else
      x.rows.length + x.cls * 2 ^ 8 + (if x.closed.isNone then 2 ^ 12 else 0) + x.wkey.toNat * 2 ^ 16)), s)))

/-! ### Events of the Loom and the Heddle -/

/-- SHED_WINDOW_EXPIRY (R382): a shed's window has passed since its first row. -/
def execShedWindowExpiry : Meaning := runM (do
  let s ← get
  let die := s.input.die.toNat
  let x := shedOf s die s.input.n
  if !x.used || x.closed.isSome then pure ()
  else if x.opened + x.window ≤ s.pick.toNat then modify (closeShed die s.input.n)
  else stall .condition)

/-- SHED_FORM (R382): a closed shed forms or is discarded; a place frees. -/
def execShedForm : Meaning := runM (do
  let s ← get
  let die := s.input.die.toNat
  let x := shedOf s die s.input.n
  if !x.used || x.closed.isNone then pure ()
  else
    let (done, s) := formShed die s.input.n s
    set s
    if done then modify serveSpawns else throw (.wait .outcome true))

/-- TASK_FREE (R370): the drops of an ended task go on and its DONE is answered; then it becomes FREE. -/
def execTaskFree : Meaning := runM (do
  let s ← get
  let die := s.input.die.toNat
  if !(taskOf s die s.input.n).over then pure ()
  else
    modify (fun s => if (taskOf s die s.input.n).voidDue then voidMember die s.input.n s else s)
    modify (settleTask die s.input.n)
    let s ← get
    if mayFree s die s.input.n then modify (freeTask die s.input.n) else throw (.wait .outcome true))

/-- PIN_RELEASE_PUSH (R175): a slot whose count is 0 and on which no stream pin is held any more is pushed. -/
def execPinReleasePush : Meaning := runM (do
  let s ← get
  let die := s.input.die.toNat
  match (dieOf s die).pinned[s.input.n]? with
  | none => pure ()
  | some x =>
    if slotPinned s x.pool x.slot then stall .outcome
    else
      let r := loomReach (dropReq die x.asn x.tbase) false
      let bs ← r.read x.va 64
      match Pool.parse x.va x.pool (bitsOfBytes bs) with
      | none => pure ()
      | some p =>
        if x.zero then r.ready [(p.bpt + 2 * x.slot, 2)] else pure ()
        pushSlots r p [x.slot]
        if x.zero then r.write (p.bpt + 2 * x.slot) (leBytes 2 0) else pure ()
      modDie die (fun d => { d with pinned := d.pinned.eraseIdx s.input.n }))

end Sys2Proof.Machine
end

