-- ==== Sys2Proof/Machine/Nsm.lean ====
section
/-! DEFINITION. Node statistics (spec 17_loom R389 to R393), and the messages by which the Looms and NSMs of different
islands serve each other (R373). -/

namespace Sys2Proof.Machine

/-! ### Node records (R389, R390) -/

/-- Records of an NSM. -/
def nodeRecords : Nat := 524288
/-- A node record. -/
def nodeOf (s : State) (die index : Nat) : Node := mget {} (dieOf s die).nodes index
/-- Change a node record. -/
def modNode (die index : Nat) (f : Node → Node) (s : State) : State :=
  let d := dieOf s die
  withDie s die { d with nodes := mset {} d.nodes index (f (nodeOf s die index)) }
/-- A word of a record (Table 17.6). -/
def Node.word (x : Node) (k : Nat) : Word :=
  match k with
  | 0 => x.depth ++ (x.gen ++ x.parent)
  | 1 => x.vl ++ x.n
  | 2 => x.p ++ x.w
  | _ => x.pword
/-- Write word 1, 2 or 3 of a record. -/
def Node.setWord (x : Node) (k : Nat) (v : Word) : Node :=
  match k with
  | 1 => { x with n := v.extractLsb' 0 32, vl := v.extractLsb' 32 32 }
  | 2 => { x with w := v.extractLsb' 0 32, p := v.extractLsb' 32 32 }
  | _ => { x with pword := v }
/-- A handle is stale (R390). -/
def staleNode (s : State) (id : BitVec 32) (g : Nat) : Bool :=
  let x := nodeOf s (idDie id) (idIndex id)
  !x.live || x.gen.toNat != g

/-- The record has been retired (R403, R406). -/
def nodeOff (s : State) (die index : Nat) : Bool := mget false (dieOf s die).nodesOff index

/-! ### Nodes at their home (R390 to R392) -/

/-- NALLOC on a die (R391). -/
def allocNode (die : Nat) (cl : Client) (parent p : BitVec 32) (s : State) : State :=
  let parentOff := parent != noId && idIsland parent == s.host.island.toNat && nodeOff s (idDie parent) (idIndex parent)
  if parentOff then answerClient die 234 cl (.error (retiredFault s)) (spendFresh 2 s)
  else match firstFree nodeRecords (mergeUsed (((dieOf s die).nodes.filter (fun x => x.2.live)).map (·.1)) ((dieOf s die).nodesOff.map (·.1))) with
  | none => answerClient die 234 cl (.ok (loomWord 9 0)) s
  | some i =>
    let put := fun (depth : BitVec 16) (s : State) => modNode die i (fun x => { gen := x.gen, parent, p, live := true, depth }) s
    let id := s.host.island.toNat * 2 ^ 22 + die * 2 ^ 20 + i
    let done := fun (s : State) => answerClient die 234 cl (.ok (loomWord 0 (id + (nodeOf s die i).gen.toNat * 2 ^ 32))) s
    if parent == noId then done (put 0 s)
    else if idIsland parent == s.host.island.toNat then done (put ((nodeOf s (idDie parent) (idIndex parent)).depth + 1) s)
    else askIsland die 234 (idIsland parent) 5 [parent.setWidth 64] (.depth die i cl) (put 0 s)

/-- One step of a chain update at its node (R392). -/
def updateNode (back : Bool) (b : Word) (x : Node) : Node :=
  if back then
    { x with
      n := BitVec.ofNat 32 (min (x.n.toNat + 1) (2 ^ 32 - 1))
      w := BitVec.ofNat 32 (fp32.add 0 false (fp32.decode x.w.toNat) (fp32.decode (bits b 31 0))).1
      vl := BitVec.ofNat 32 (x.vl.toNat - bits b 47 32) }
  else { x with vl := BitVec.ofNat 32 (min (x.vl.toNat + bits b 31 0) (2 ^ 32 - 1)) }

/-- The walk of NVLOSS or NBACK from a node on, lv levels done (R392); on another island it goes on by message. -/
def walkNodes (back : Bool) (cl : Client) (die : Nat) : Nat → BitVec 32 → Word → Nat → State → State
  | 0, id, _, lv, s => answerClient die 234 cl (.ok (loomWord (if id == noId then 0 else 8) lv)) s
  | fuel + 1, id, b, lv, s =>
    if id == noId then answerClient die 234 cl (.ok (loomWord 0 lv)) s
    else if idIsland id != s.host.island.toNat then
      askIsland die 234 (idIsland id) (if back then 7 else 6) [id.setWidth 64, b, BitVec.ofNat 64 lv] (.client cl) s
    else if nodeOff s (idDie id) (idIndex id) then answerClient die 234 cl (.error (retiredFault s)) (spendFresh 2 s)
    else
      let x := nodeOf s (idDie id) (idIndex id)
      let s := modNode (idDie id) (idIndex id) (updateNode back b) s
      let b := if back && bit b 48 then b ^^^ 0x80000000#64 else b
      walkNodes back cl (idDie id) fuel x.parent b (lv + 1) s

/-- What the NSM of a node's island does for a node instruction. -/
def serveNode (op : Nat) (cl : Client) (a b : Word) (s : State) : State :=
  let id : BitVec 32 := a.setWidth 32
  let die := idDie id
  let k := bits a 49 48
  let reply := fun (v : Word) => answerClient die 234 cl (.ok v)
  let stale := staleNode s id (bits a 47 32)
  if nodeOff s die (idIndex id) then answerClient die 234 cl (.error (retiredFault s)) (spendFresh 2 s)
  else if op == 0x92 then reply ((nodeOf s die (idIndex id)).word k) s
  else if op == 0x93 && k == 0 then reply (loomWord 5 0) s
  else if stale then reply (loomWord 3 0) s
  else if op == 0x91 then reply (loomWord 0 0) (modNode die (idIndex id) (fun x => { x with live := false, gen := x.gen + 1 }) s)
  else if op == 0x93 then reply (loomWord 0 0) (modNode die (idIndex id) (fun x => x.setWord k b) s)
  else walkNodes (op == 0x95) cl die 64 id b 0 s

/-! ### The lanes (R373, R390, R393) -/

/-- A lane on a node handle: the bits of xa and xb that must be 0; a Q update names x0 (R393). -/
def nodeLane (f : SA) (op : Nat) (okA okB : Word → Bool) (mayQueue : Bool) : M Unit := do
  awaitDest f.d
  let (a, b) ← SA.ab f
  let q := mayQueue && bit a 50
  if !okA a || !okB b || nodeRecords ≤ idIndex (a.setWidth 32) || (q && f.d != 0) then shFault .badOperand
  else homeLane f.d 234 7 op (idIsland (a.setWidth 32)) (idDie (a.setWidth 32)) q [a, b] (fun cl => serveNode op cl a b)

/-- NALLOC (R391). -/
def execNalloc (f : SA) : Meaning := runM (do
  awaitDest f.d
  let (a, b) ← SA.ab f
  let s ← get
  let parent : BitVec 32 := a.setWidth 32
  if bits a 63 32 != 0 || bits b 63 32 != 0 || (parent != noId && nodeRecords ≤ idIndex parent) then shFault .badOperand
  else if parent != noId && needsRemote s (idIsland parent) then shFault .noRight
  else
    if parent != noId && idIsland parent != s.host.island.toNat then awaitInjection 234 (idIsland parent) else pure ()
    laneGate 7 (dieOfCore s.cur)
    let tk ← loomPending f.d 7 none
    modify (allocNode (dieOfCore s.cur) (.core s.cur tk) parent (b.setWidth 32)))

/-- NFREE (R391). -/
def execNfree (f : SA) : Meaning := runM (nodeLane f 0x91 (fun a => bits a 63 48 == 0) (fun _ => true) false)
/-- NLD (R390). -/
def execNld (f : SA) : Meaning := runM (nodeLane f 0x92 (fun a => bits a 63 50 == 0) (fun _ => true) false)
/-- NST (R390). -/
def execNst (f : SA) : Meaning := runM (nodeLane f 0x93 (fun a => bits a 63 50 == 0) (fun _ => true) false)
/-- NVLOSS (R392). -/
def execNvloss (f : SA) : Meaning :=
  runM (nodeLane f 0x94 (fun a => bits a 63 51 == 0 && bits a 49 48 == 0) (fun b => bits b 63 32 == 0) true)
/-- NBACK (R392). -/
def execNback (f : SA) : Meaning :=
  runM (nodeLane f 0x95 (fun a => bits a 63 51 == 0 && bits a 49 48 == 0) (fun b => bits b 63 49 == 0) true)

/-! ### Messages (R373, R375, R384, R391, R392) -/

/-- What a reply, or its failure, continues. -/
def continueWait (w : LoomWait) (r : Except FaultInfo Word) (s : State) : State :=
  match w.cont with
  | .client cl => answerClient (w.node / 256) (w.node % 256) cl r s
  | .counted die slot wkey cl => counted die slot wkey cl r s
  | .told die slot => match r with
    | .ok _ => finishDone die slot (modTask die slot (fun t => { t with told := true }) s)
    | .error _ => match (taskOf s die slot).ending with
      | some (cl, _) => answerClient die 232 cl r (modTask die slot (fun t => { t with ending := none }) s)
      | none => s
  | .flag isl core fl => match r with
    | .ok _ =>
      if fl == 0 then s
      else if isl == s.host.island.toNat then withCore s core ((coreOf s core).addFlag fl 1)
      else injectMsg w.node isl (msgFlit s isl 0 [4, BitVec.ofNat 64 core, BitVec.ofNat 64 fl]) s
    | .error _ => s
  | .group g => match r with
    | .ok _ => groupStep g s
    | .error _ => s
  | .depth die i cl => match r with
    | .ok v =>
      let s := modNode die i (fun x => { x with depth := v.setWidth 16 + 1 }) s
      let id := s.host.island.toNat * 2 ^ 22 + die * 2 ^ 20 + i
      answerClient die 234 cl (.ok (loomWord 0 (id + (nodeOf s die i).gen.toNat * 2 ^ 32))) s
    | .error _ => answerClient die 234 cl r (modNode die i (fun x => { gen := x.gen }) s)

/-- The wait for a tag ends. -/
def endWait (isl : Option Nat) (tag : Nat) (r : Except FaultInfo Word) (s : State) : State :=
  match s.loomWaits.find? (fun w => w.tag == tag && isl.all (· == w.island)) with
  | none => s
  | some w => continueWait w r { s with loomWaits := s.loomWaits.filter (fun x => x.tag != tag) }

/-- A message that cannot be completed (R314): REMOTE_FAIL with its cause. -/
def failMessage (tag cause : Nat) (s : State) : State :=
  endWait none tag (.error { loomFault .remoteFail with cause := cause }) s

/-- What a message from another island asks for. -/
def serveMessage (cl : Client) (src op : Nat) (a b c d : Word) (s : State) : State :=
  let id : BitVec 32 := a.setWidth 32
  if op == 1 then
    match countChild id (b.setWidth 32) s with
    | .ok s => answerClient (idDie id) 232 cl (.ok 0) s
    | .ended => answerClient (idDie id) 232 cl (.ok 1) s
    | .stale => answerClient (idDie id) 232 cl (.error (loomFault .loomStale)) s
    | .full => answerClient (idDie id) 232 cl (.error (loomFault .loomFull)) s
  else if op == 2 then answerClient (idDie id) 232 cl (.ok 0) (tellParent id (c == 1) s)
  else if op == 3 then cancelChild cl id s
  else if op == 4 then withCore s (a.toNat % 1024) ((coreOf s (a.toNat % 1024)).addFlag (b.toNat % 32) 1)
  else if op == 5 then answerClient (idDie id) 234 cl (.ok ((nodeOf s (idDie id) (idIndex id)).depth.setWidth 64)) s
  else if op == 6 || op == 7 then walkNodes (op == 7) cl (idDie id) (64 - c.toNat) id b c.toNat s
  else if op == 8 then withdrawJoin (.island src b.toNat) s
  else if op == 0x80 then
    match Template.parse a b c d with
    | some m => spawnAt m.die m cl s
    | none => answerClient 0 232 cl (.error (loomFault .badOperand)) s
  else if 0x83 ≤ op && op ≤ 0x87 then serveTask op cl src c.toNat a b s
  else if 0x91 ≤ op && op ≤ 0x95 then serveNode op cl a b s
  else s

/-- The message that arrives: a reply to a message of this island, or an operation that another island asks for. -/
def takeMessage (s : State) : State :=
  let fl := s.input.flit
  let w := msgWord fl.data
  let op := bits (w 0) 7 0
  let src := fl.src.toNat
  if op == 0 then
    endWait (some src) fl.tag.toNat
      (if bits (w 0) 15 8 == 0 then .ok (w 1)
       else .error { loomFault (replyFault (bits (w 0) 15 8)) with cause := bits (w 0) 31 16, addr := w 1 }) s
  else serveMessage (.island src fl.tag.toNat) src op (w 1) (w 2) (w 3) (w 4) s

/-! ### Pre-emption (R380) -/

/-- A JOIN or a TAKE.W of a core still waits: JOINs are withdrawn, on another island by message, and TAKE.Ws return
TIMEOUT (R380). -/
def withdrawWaits (core : Nat) (s : State) : State :=
  let mine := fun (cl : Client) => match cl with
    | .core n _ => n == core
    | .island _ _ => false
  let s := (s.takes.filter (fun w => w.core == core)).foldl (fun s w =>
    answerClient 0 232 (.core core w.ticket) (.ok (loomWord 2 0)) s) { s with takes := s.takes.filter (fun w => w.core != core) }
  let s := (s.joins.filter (fun j => mine j.client)).foldl (fun s j => withdrawJoin j.client s) s
  (s.loomWaits.filter (fun w => w.op == 0x86 && (match w.cont with
    | .client cl => mine cl
    | _ => false))).foldl (fun s w =>
      injectMsg w.node w.island (msgFlit s w.island 0 [8, w.arg, BitVec.ofNat 64 w.tag])
        { s with loomWaits := s.loomWaits.map (fun x => if x.tag == w.tag then { x with op := 0 } else x) }) s

/-- A result of this chapter is still awaited; one that a full reply queue holds is saved with the context (R376, R380). -/
def loomBusy (c : Core) : Bool :=
  c.sh.pending.any (fun p => !p.ready && (p.flag == 6 || p.flag == 7) && !c.sh.heldReplies.any (fun r => r.ticket == some p.ticket))

/-! ### Results (R196, R198, R358) -/

/-- An AFADD that has not returned: held or performed again (R358), or with another island. -/
def afaddOut (s : State) (p : Pending) : Bool :=
  !p.ready && ((match p.redo with | some (.atomic op _ _ _ _) => op == 0x58 | _ => false) ||
    s.strait.waiting.any (fun r => r.core == s.cur && r.engine == 1 && r.ticket == p.ticket && r.kind == .atomic && r.op == 0x58 && !r.done))

/-- The issuing phase of an access is still in the queues and has not begun (R358). -/
def phaseWaits (c : Core) (id : Nat) : Bool :=
  (c.ph.openId == some id || c.ph.closed.any (fun p => p.1 == id)) && !c.ph.exec.any (fun e => e.id == id)

/-- Do a part for the pending result of index n, in place of it, as its own lane in its own phase (R358); what it leaves
outstanding keeps its place among the core's results, and the flags of an AFADD return with it. -/
def asPending (n : Nat) (p : Pending) (m : M FFlags) : M Unit := do
  let s ← get
  let h := s.core.sh
  let alive := p.phase.filter (fun id => s.core.ph.exec.any (fun e => e.id == id))
  let rest := h.pending.eraseIdx n
  modCore (fun c => { c with
    ph := { c.ph with openId := alive }
    sh := { c.sh with pc := p.bundle, lane := p.lane, pending := rest } })
  let fl ← m
  modCore (fun c => { c with
    ph := { c.ph with openId := s.core.ph.openId }
    sh := { c.sh with
      pc := h.pc
      lane := h.lane
      pending := rest.take n ++ c.sh.pending.drop rest.length ++ rest.drop n } })
  setFstatLate n fl

/-- The Loom tries its reads again; it goes on waiting where they still miss. -/
def redoLoom (p : Pending) (m : M Unit) : M Unit := do
  modify (loomTry p.ticket m)
  let s ← get
  if s.core.sh.pending.any (fun x => x.ticket == p.ticket && x.redo.isSome) then throw (.wait .pageMiss true) else pure ()

/-- The result of a long-latency instruction returns (R196): its destination becomes FULL and its flag rises. A held
access is performed again (R358); a result that carries a fault waits for its delivery (R198). -/
def execLongLatencyResult : Meaning := coreEvent (do
  let s ← get
  match s.core.sh.pending[s.input.n]? with
  | none => pure ()
  | some p =>
    match p.redo, p.ready with
    | some acc, false =>
      match acc with
      | .spawn va => redoLoom p (spawnRead p.ticket va)
      | .tkv id va => redoLoom p (tkvRead p.ticket id va)
      | _ =>
        if acc == .fstat then
          if (s.core.sh.pending.take s.input.n).any (afaddOut s) then stall .outcome
          else modSh (fun h => { h with pending := h.pending.set s.input.n { p with ready := true, redo := none } })
        else if p.phase.any (phaseWaits s.core) then stall .marker
        else asPending s.input.n p (redoAccess acc p.d)
    | _, false => stall .outcome
    | _, true =>
      if p.fault.isSome then pure ()
      else
        modSh (fun h => { h.put p.d p.value with pending := h.pending.eraseIdx s.input.n })
        if p.flag < 32 then modCore (fun c => c.addFlag p.flag 1) else pure ())

end Sys2Proof.Machine
end

