-- ==== Sys2Proof/Machine/Context.lean ====
section
/-! DEFINITION. Contexts (spec 16_execution_scheduling R364 to R367; 19_host_bringup R414): pre-emption, CTXSAVE and
CTXLOAD. -/

namespace Sys2Proof.Machine

/-! ### Saved contexts (R366, R367) -/

/-- The sectors of an image: 675,840 bytes. -/
def imageSectors : Nat := 10560
/-- Regions 1 to 4 (Table 16.5): the window and the control page, word by word. -/
def imageWord (c : Core) (o : Nat) : List Byte := leBytes 8 (c.nearRead o).1.toNat
/-- The sector of region 7 that holds the image's number. -/
def imageIdSector : Nat := 0xA4000 / 64

/-- The sectors of an image with their marks: the architectural regions; the rest is free, but for the image's number. -/
def imageData (c : Core) (id : Nat) (base : Nat) (k : Nat) : BitVec 512 × Marks :=
  if k < 0x92000 / 64 then
    (BitVec.ofNat 512 (leNat ((List.range 8).flatMap (fun i => imageWord c (64 * k + 8 * i)))),
     if k < 0x1FC0 then c.tiles.mark k else {})
  else
    let v := Config.freeValue 512 (base + k)
    (if k == imageIdSector then (v >>> 64 <<< 64) ||| BitVec.ofNat 512 id else v, {})

/-- Replace a core's number wherever the device remembers a requester (a context moves with its outstanding results). -/
def renameCore (old new : Nat) (s : State) : State :=
  let m := fun (n : Nat) => if n == old then new else n
  let own := fun (c : Core) => { c with saver := c.saver.map (fun p => (m p.1, p.2)) }
  { s with
    core := own s.core
    others := s.others.map (fun p => (p.1, own p.2))
    holds := s.holds.map (fun h => (h.1, h.2.1, if 2 ^ 20 ≤ h.2.2 then 2 ^ 20 + m (h.2.2 - 2 ^ 20) else m h.2.2))
    loomWaits := s.loomWaits.map (fun w => match w.cont with
      | .flag isl c f => if isl == s.host.island.toNat then { w with cont := .flag isl (m c) f } else w
      | _ => w)
    strait := { s.strait with
      waiting := s.strait.waiting.map (fun r => { r with core := m r.core })
      drains := s.strait.drains.map (fun r => { r with core := m r.core })
      drainCore := m s.strait.drainCore }
    pageReqs := s.pageReqs.map (fun q => { q with waiters := q.waiters.map (fun w => (m w.1, w.2)) })
    host := { s.host with launches := s.host.launches.map (fun l =>
      if l.number == (coreOf s old).attrs.launch then { l with leaves := l.leaves.map (fun x => (m x.1, x.2)) } else l) } }

/-- A command that has still to complete stands again before the others, with its record (RELP of Table 8.3; R161). -/
def EngQueue.rejoin (q : EngQueue) : EngQueue :=
  { q with
    entries := q.ending.map Entry.cmd ++ q.entries
    ending := []
    heldAt := if q.held then q.heldAt + q.ending.length else 0 }

/-- A context as it is kept: its caches and pins are not saved (R366). -/
def savedCore (c : Core) : Core :=
  { c with tlb := [], stlb := [], l1d := [], l1i := [], pbc := [], bmc := [], preempt := none, saver := []
           lq := c.lq.rejoin
           sq := c.sq.rejoin
           gq := { c.gq with entries := c.gq.entries.map (fun e => match e with
             | .cmd k => .cmd { k with pins := [] }
             | e => e) } }

/-- The request of the core that issued a CTXSAVE or CTXLOAD. -/
def contextReq (s : State) (issuer : Nat) : Req :=
  let a := (coreOf s issuer).attrs
  { eng := 1, core := issuer, asn := a.asn.toNat, tbase := a.tbase, fault := shData, cached := false }

/-- Translate the pages of an image; the place of each sector. -/
def imagePlaces (req : Req) (va : Nat) (k : Kind) : M (List Loc) :=
  (List.range imageSectors).mapM (fun i => translate req (va + 64 * i) k)

/-- CTXSAVE's write of the image of the stopped core whose turn it is; the core is then free (R367). -/
def saveImage (issuer va : Nat) : M Unit := do
  let s ← get
  let req := contextReq s issuer
  let places ← imagePlaces req va .write
  let s ← get
  let id := s.nextImage
  let c := s.core
  let base := s.fresh
  let sectors := (List.range imageSectors).map (imageData c id base)
  modify (fun s => (places.zip sectors).foldl (fun s p => locWrite p.1 (BitVec.allOnes 64) p.2.1 p.2.2 s) s)
  modify (fun s => { s with
    fresh := s.fresh + imageSectors
    images := mset 0 (mset 0 s.images id (crc32 (sectors.flatMap (fun p => leBytes 64 p.1.toNat))).toNat) (2 ^ 32 + id) s.cur
    nextImage := id + 1 })
  modify (fun s => { renameCore s.cur (1024 + id) (withCore s (1024 + id) (savedCore c)) with core := {} })

/-- The context in an image, checked by its CRC (R367). -/
def findImage (s : State) (bs : List Byte) : Option Nat :=
  let id := fieldAt bs 0xA4000 8
  if mget 0 s.images id == (crc32 bs).toNat && id < s.nextImage then some id else none

/-- The launch of a core number counts its leaf as reached (R350). -/
def leafReached (s : State) (n launch : Nat) : Bool :=
  s.host.launches.any (fun l => l.number == launch && l.leaves.any (fun x => x.1 == n && x.2.isSome))

/-- The restored context on a core (R367): its Shuttle refetches, unless its leaf is `reached`; a timed bundle goes on at once
(R363), and a phase that the window has cancelled executes again (R365). -/
def restoredCore (reached : Bool) (c : Core) : Core :=
  { c with
    run := if c.run == .stopped then (if reached then .haltedDone else .running) else c.run
    ph := { c.ph with exec := c.ph.exec.map (fun e => { e with parked := false }) }
    sh := { c.sh with
      buf := none
      ready := false
      timedNow := c.sh.lane < 2 && !c.sh.ready && c.sh.buf.any (fun b => b.kind == 2) } }

/-- The marks of the tile and accumulator sectors as the image's sectors carry them (R366). -/
def loadMarks (mk : List Marks) (c : Core) : Core :=
  { c with tiles := { c.tiles with marks := (mk.take 0x1FC0).zipIdx.foldl (fun m p => mset {} m p.2 p.1) [] } }

/-- The two checks that CTXSAVE and CTXLOAD share (R367). -/
def contextTarget (a va : Word) : M Nat := do
  let s ← get
  needRight 5
  if bits a 63 10 != 0 || 768 ≤ a.toNat || a.toNat == s.cur then shFault .badOperand
  else if bits va 11 0 != 0 then shFault .misaligned va
  else
    let _ ← checkVirtual shData va
    pure a.toNat

/-- CTXSAVE (R367): the target is pre-empted; its image is written when it has stopped. -/
def execCtxsave (f : SA) : Meaning := runM (do
  awaitDest f.d
  let (a, va) ← SA.ab f
  let n ← contextTarget a va
  let s ← get
  let t := coreOf s n
  if t.run == .free || t.run == .disabled then later { d := f.d, value := 1 }
  else
    let tk ← ticket
    modify (requestPreempt n)
    modify (fun s => withCore s n { coreOf s n with saver := (coreOf s n).saver ++ [(s.cur, tk, va)] })
    later { d := f.d, ready := false, ticket := tk })

/-- CTXLOAD (R367): a fault found in the image is delivered under R198; the walk cache of the target's die starts empty (R366). -/
def execCtxload (f : SA) : Meaning := runM (do
  awaitDest f.d
  let (a, va) ← SA.ab f
  let n ← contextTarget a va
  let s ← get
  let places ← imagePlaces (contextReq s s.cur) va.toNat .read
  let s ← get
  let parts := places.foldl (fun (acc : List SecRead × State) l =>
    let (r, s) := locRead true 0 l acc.2
    (r :: acc.1, s)) (([] : List SecRead), s)
  set parts.2
  let secs := parts.1.reverse
  match secs.find? (fun r => r.e3) with
  | some r => later { d := f.d, fault := some (memFault shData .memE3 va r.marks) }
  | none =>
    let s ← get
    let t := coreOf s n
    if t.run != .free || s.host.launches.any (fun l => !l.started && l.leaves.any (fun x => x.1 == n)) then later { d := f.d, value := 1 }
    else match findImage s (secs.flatMap (fun r => leBytes 64 r.data.toNat)) with
      | none => later { d := f.d, fault := some { shData with code := .badOperand } }
      | some id =>
        let c := coreOf s (1024 + id)
        let leafOf := s.host.launches.any (fun l => l.number == c.attrs.launch && l.leaves.any (fun x => x.1 == 1024 + id))
        let origin := mget 0 s.images (2 ^ 32 + id)
        if c.attrs.joint && qcOf origin != qcOf n then later { d := f.d, fault := some { shData with code := .badOperand } }
        else
          modify (fun s =>
            let s := withCore s n (restoredCore (leafReached s (1024 + id) c.attrs.launch) (loadMarks (secs.map (·.marks)) c))
            withDie s (dieOfCore n) { dieOf s (dieOfCore n) with walk := [] })
          if leafOf then modify (renameCore (1024 + id) n) else pure ()
          later { d := f.d, value := 0 })

/-! ### The commit and pre-emption -/

/-- A pending pre-emption request is taken after a commit (step 5 of R359), unless a result of the Loom is awaited. -/
def takePreemption (n : Nat) (s : State) : State :=
  let c := coreOf s n
  if c.preemptible && c.preempt.isSome && atBoundary c then
    let s := withdrawWaits n s
    let c := coreOf s n
    if loomBusy c then s else withCore s n (stopCore c)
  else s

/-- The members whose phases commit with that of the core whose turn it is (R280). -/
def commitMembers (s : State) : List Nat := if s.core.holdsJoin then quadMembers s.cur else [s.cur]

/-- The executing phase of the core can commit now, with those of its partners (R280, R359). -/
def canCommit (s : State) : Bool := (commitMembers s).all (fun n => readyToCommit (coreOf s n))

/-- The commit of the members (R359). -/
def commitAll (s : State) : State :=
  let members := commitMembers s
  members.foldl (fun s n => takePreemption n s) (members.foldl (fun s n => withCore s n (commitCore (coreOf s n))) s)

/-- The commit (R359); a phase that holds an MJOIN commits with those of its three partners (R280). -/
def execPhaseCommit : Meaning := coreEvent (do
  let s ← get
  if canCommit s then modify commitAll
  else
    modCore (fun c => if readyToCommit c then modExec (fun e => { e with atC := some (e.atC.getD s.pick.toNat) }) c else c)
    throw (.wait .marker true))

/-- PHASE.X (R361): it abandons the most recent closed phase that has not committed; where that phase can commit now, the commit
comes first and xd receives 1. -/
def execPhaseX (f : SI) : Meaning := runM (do
  awaitDest f.d
  let s ← get
  if s.core.ph.openId.isSome then shFault .badOperand
  else match s.core.ph.closed.getLast? with
    | some p =>
      if s.core.ph.exec.any (fun e => e.id == p.1) && canCommit s then
        modify (fun s => (commitMembers s).foldl (fun s n => withCore s n (commitCore (coreOf s n))) s)
        writeX f.d 1
      else
        modCore (abandonPhase p.1)
        modify (dropReads s.cur)
        writeX f.d 0
    | none => writeX f.d 1)

/-- PREEMPTION_TAKEN (R364): a core with a request stops at a boundary; the first CTXSAVE that
waits for a core that has stopped then writes its image. -/
def execPreemptionTaken : Meaning := coreEvent (do
  let s ← get
  if s.core.preemptible && s.core.preempt.isSome then
    if !atBoundary s.core then stall .marker
    else
      modify (withdrawWaits s.cur)
      let s ← get
      if loomBusy s.core then throw (.wait .outcome true) else modCore stopCore
  else if s.core.run == .free then modify (answerSavers s.cur)
  else match s.core.saver with
  | [] => pure ()
  | (issuer, tk, va) :: rest =>
    if s.core.run == .running then modify (requestPreempt s.cur)
    else
      let failed ← tryCatch (do saveImage issuer va.toNat; pure none) (fun e => match e with
        | .fault f _ => pure (some f)
        | e => throw e)
      modCore (fun c => { c with saver := rest })
      modify (answer issuer tk (fun p => { p with ready := true, fault := failed, value := 0 })))

/-- PREEMPTION_WINDOW_EXPIRY (R365): the executing phase is cancelled, and the core is then stopped at its boundary, rewound;
results of the Loom are awaited first (R380). -/
def execPreemptionWindowExpiry : Meaning := coreEvent (do
  let s ← get
  if windowPassed s && !phaseless s.core then
    modify (withdrawWaits s.cur)
    let s ← get
    if loomBusy s.core then throw (.wait .outcome true)
    else
      modify (cancelPhase .window)
      modify (takePreemption s.cur)
  else pure ())

end Sys2Proof.Machine
end

