-- ==== Sys2Proof/Machine/MatOps.lean ====
section
/-! DEFINITION. The matrix engine's numbers and geometry (spec 04_numbers R69 to R72, 12_matrix R258 to R270, R277): formats,
summation units, the accumulator add, the configuration of a nest, its head checks, its fetches and its steps. -/

namespace Sys2Proof.Machine

/-! ### Formats (Tables 4.5, 12.6) -/

/-- The row of Table 4.5 that a format code belongs to: 0 MX, 1 FP8, 2 16-bit floats, 3 integers; none when reserved. -/
def fmtGroup (c : Nat) : Option Nat :=
  if c ≤ 1 then some 1 else if c ≤ 3 then some 2 else if c ≤ 5 then some 3 else if c ≤ 10 then some 0 else none
/-- Bits of an element (Table 12.6). -/
def fmtBits (c : Nat) : Nat := if c == 2 || c == 3 then 16 else if c == 6 then 4 else if c == 7 || c == 8 then 6 else 8
/-- Block bytes of an MX format, 0 for the others (Table 12.6). -/
def fmtBlkb (c : Nat) : Nat := if c == 6 then 16 else if c == 7 || c == 8 then 24 else if c == 9 || c == 10 then 32 else 0
/-- Elements per K step of a format pair (R265). -/
def stepKe (fa fb : Nat) : Nat := if fa == 6 && fb == 6 then 128 else if fmtGroup fa == some 2 then 32 else 64
/-- Bytes per K step of one operand (R265). -/
def stepKb (c ke : Nat) : Nat := ke * fmtBits c / 8
/-- The value of an element pattern of a format code (R55 to R57). -/
def fmtDecode (c v : Nat) : Num :=
  match c with
  | 0 => e4m3.decode v
  | 1 => e5m2.decode v
  | 2 => bf16.decode v
  | 3 => fp16.decode v
  | 4 => Num.ofInt (sInt 8 v)
  | 5 => Num.ofInt v
  | 6 => e2m1.decode v
  | 7 => e2m3.decode v
  | 8 => e3m2.decode v
  | 9 => e4m3.decode v
  | _ => e5m2.decode v
/-- The elements of one K step in its bytes (R57). -/
def fmtElems (c ke : Nat) (bs : List Byte) : List Num :=
  let v := leNat bs
  (List.range ke).map (fun i => fmtDecode c (packedAt (fmtBits c) v i))

/-! ### Summation units and accumulators (R70, R72) -/

/-- A summation value S, and whether it is a NaN created from operands that are none. -/
structure SumVal where
  v : Num
  made : Bool := false
deriving DecidableEq, Repr

/-- A product truncated toward zero to a multiple of 2^q (R70). -/
def truncTo (q : Int) : Num → Num
  | .fin n m e => if e < q then .fin n (m / 2 ^ (q - e).toNat) q else .fin n m e
  | x => x
/-- Floor(log2 |p|) of a non-zero finite product. -/
def numExp : Num → Option Int
  | .fin _ m e => if m = 0 then none else some ((Nat.log2 m : Int) + e)
  | _ => none
/-- The exact sum of finite values: −0 only when every one is −0 (R70). -/
def exactSum : List Num → Num
  | [] => .fin false 0 0
  | p :: ps => ps.foldl (fun a b => match a, b with
      | .fin n1 m1 e1, .fin n2 m2 e2 => addFin 0 n1 m1 e1 n2 m2 e2
      | x, _ => x) p

/-- S of one summation unit: the elements of A and B, the exponent of the block scales, a scale of 0xFF, and whether
products are truncated (R70). -/
def unitSum (as bs : List Num) (scale : Int) (scaleNan trunc : Bool) : SumVal :=
  let ps := as.zip bs
  let nan := scaleNan || ps.any (fun p => p.1.isNan || p.2.isNan)
  let bad := ps.any (fun p => zeroTimesInf p.1 p.2)
  let prods := ps.map (fun p => mulNum p.1 p.2)
  let pinf := prods.any (fun p => p.isInf && !p.neg)
  let ninf := prods.any (fun p => p.isInf && p.neg)
  if nan then ⟨.nan false true 0, false⟩
  else if bad || (pinf && ninf) then ⟨.nan false true 0, true⟩
  else if pinf then ⟨.inf false, false⟩
  else if ninf then ⟨.inf true, false⟩
  else
    let es := prods.filterMap numExp
    let prods := if trunc then (match es with
      | [] => prods
      | e :: r => prods.map (truncTo (r.foldl max e - 47))) else prods
    ⟨(exactSum prods).scale scale, false⟩

/-- Flags gathered in a metadata word. -/
def BankMeta.add (m : BankMeta) (inv sat ovf : Bool) : BankMeta :=
  { m with inv := m.inv || inv, sat := m.sat || sat, ovf := m.ovf || ovf }

/-- The integer value of an exact integer sum. -/
def numInt : Num → Int
  | .fin n m e => (if n then -1 else 1) * ((m * 2 ^ e.toNat : Nat) : Int)
  | _ => 0

/-- AccAdd of one element in its bank's mode (R72): the element's bits and the bank's word. -/
def accAdd (b : BankMeta) (v : Nat) (s : SumVal) : Nat × BankMeta :=
  match b.mode with
  | 0 =>
    let a := fp32.decode (v % 2 ^ 32)
    let r := fp32.add 0 false a s.v
    if (fp32.decode r.1).isNan then (fp32.defaultNaN, b.add (s.made || (!a.isNan && !s.v.isNan)) false false)
    else (r.1, b.add false false r.2.ovf)
  | 1 =>
    let a := fp16.decode (v % 2 ^ 16)
    let r := fp16.add 0 true a s.v
    if (fp16.decode r.1).isNan then (fp16.defaultNaN, b.add (s.made || (!a.isNan && !s.v.isNan)) false false)
    else if (fp16.decode r.1).isInf then (fp16.sign (fp16.decode r.1).neg + fp16.maxFinite, b.add false true false)
    else (r.1, b.add false r.2.sat false)
  | _ =>
    let r := fitInt 32 true (sInt 32 v + numInt s.v)
    (r.1, b.add false r.2.sat false)

/-! ### The configuration of a nest (Tables 12.3 to 12.5) -/

/-- One loop level: its iterations and its steps. -/
structure Level where
  count : Nat
  a : Int
  b : Int
  rows : Int
  cols : Int
deriving DecidableEq, Repr

/-- Level l of a configuration; COUNT is held less 1. -/
def levelOf (cfg : SMap Word) (l : Nat) : Level :=
  let g := fun (k : Nat) => mget (0 : Word) cfg (4 * l + k)
  { count := (g 0).toNat + 1, a := (g 1).toInt, b := (g 2).toInt,
    rows := ((g 3).extractLsb' 16 16).toInt, cols := ((g 3).extractLsb' 0 16).toInt }

/-- The six levels, innermost first. -/
def levels (cfg : SMap Word) : List Level := (List.range 6).map (levelOf cfg)

/-- The least and greatest value of a linear generator over the whole nest (R268). -/
def genRange (base : Int) (ls : List (Nat × Int)) : Int × Int :=
  ls.foldl (fun r l =>
    let d := ((l.1 : Int) - 1) * l.2
    (r.1 + min 0 d, r.2 + max 0 d)) (base, base)

/-- An operand descriptor (Table 12.4) with its first tile. -/
structure Operand where
  fmt : Nat
  ebase : Nat
  ld : Nat
  sbase : Nat
  nt : Nat
  ns : Nat
  tile : Nat
deriving DecidableEq, Repr

/-- The descriptor at a base of MDESC's registers. -/
def operandOf (desc : SMap Word) (base tile : Nat) : Operand :=
  let g := fun (k : Nat) => mget (0 : Word) desc (base + k)
  { fmt := bits (g 0) 3 0, ebase := (g 1).toNat, ld := (g 2).toNat, sbase := (g 3).toNat,
    nt := bits (g 4) 6 0, ns := bits (g 4) 14 8, tile := tile }

/-- The geometry of a virtual A (Table 12.5). -/
structure Unfold where
  act : Nat
  h : Nat
  w : Nat
  cb : Nat
  ks : Nat
  sh : Nat
  sw : Nat
  dh : Nat
  dw : Nat
  pt : Nat
  pl : Nat
  oh : Nat
  ow : Nat
  ktot : Nat
deriving DecidableEq, Repr

/-- The geometry that MUNF's registers give. -/
def unfoldOf (unf : SMap Word) : Unfold :=
  let g := fun (k : Nat) => mget (0 : Word) unf k
  let kr := bits (g 3) 3 0
  let ks := bits (g 3) 7 4
  { act := (g 0).toNat, h := bits (g 1) 11 0, w := bits (g 1) 27 16, cb := (g 2).toNat, ks := ks,
    sh := bits (g 3) 11 8, sw := bits (g 3) 15 12, dh := bits (g 3) 19 16, dw := bits (g 3) 23 20,
    pt := bits (g 3) 27 24, pl := bits (g 3) 31 28, oh := bits (g 4) 11 0, ow := bits (g 4) 27 16,
    ktot := kr * ks * (g 2).toNat }

/-- A nest ready to run: what R267 copies and computes. -/
structure Geo where
  ls : List Level
  mr : Nat
  nc : Nat
  r0 : Nat
  q0 : Nat
  a : Operand
  b : Operand
  ke : Nat
  unf : Option Unfold
deriving DecidableEq, Repr

/-- The geometry of a nest command over its working configuration. -/
def geoOf (f : MT) (cfg desc unf : SMap Word) : Geo :=
  let sh := mget (0 : Word) cfg 0x20
  let cb := mget (0 : Word) cfg 0x21
  let a := operandOf desc 0 f.ta.toNat
  let b := operandOf desc 0x10 f.tb.toNat
  { ls := levels cfg, mr := bits sh 5 0, nc := bits sh 24 16, r0 := bits cb 21 16, q0 := bits cb 8 0, a := a, b := b,
    ke := stepKe a.fmt b.fmt, unf := if bit f.mode 0 then some (unfoldOf unf) else none }

/-! ### Head checks (R268, R270, R277) -/

/-- Alignment of an operand's addresses (R268). -/
def alignedOps (al ebase ld : Nat) (steps : List Int) : Bool :=
  ebase % al == 0 && ld % al == 0 && steps.all (fun d => d % (al : Int) == 0)

/-- The element range, alignment and scale checks of an operand that spans its own tiles (R268). -/
def operandOk (o : Operand) (ke rows : Nat) (steps : List (Nat × Int)) : Bool :=
  let kb := stepKb o.fmt ke
  let blk := fmtBlkb o.fmt
  let r := genRange o.ebase steps
  let top := r.2 + ((rows : Int) - 1) * o.ld + kb
  0 ≤ r.1 && top ≤ (o.nt * 4096 : Nat) && o.tile + o.nt ≤ 64
    && alignedOps (if blk == 0 then 16 else blk) o.ebase o.ld (steps.map (·.2))
    && (if blk == 0 then o.ns == 0
        else
          let t0 := o.sbase / 4096
          let lo := (o.sbase : Int) + (r.1 - o.ebase).fdiv blk
          let hi := (o.sbase : Int) + (top - o.ebase - 1).fdiv blk
          o.ns != 0 && t0 + o.ns ≤ 64 && (t0 * 4096 : Nat) ≤ lo && hi < ((t0 + o.ns) * 4096 : Nat))

/-- The conditions of a virtual A (R270). -/
def virtualOk (o : Operand) (u : Unfold) (steps : List (Nat × Int)) : Bool :=
  o.fmt ≤ 5 && u.ktot != 0 && o.ld == u.ktot && u.act + u.h * u.w * u.cb ≤ o.nt * 4096 && o.ns == 0
    && o.tile + o.nt ≤ 64 && u.h != 0 && u.w != 0 && u.oh != 0 && u.ow != 0
    && o.ebase % 64 == 0 && steps.all (fun s => s.2 % 64 == 0) && 0 ≤ (genRange o.ebase steps).1

/-- A member's quarter of the joint B space: the part of it that the nest reaches meets R268 (R277; log entry 59). -/
def quarterOk (o : Operand) (ke cols qc : Nat) (steps : List (Nat × Int)) : Bool :=
  let kb := stepKb o.fmt ke
  let blk := fmtBlkb o.fmt
  let r := genRange o.ebase steps
  let top := r.2 + ((cols : Int) - 1) * o.ld + kb
  let qb : Int := (96 * o.ld : Nat)
  let s := max (r.1 - qc * qb) 0
  let e := min (top - qc * qb) qb
  o.ld != 0 && 0 ≤ r.1 && top ≤ 4 * qb && o.tile + o.nt ≤ 64
    && alignedOps (if blk == 0 then 16 else blk) o.ebase o.ld (steps.map (·.2))
    && (e ≤ s || e ≤ (o.nt * 4096 : Nat))
    && (if blk == 0 then o.ns == 0
        else
          let t0 := o.sbase / 4096
          o.ns != 0 && t0 + o.ns ≤ 64
            && (e ≤ s || ((t0 * 4096 : Nat) ≤ (o.sbase : Int) + (s - o.ebase).fdiv blk
              && (o.sbase : Int) + (e - 1 - o.ebase).fdiv blk < ((t0 + o.ns) * 4096 : Nat))))

/-- The tiles of an operand's span: element and scale tiles, ascending (R269). -/
def spanTiles (o : Operand) : List Nat :=
  (List.range 64).filter (fun t => (o.tile ≤ t && t < o.tile + o.nt)
    || (fmtBlkb o.fmt != 0 && o.sbase / 4096 ≤ t && t < o.sbase / 4096 + o.ns))

/-- The first columns that the nest's steps reach. -/
def stepCols (g : Geo) : List Int :=
  g.ls.foldl (fun qs l => if l.cols == 0 then qs
    else (qs.flatMap (fun q => (List.range l.count).map (fun (i : Nat) => q + (i : Int) * l.cols))).eraseDups) [(g.q0 : Int)]

/-- The banks that the C region touches (R268). -/
def banksOf (g : Geo) : List Nat :=
  let qs := stepCols g
  [0, 1, 2, 3].filter (fun (n : Nat) => qs.any (fun q => q < (96 * (n + 1) : Nat) && ((96 * n : Nat) : Int) < q + (g.nc : Int)))

/-- The C region lies within the C space (R268). -/
def regionOk (g : Geo) : Bool :=
  let r := genRange g.r0 (g.ls.map (fun l => (l.count, l.rows)))
  let q := genRange g.q0 (g.ls.map (fun l => (l.count, l.cols)))
  0 ≤ r.1 && r.2 + g.mr ≤ 48 && 0 ≤ q.1 && q.2 + g.nc ≤ 384

/-- CheckNest of R267: false raises BAD_OPERAND. -/
def checkNest (g : Geo) (ga gb : Nat) (metas : SMap BankMeta) (joint : Option Nat) : Bool :=
  let as := g.ls.map (fun l => (l.count, l.a))
  let bs := g.ls.map (fun l => (l.count, l.b))
  g.mr != 0 && g.nc != 0
    && (fmtGroup g.a.fmt).isSome && fmtGroup g.a.fmt == fmtGroup g.b.fmt
    && regionOk g
    && (match g.unf with
        | some u => virtualOk g.a u as
        | none => operandOk g.a g.ke g.mr as)
    && (match joint with
        | some qc => quarterOk g.b g.ke g.nc qc bs
        | none => operandOk g.b g.ke g.nc bs)
    && !((2 ≤ ga || 2 ≤ gb) && (spanTiles g.a).any (fun t => (spanTiles g.b).contains t))
    && (banksOf g).all (fun n =>
        let m := (mget {} metas n).mode
        if fmtGroup g.a.fmt == some 3 then m == 2 else m ≤ 1)

/-! ### Fetches (R267, R269, R270, R277) -/

/-- One fetched K step: its elements, its block scales, and the tile sectors read (core and sector). -/
structure Fetched where
  elems : List Num
  scales : List Nat
  sectors : List (Nat × Nat)

/-- The scratchpad bytes of a core. -/
def scratch (s : State) (core off n : Nat) : List Byte := (coreOf s core).win.readN off n

/-- The sectors of n bytes from an offset. -/
def sectorsOf (core off n : Nat) : List (Nat × Nat) :=
  (List.range ((off + n + 63) / 64 - off / 64)).map (fun k => (core, off / 64 + k))

/-- The span byte of a virtual step, or none for zero bytes (R270). -/
def Unfold.place (u : Unfold) (x : Nat) : Option Nat :=
  let m := x / u.ktot
  let k := x % u.ktot
  if u.oh * u.ow ≤ m then none
  else
    let kk := k / u.cb
    let ih : Int := (m / u.ow * u.sh + kk / u.ks * u.dh : Nat) - (u.pt : Int)
    let iw : Int := (m % u.ow * u.sw + kk % u.ks * u.dw : Nat) - (u.pl : Int)
    if ih < 0 || (u.h : Int) ≤ ih || iw < 0 || (u.w : Int) ≤ iw then none
    else some (u.act + (ih.toNat * u.w + iw.toNat) * u.cb + k % u.cb)

/-- Summation units of a step (Table 12.6). -/
def stepUnits (o : Operand) (ke : Nat) : Nat := if fmtBlkb o.fmt == 0 then 1 else ke / 32

/-- A row or column of an operand in the core's own tiles, at a generated offset (R267, R269). -/
def fetchOwn (s : State) (core : Nat) (o : Operand) (ke : Nat) (u : Option Unfold) (base r : Nat) : Fetched :=
  let kb := stepKb o.fmt ke
  let x := base + r * o.ld
  match u with
  | some u => match u.place x with
    | none => ⟨fmtElems o.fmt ke (List.replicate kb 0), [], []⟩
    | some p =>
      let off := 4096 * o.tile + p
      ⟨fmtElems o.fmt ke (scratch s core off kb), [], sectorsOf core off kb⟩
  | none =>
    let off := 4096 * o.tile + x
    let blk := fmtBlkb o.fmt
    let sc := if blk == 0 then [] else (List.range (stepUnits o ke)).map (fun k =>
      (o.sbase + ((x : Int) - o.ebase).fdiv blk + k).toNat)
    ⟨fmtElems o.fmt ke (scratch s core off kb), sc.map (fun a => (leNat (scratch s core a 1))),
      sectorsOf core off kb ++ sc.map (fun a => (core, a / 64))⟩

/-- A column of the joint B space (R277): the byte at offset b lies in the quarter of member b div QB, at offset b mod QB of that
member's own span; its scale follows from that offset by the owner's EBASE and SBASE (R269; `quarters` gives the members and
their descriptors by QC). -/
def fetchJoint (s : State) (quarters : List (Nat × Operand)) (o : Operand) (ke base r : Nat) : Fetched :=
  let kb := stepKb o.fmt ke
  let x := base + r * o.ld
  let qb := 96 * o.ld
  let at' := fun (y : Nat) => quarters.getD (y / qb) (0, o)
  let places := (List.range kb).map (fun i =>
    let q := at' (x + i)
    (q.1, 4096 * q.2.tile + (x + i) % qb))
  let blk := fmtBlkb o.fmt
  let sc := if blk == 0 then [] else (List.range (stepUnits o ke)).map (fun k =>
    let y := x + k * blk
    let q := at' y
    (q.1, (q.2.sbase + ((y % qb : Nat) - (q.2.ebase : Int)).fdiv blk).toNat))
  ⟨fmtElems o.fmt ke (places.flatMap (fun p => scratch s p.1 p.2 1)), sc.map (fun p => leNat (scratch s p.1 p.2 1)),
    ((places ++ sc).map (fun p => (p.1, p.2 / 64))).eraseDups⟩

/-! ### Steps -/

/-- The offset of C element (r, q) in the window (R258). -/
def accOffset (r q : Nat) : Nat := 0x40000 + 0x4800 * (q / 96) + 4 * (96 * r + q % 96)

/-- The summation values of a step for one element, in ascending order of K (R265, R70). -/
def stepSums (g : Geo) (ra cb : Fetched) : List SumVal :=
  if fmtBlkb g.a.fmt == 0 then [unitSum ra.elems cb.elems 0 false (fmtGroup g.a.fmt == some 2)]
  else (List.range (g.ke / 32)).map (fun u =>
    let sa := ra.scales.getD u 0
    let sb := cb.scales.getD u 0
    unitSum ((ra.elems.drop (32 * u)).take 32) ((cb.elems.drop (32 * u)).take 32) ((sa + sb : Nat) - 254)
      (sa == 0xFF || sb == 0xFF) false)

/-- Add the summation values of a step into one element of a core's C space (R72). -/
def addElement (r q : Nat) (sums : List SumVal) (c : Core) : Core :=
  let off := accOffset r q
  let m := mget {} c.mat.metas (q / 96)
  let res := sums.foldl (fun (p : Nat × BankMeta) s => accAdd p.2 p.1 s) (leNat (c.win.readN off 4), m)
  { c with win := c.win.write off (leBytes 4 res.1), mat := { c.mat with metas := mset {} c.mat.metas (q / 96) res.2 } }

/-- The loop indices of a nest in the order in which it visits them, level 0 innermost (R267): the generated A and B
offsets and the first C row and column. -/
def nestSteps (g : Geo) : List (Int × Int × Int × Int) :=
  g.ls.reverse.foldl (fun ps l => ps.flatMap (fun p => (List.range l.count).map (fun (i : Nat) =>
    (p.1 + (i : Int) * l.a, p.2.1 + (i : Int) * l.b, p.2.2.1 + (i : Int) * l.rows, p.2.2.2 + (i : Int) * l.cols))))
    [((g.a.ebase : Int), (g.b.ebase : Int), (g.r0 : Int), (g.q0 : Int))]

/-- What a nest fetches at one step: the rows of A and the columns of B. -/
def stepFetch (s : State) (core : Nat) (g : Geo) (quarters : Option (List (Nat × Operand))) (p : Int × Int × Int × Int) :
    List Fetched × List Fetched :=
  ((List.range g.mr).map (fetchOwn s core g.a g.ke g.unf p.1.toNat),
   (List.range g.nc).map (match quarters with
     | some qs => fetchJoint s qs g.b g.ke p.2.1.toNat
     | none => fetchOwn s core g.b g.ke none p.2.1.toNat))

/-- One step of a nest on a core (R265): operands are read from `s`. -/
def runStep (s : State) (core : Nat) (g : Geo) (quarters : Option (List (Nat × Operand))) (p : Int × Int × Int × Int)
    (c : Core) : Core :=
  let f := stepFetch s core g quarters p
  ((List.range g.mr).zip f.1).foldl (fun c ra =>
    ((List.range g.nc).zip f.2).foldl (fun c cb =>
      addElement (p.2.2.1.toNat + ra.1) (p.2.2.2.toNat + cb.1) (stepSums g ra.2 cb.2) c) c) c

/-- A whole nest on a core (R267). -/
def runNest (s : State) (core : Nat) (g : Geo) (quarters : Option (List (Nat × Operand))) (c : Core) : Core :=
  (nestSteps g).foldl (fun c p => runStep s core g quarters p c) c

/-- The marks of the first sector that a step fetches and whose use is a consumption under the launch's E1 policy (R269,
R87, R88). -/
def stepMarks (s : State) (core : Nat) (g : Geo) (quarters : Option (List (Nat × Operand))) (p : Int × Int × Int × Int) :
    Option Marks :=
  let pol := (coreOf s core).attrs.e1pol
  let f := stepFetch s core g quarters p
  (f.1 ++ f.2).findSome? (fun x => x.sectors.findSome? (fun y =>
    let m := (coreOf s y.1).tiles.mark y.2
    if m.poison || (m.e1 && pol == 1) then some m else none))

/-- The marks of the first sector that a whole nest consumes. -/
def nestMarks (s : State) (core : Nat) (g : Geo) (quarters : Option (List (Nat × Operand))) : Option Marks :=
  (nestSteps g).findSome? (stepMarks s core g quarters)

end Sys2Proof.Machine
end

