-- ==== Sys2Proof/Machine/Matrix.lean ====
section
/-! DEFINITION. The matrix engine's commands (spec 12_matrix R261 to R287): configuration, nests, joint operations,
write-back and the bank and slot commands. -/

namespace Sys2Proof.Machine

/-! ### The matrix queue (R261) -/

/-- The prototype of a matrix or draw fault (R287, R305). -/
def mFault (opc : Nat) : FaultInfo := { code := .badOperand, engine := 3, opc := opc, action := .hold .matrix }

/-- The value of a format MX lane: its literal, or xs (R262). -/
def matValue (f : MX) : M Word := if f.lit.isNone then engOperand .matrix false f.xs else pure (f.lit.value 0)

/-- Change the matrix engine's registers. -/
def modMat (g : MatState → MatState) : M Unit := modCore (fun c => { c with mat := g c.mat })

/-- A configuration command: it takes effect at the head, even while a nest runs, which then holds its count back; the
arrival at a join is still at its head (R261, R278). -/
def configRun (i : Instr) (cnt : Bool) (body : M Unit) : Meaning := runE .matrix (do
  let s ← get
  if s.core.mat.arrival.isSome then stall .join
  else
    let ph := inPhase s (headOr s .matrix i)
    body
    match s.core.mat.nest with
    | none => countCnt cnt 1 ph
    | some n => modMat (fun m => { m with nest := some { n with counts := n.counts + (if cnt then 1 else 0) } })
    pure .done)

/-- Any other command of the matrix queue waits until no nest runs (R261). -/
def matrixRun (i : Instr) (cnt : Bool) (flag : Nat) (body : Bool → M Unit) : Meaning := runE .matrix (do
  let s ← get
  if s.core.mat.nest.isSome || s.core.mat.arrival.isSome then stall .nest
  else
    let ph := inPhase s (headOr s .matrix i)
    body ph
    countCnt cnt flag ph
    pure .done)

/-! ### Configuration (R262 to R264) -/

/-- The limits of an MCFG register (Table 12.3). -/
def mcfgOk (sel : Nat) (v : Word) : Bool :=
  if sel < 0x18 then
    if sel % 4 == 0 then 1 ≤ v.toNat && v.toNat ≤ 65536
    else if sel % 4 == 3 then bits v 63 32 == 0
    else bits v 63 31 == 0 || bits v 63 31 == 2 ^ 33 - 1
  else if sel == 0x20 then
    bits v 63 25 == 0 && bits v 15 6 == 0 && 1 ≤ bits v 5 0 && bits v 5 0 ≤ 48 && 1 ≤ bits v 24 16 && bits v 24 16 ≤ 384
  else if sel == 0x21 then
    bits v 63 22 == 0 && bits v 15 9 == 0 && bits v 21 16 ≤ 47 && bits v 8 0 ≤ 383
  else if sel == 0x22 then 1 ≤ v.toNat && v.toNat ≤ 2 ^ 24
  else if sel == 0x23 then
    bits v 63 32 == 0 && !bit v 7 && 1 ≤ bits v 5 0 && bits v 5 0 ≤ 48 && bits v 15 8 ≤ 144
      && 32 ≤ bits v 31 16 && bits v 31 16 ≤ 4096 && bits v 31 16 % 32 == 0
  else if sel == 0x24 then v.toNat % 32 == 0
  else sel % 2 == 0 || v.toNat < 32

/-- A write of an MCFG register: COUNT is held less 1; sel 0x30 on are the bound registers (R284). -/
def Core.setMcfg (c : Core) (sel : Nat) (v : Word) : Core :=
  if sel < 0x30 then
    let v := if sel < 0x18 && sel % 4 == 0 then v - 1 else v
    { c with mat := { c.mat with cfg := mset 0 c.mat.cfg sel v } }
  else c.setBoundWord ((sel - 0x30) / 2) (sel % 2) v

/-- MCFG (R262). -/
def execMcfg (f : MX) : Meaning := configRun (.mcfg f) f.cnt (do
  let v ← matValue f
  if mcfgOk f.sel.toNat v then modCore (fun c => c.setMcfg f.sel.toNat v) else raise (mFault 0x01))

/-- The limits of an MDESC register (Table 12.4). -/
def mdescOk (k : Nat) (v : Word) : Bool :=
  match k with
  | 0 => v.toNat < 16
  | 1 => v.toNat ≤ 262143
  | 2 => 16 ≤ v.toNat && v.toNat ≤ 262144 && v.toNat % 16 == 0
  | 3 => v.toNat ≤ 262143
  | _ => bits v 63 15 == 0 && !bit v 7 && 1 ≤ bits v 6 0 && bits v 6 0 ≤ 64 && bits v 14 8 ≤ 64

/-- MDESC (R263). -/
def execMdesc (f : MX) : Meaning := configRun (.mdesc f) f.cnt (do
  let v ← matValue f
  if mdescOk (f.sel.toNat % 16) v then modMat (fun m => { m with desc := mset 0 m.desc f.sel.toNat v })
  else raise (mFault 0x04))

/-- The limits of a MUNF register (Table 12.5). -/
def munfOk (sel : Nat) (v : Word) : Bool :=
  match sel with
  | 0 => v.toNat ≤ 262080 && v.toNat % 64 == 0
  | 2 => 64 ≤ v.toNat && v.toNat ≤ 4096 && v.toNat % 64 == 0
  | 3 => bits v 63 32 == 0 && (List.range 6).all (fun i => bits v (4 * i + 3) (4 * i) != 0)
  | _ => bits v 63 28 == 0 && bits v 15 12 == 0 && bits v 11 0 != 0 && bits v 27 16 != 0

/-- MUNF (R264). -/
def execMunf (f : MX) : Meaning := configRun (.munf f) f.cnt (do
  let v ← matValue f
  if munfOk f.sel.toNat v then modMat (fun m => { m with unf := mset 0 m.unf f.sel.toNat v }) else raise (mFault 0x05))

/-! ### Nests (R267 to R272) -/

/-- The tag waits of a nest's spans, A then B, each in ascending tile order (R269). -/
def nestTags (fi : FaultInfo) (ph : Bool) (f : MT) (g : Geo) : M Unit := do
  tagStartAll false fi ph f.ga.toNat 0 (spanTiles g.a)
  tagStartAll false fi ph f.gb.toNat (if f.ga == 0 then 0 else (spanTiles g.a).length) (spanTiles g.b)
  (spanTiles g.a ++ spanTiles g.b).forM (noteRead ph)

/-- The geometry of a nest command over the shadow set of a core. -/
def shadowGeo (f : MT) (m : MatState) : Geo := geoOf f m.cfg m.desc m.unf

/-- MGO (R267): the shadow configuration is copied, the checks are made, the tags granted, and the nest starts. -/
def execMgo (f : MT) : Meaning := runE .matrix (do
  let s ← get
  let c := headOr s .matrix (.mgo f)
  if s.core.mat.nest.isSome || s.core.mat.arrival.isSome then stall .nest
  else
    let ph := inPhase s c
    let g := shadowGeo f s.core.mat
    if !checkNest g f.ga.toNat f.gb.toNat s.core.mat.metas none then raise (mFault 0x02)
    else
      nestTags (mFault 0x02) ph f g
      let s ← get
      let c := headOr s .matrix (.mgo f)
      modMat (fun m =>
        let n : Nest := { cmd := c, cfg := m.cfg, desc := m.desc, unf := m.unf, joint := false, counts := 0, pos := s.core.mq.pos }
        { m with nest := some n })
      pure .done)

/-- The MT fields of a nest's command. -/
def nestFields (n : Nest) : Option MT :=
  match n.cmd.instr with
  | .mgo f => some f
  | .mjoin f => some f
  | _ => none

/-- A nest belongs to the executing phase of its core. -/
def nestInPhase (c : Core) (n : Nest) : Bool :=
  match c.ph.exec, n.cmd.phase with
  | some e, some p => e.id == p
  | _, _ => false

/-- The quarters of the joint B space by QC: each member with its B descriptor (R277). -/
def quartersOf (s : State) (core : Nat) : List (Nat × Operand) :=
  (quadMembers core).map (fun n =>
    match (coreOf s n).mat.nest with
    | some k => (n, operandOf k.desc 0x10 ((nestFields k).map (·.tb.toNat) |>.getD 0))
    | none => (n, operandOf [] 0x10 0))

/-- The quarters that a nest reads: those of its quad when it is joint (R277). -/
def nestQuarters (s : State) (core : Nat) (n : Nest) : Option (List (Nat × Operand)) :=
  if n.joint then some (quartersOf s core) else none

/-- The end of a nest on a core (R261, R267, R269, R272): its sums, but for a joint nest, which has issued its steps (R278); the
end of its reads and its consumes, the committed copy outside a phase, its count and those behind it. -/
def finishNest (s : State) (core : Nat) (c : Core) : Core :=
  match c.mat.nest with
  | none => c
  | some n =>
    match nestFields n with
    | none => c
    | some f =>
      let g := geoOf f n.cfg n.desc n.unf
      let ph := nestInPhase c n
      let c := if n.joint then c else runNest s core g none c
      let ta := spanTiles g.a
      let tb := spanTiles g.b
      let c := ta.foldl (fun c i => endSrc ph f.ga.toNat i c) c
      let c := tb.foldl (fun c i => endSrc ph f.gb.toNat i c) c
      let c := if ph then c else (banksOf g).foldl (fun c k => copyBank k (4 + k) c) c
      let k := n.counts + (if f.cnt then 1 else 0)
      let c := if k == 0 then c else countOn 1 k ph c
      { c with mat := { c.mat with nest := none } }

/-- A nest outside a phase at a consumption: every bank comes back from the committed copy, and the MGO stands at its
head again (R272). -/
def undoNest (n : Nest) (c : Core) : Core :=
  let c := n.cmd.grants.foldl ungrant (restoreBanks c)
  let c := { c with
    mat := { c.mat with nest := none }
    mq := { c.mq with entries := .cmd n.cmd.fresh :: c.mq.entries, pos := c.mq.pos - 1 } }
  if n.counts == 0 then c else countOn 1 n.counts false c

/-- A consumption by the nest of a core (R269, R272, R401). -/
def nestConsumed (core : Nat) (n : Nest) (mk : Marks) (s : State) : State :=
  let c := coreOf s core
  let fi := memFault { mFault (if n.joint then 0x03 else 0x02) with pos := some n.pos } .memE2 0 mk
  if nestInPhase c n then
    if c.sh.eretry.toNat ≤ c.sh.ecount.toNat then faultOn core { fi with action := .abandon } s
    else cancelPhase (.e2 (markTests s mk)) (switchTo s core)
  else faultOn core fi (withCore s core (undoNest n c))

/-- The geometry of a running nest. -/
def nestGeo (n : Nest) : Geo :=
  match nestFields n with
  | some f => geoOf f n.cfg n.desc n.unf
  | none => geoOf ⟨0, 0, 0, 0, 0, false, 0⟩ n.cfg n.desc n.unf

/-- The steps of a running nest. -/
def nestTotal (n : Nest) : Nat := (nestSteps (nestGeo n)).length

/-- A member of a joint operation runs a joint nest that has issued a step. -/
def issuedStep (s : State) (step k : Nat) : Bool := (coreOf s k).mat.nest.any (fun n => n.joint && step < n.issued)

/-- A member runs a joint nest that has issued all its steps. -/
def issuedAll (s : State) (k : Nat) : Bool := (coreOf s k).mat.nest.any (fun n => n.joint && nestTotal n ≤ n.issued)

/-- The member that issues a step first: QC s mod 4 (R278). -/
def stepLeader (core step : Nat) : Nat := (quadMembers core).getD (step % 4) core

/-- A member may issue its next step (R278): every member has issued the step before it, and the step's first member this one,
or is itself the issuer. -/
def mayIssue (s : State) (n : Nest) : Bool :=
  (n.issued == 0 || (quadMembers s.cur).all (issuedStep s (n.issued - 1)))
    && (quadMembers s.cur).all (fun k => (coreOf s k).mat.nest.any (·.joint))
    && (stepLeader s.cur n.issued == s.cur || issuedStep s n.issued (stepLeader s.cur n.issued))

/-- The issue of a joint nest's next step (R278): its fetches, which may consume (R269), and its sums. -/
def issueStep (n : Nest) (s : State) : State :=
  match (nestSteps (nestGeo n))[n.issued]? with
  | none => s
  | some p =>
    match stepMarks s s.cur (nestGeo n) (nestQuarters s s.cur n) p with
    | some mk => nestConsumed s.cur n mk s
    | none =>
      let c := runStep s s.cur (nestGeo n) (nestQuarters s s.cur n) p s.core
      { s with core := { c with mat := { c.mat with nest := some { n with issued := n.issued + 1, tick := s.pick.toNat } } } }

/-- The next step of a running nest. A nest of its own runs to its end (R261). A joint nest issues one step in its turn (R278);
the four nests of a joint operation complete together when all have issued all their steps. -/
def execNestComplete : Meaning := coreEvent (do
  let s ← get
  match s.core.mat.nest with
  | none => pure ()
  | some n =>
    if !n.joint then
      match nestMarks s s.cur (nestGeo n) none with
      | some mk => modify (nestConsumed s.cur n mk)
      | none => modify (fun s => { s with core := finishNest s s.cur s.core })
    else if n.issued < nestTotal n then
      if mayIssue s n then modify (issueStep n) else stall .join
    else if (quadMembers s.cur).all (issuedAll s) then
      modify (fun s => (quadMembers s.cur).foldl (fun t k => withCore t k (finishNest s k (coreOf t k))) s)
    else stall .join)

/-! ### Joint operations (R276 to R280) -/

/-- MJOIN (R276, R278): outside a phase or a joint quad, or in a quad with a disabled core (R12), BAD_OPERAND; after its head checks
and its own tag waits the member has arrived at the join. -/
def execMjoin (f : MT) : Meaning := runE .matrix (do
  let s ← get
  let c := headOr s .matrix (.mjoin f)
  if s.core.mat.nest.isSome || s.core.mat.arrival.isSome then stall .nest
  else
    let ph := inPhase s c
    let g := shadowGeo f s.core.mat
    if !ph || !s.core.attrs.joint || mget 0 s.core.mat.cfg 0x22 == 0
        || (quadMembers s.cur).any (fun k => (coreOf s k).run == .disabled)
        || !checkNest g f.ga.toNat f.gb.toNat s.core.mat.metas (some (qcOf s.cur)) then raise (mFault 0x03)
    else
      nestTags (mFault 0x03) ph f g
      let s ← get
      let c := headOr s .matrix (.mjoin f)
      modCore (fun k => modExec (fun e => { e with joint := true })
        { k with mat := { k.mat with arrival := some { cmd := c, tick := s.pick.toNat } } })
      pure .done)

/-- What the members' working configurations must agree in, with the mode and the cnt bit (R278). -/
def joinKey (c : Core) : SMap Word × SMap Word × Option (BitVec 5 × Bool) :=
  (c.mat.cfg.filter (fun p => p.1 < 0x22 && p.1 != 0x21),
   c.mat.desc.filter (fun p => p.1 != 1 && p.1 != 3 && p.1 != 0x11 && p.1 != 0x13),
   match c.mat.arrival with
   | some a => (match a.cmd.instr with
     | .mjoin f => some (f.mode, f.cnt)
     | _ => none)
   | none => none)

/-- A member's nest starts at the join, which comes at `tick`. -/
def joinNest (tick : Nat) (c : Core) : Core :=
  match c.mat.arrival with
  | none => c
  | some a => { c with mat := { c.mat with
      arrival := none
      nest := some { cmd := a.cmd, cfg := c.mat.cfg, desc := c.mat.desc, unf := c.mat.unf, joint := true, counts := 0,
                     pos := c.mq.pos - 1, tick := tick } } }

/-- A member's MJOIN stands at its head again, without effect (R278). -/
def undoJoin (c : Core) : Core :=
  match c.mat.arrival with
  | none => c
  | some a =>
    match a.cmd.instr with
    | .mjoin _ =>
      let c := a.cmd.grants.foldl ungrant c
      { c with
        mat := { c.mat with arrival := none }
        mq := { c.mq with entries := .cmd a.cmd.fresh :: c.mq.entries, kept := c.mq.kept.dropLast, pos := c.mq.pos - 1 } }
    | _ => c

/-- The join (R278): all four members have arrived; configurations that differ raise BAD_OPERAND at every member. -/
def execJointJoinForm : Meaning := coreEvent (do
  let s ← get
  let members := quadMembers s.cur
  if !members.all (fun k => (coreOf s k).mat.arrival.isSome) then stall .join
  else if members.all (fun k => joinKey (coreOf s k) == joinKey s.core) then
    modify (fun s => members.foldl (fun s k => withCore s k (joinNest s.pick.toNat (coreOf s k))) s)
  else modify (fun s => members.foldl (fun s k => takeFault k (mFault 0x03) (withCore s k (undoJoin (coreOf s k)))) s))

/-- The QC of the first member that fails a test, or 7 (Table 18.3). -/
def firstMissing (s : State) (core : Nat) (there : Core → Bool) : Nat :=
  match (quadMembers core).find? (fun k => !there (coreOf s k)) with
  | some k => qcOf k
  | none => 7

/-- The first step that some member's joint nest has not issued. -/
def jointStep (s : State) (core : Nat) : Nat :=
  ((quadMembers core).filterMap (fun k => (coreOf s k).mat.nest.map (·.issued))).foldl min ((s.core.mat.nest.map (·.issued)).getD 0)

/-- The tick from which JWIN counts for a step (R278, R279): that of its first issue, or, where its first issuer has not issued it,
that of the last issue before it (log entry 69). -/
def stepSince (s : State) (core step : Nat) : Nat :=
  let ticks := (quadMembers core).filterMap (fun k => (coreOf s k).mat.nest.map (·.tick))
  match (coreOf s (stepLeader core step)).mat.nest with
  | some n => if step < n.issued then n.tick else ticks.foldl max 0
  | none => ticks.foldl max 0

/-- The first member that is behind at the current step of a joint operation whose window has passed, or 7 (R279). -/
def lateMember (s : State) (core jwin : Nat) : Nat :=
  let step := jointStep s core
  if jwin < s.pick.toNat - stepSince s core step then
    match (quadMembers core).find? (fun k => !(issuedStep s step k || issuedAll s k)) with
    | some k => qcOf k
    | none => 7
  else 7

/-- A member's JWIN has passed since the first arrival at its join, since the first issue of a step, or since it reached its PHASE.C,
and a partner has not come (R278 to R280): a loss. Without that, nothing happens. -/
def execJointWindowExpiry : Meaning := coreEvent (do
  let s ← get
  let jwin := (mget 0 s.core.mat.cfg 0x22).toNat
  let arrived := fun (c : Core) => c.mat.arrival.isSome
  let first := (quadMembers s.cur).filterMap (fun k => (coreOf s k).mat.arrival.map (·.tick))
  let late := fun (t : Nat) => jwin < s.pick.toNat - t
  if s.core.mat.arrival.isSome && late (first.foldl min s.pick.toNat) && firstMissing s s.cur arrived != 7 then
    modify (jointLoss s.cur (firstMissing s s.cur arrived) none)
  else if s.core.mat.nest.any (·.joint) && lateMember s s.cur jwin != 7 then
    modify (jointLoss s.cur (lateMember s s.cur jwin) none)
  else match s.core.ph.exec.bind (·.atC) with
    | some t =>
      if late t && firstMissing s s.cur readyToCommit != 7 then
        modify (jointLoss s.cur (firstMissing s s.cur readyToCommit) none)
      else stall .join
    | none => stall .join)

/-! ### Write-back (R281 to R283) -/

/-- The void bits from bit VOIDO of the void mask on; none are set when VOIDA = 0. The mask is read once, when the command reaches
its head, and kept over the command's waits (R283). -/
def voidMask (f : FaultInfo) (ph : Bool) : M Nat := do
  let s ← get
  let va := mget 0 s.core.mat.cfg 0x24
  if va == 0 then pure 0
  else
    let v ← match s.core.mq.headCmd.bind (·.voids) with
      | some v => pure v
      | none => do
        let v := leNat (← engBytes f ph va.toNat 32)
        match s.core.mq.headCmd with
        | some c => saveHead .matrix { c with voids := some v }
        | none => pure ()
        pure v
    pure (v / 2 ^ bits (mget 0 s.core.mat.cfg 0x23) 15 8)

/-- The vector type code of a bank's mode (R258). -/
def modeType (m : Nat) : BitVec 3 := if m == 0 then 0 else if m == 1 then 2 else 5

/-- WriteConvert of one element (R282). -/
def writeConvert (mode : Nat) (ty : BitVec 3) (rnd : Nat) (osat : Bool) (v : Nat) : Res :=
  convElem (modeType mode) ty false rnd osat (v % 2 ^ (8 * tySize (modeType mode)))

/-- A byte of the span of a MOUT is written: rows of 96z bytes at the pitch (R281). -/
def rowByte (rows pitch z b : Nat) : Bool :=
  let r := min (b / pitch) (rows - 1)
  r * pitch ≤ b && b < r * pitch + 96 * z

/-- The sectors of a tile span that rows write whole lose their marks (R281, R87). -/
def clearRowMarks (tile rows pitch z : Nat) (t : Tiles) : Tiles :=
  let last := (rows - 1) * pitch + 96 * z
  { t with marks := (List.range (last / 64)).foldl (fun m k =>
      if (List.range 64).all (fun i => rowByte rows pitch z (64 * k + i)) then mset {} m (64 * tile + k) {} else m) t.marks }

/-- MOUT (R281). -/
def execMout (f : MO) : Meaning := matrixRun (.mout f) f.cnt 1 (fun ph => do
  let fi := mFault 0x06
  let s ← get
  let out := mget 0 s.core.mat.cfg 0x23
  let rows := bits out 5 0
  let pitch := bits out 31 16
  let z := tySize f.ty
  let t := f.tile.toNat
  let last := (rows - 1) * pitch + 96 * z
  if rows == 0 || pitch == 0 || (64 - t) * 4096 < last then raise fi
  else
    let void ← voidMask fi ph
    let ts := (List.range ((last - 1) / 4096 + 1)).map (t + ·)
    ts.forM (noteWrite fi ph)
    tagStartAll true fi ph f.tag.toNat 0 ts
    let s ← get
    let m := mget {} s.core.mat.metas f.acc.toNat
    let keep := (List.range (96 * rows)).filter (fun i => !void.testBit (i / 96))
    let conv := keep.map (fun i =>
      (i, writeConvert m.mode f.ty f.rnd.toNat (bit out 6) (leNat (s.core.win.readN (accOffset (i / 96) (96 * f.acc.toNat + i % 96)) 4))))
    let fl := orFlags (conv.map (·.2.2))
    let es := conv.map (fun p => (p.1, p.2.1))
    let es' ← if f.ben then boundCheck fi ph f.k.toNat f.ty es else pure (es.map (·.2))
    let ys := keep.zip es'
    let rowBytes := fun (r : Nat) =>
      let row := ys.filter (fun p => p.1 / 96 == r)
      if row.isEmpty then List.replicate (96 * z) (0 : Byte) else row.flatMap (fun p => leBytes z p.2)
    modCore (fun c =>
      let c := (List.range rows).foldl (fun c r => c.writeScratch (4096 * t + r * pitch) (rowBytes r) {}) c
      let w := (mget {} c.mat.metas f.acc.toNat).add fl.inv fl.sat fl.ovf
      { c with
        tiles := clearRowMarks t rows pitch z c.tiles
        mat := { c.mat with metas := mset {} c.mat.metas f.acc.toNat w } })
    ts.forM (tagEndDst ph f.tag.toNat))

/-! ### Bank and slot commands (R273 to R275) -/

/-- Outside a phase a bank is copied into its committed copy when a command that writes it completes (R272). -/
def commitWritten (ph : Bool) (n : Nat) : M Unit := if ph then pure () else modCore (copyBank n (4 + n))

/-- MSAVE: PHASE_HAZARD where an MLOAD of the phase has read the slot (R273). -/
def execMsave (f : MS) : Meaning := matrixRun (.msave f) f.cnt 1 (fun ph => do
  let s ← get
  if ph && (s.core.ph.exec.any fun e => bit e.slotsRead f.slot.toNat) then raise { mFault 0x07 with code := .phaseHazard }
  else modCore (copyBank f.acc.toNat (8 + f.slot.toNat)))

/-- MLOAD (Table 12.7). -/
def execMload (f : MS) : Meaning := matrixRun (.mload f) f.cnt 1 (fun ph => do
  modCore (fun c => if ph then modExec (fun e => { e with slotsRead := setBit e.slotsRead f.slot.toNat true }) c else c)
  modCore (copyBank (8 + f.slot.toNat) f.acc.toNat)
  commitWritten ph f.acc.toNat)

/-- MZERO: zero elements and a mode; the flags are unchanged (Table 12.7). -/
def execMzero (f : MS) : Meaning := matrixRun (.mzero f) f.cnt 1 (fun ph => do
  let n := f.acc.toNat
  modCore (fun c => { c with
    win := mclear c.win (0x40000 + 0x4800 * n) (0x40000 + 0x4800 * n + 0x4800)
    tiles := { c.tiles with marks := mclear c.tiles.marks (0x1000 + 0x120 * n) (0x1000 + 0x120 * n + 0x120) }
    mat := { c.mat with metas := mset {} c.mat.metas n { mget {} c.mat.metas n with mode := f.slot.toNat } } })
  commitWritten ph n)

/-- MCLRF (Table 12.7). -/
def execMclrf (f : MS) : Meaning := matrixRun (.mclrf f) f.cnt 1 (fun ph => do
  let n := f.acc.toNat
  modMat (fun m => { m with metas := mset {} m.metas n { mode := (mget {} m.metas n).mode } })
  commitWritten ph n)

/-- Replies enter the outbound buffer of 256 entries, held until the commit inside a phase (R302, R303). -/
def postDraw (f : FaultInfo) (ph : Bool) (ws : List Word) : M Unit := do
  let s ← get
  if ph && 256 < (s.core.outbuf.filter (·.2)).length + ws.length then raise { f with code := .badOperand }
  else if 256 < s.core.outbuf.length + ws.length then stall .bufferFull
  else modCore (fun c => { c with outbuf := c.outbuf ++ ws.map (fun w => (w, ph)) })

/-- The MSTAT entry (Table 12.8). -/
def mstatEntry (m : MatState) : Word :=
  let hits := (List.range 16).foldl (fun a k => if bit (mget (0 : BitVec 256) m.bounds k) 68 then a + 2 ^ (48 + k) else a) 0
  let b := fun (n : Nat) => mget ({} : BankMeta) m.metas n
  let flags := (List.range 4).foldl (fun a n =>
    a + (b n).mode * 2 ^ (24 + 2 * n)
      + ((if (b n).inv then 4 else 0) + (if (b n).sat then 2 else 0) + (if (b n).ovf then 1 else 0)) * 2 ^ (3 * n)) 0
  BitVec.ofNat 64 (hits + m.loss % 4 * 2 ^ 32 + flags)

/-- MSTAT (R275). -/
def execMstat (f : MS) : Meaning := matrixRun (.mstat f) f.cnt 1 (fun ph => do
  let s ← get
  postDraw (mFault 0x0A) ph [mstatEntry s.core.mat])

end Sys2Proof.Machine
end

