-- ==== Sys2Proof/Machine/Draw.lean ====
section
/-! DEFINITION. The draw unit (spec 13_draw_unit R288 to R305): row streams, candidate and distribution lists, drawing and
acceptance. -/

namespace Sys2Proof.Machine

/-! ### ChaCha20 (R289) -/

/-- A rotation to the left. -/
def rotl32 (v : BitVec 32) (k : Nat) : BitVec 32 := v <<< k ||| v >>> (32 - k)

/-- The quarter round of RFC 8439 on four words. -/
def quarterRound (a b c d : BitVec 32) : BitVec 32 × BitVec 32 × BitVec 32 × BitVec 32 :=
  let a := a + b
  let d := rotl32 (d ^^^ a) 16
  let c := c + d
  let b := rotl32 (b ^^^ c) 12
  let a := a + b
  let d := rotl32 (d ^^^ a) 8
  let c := c + d
  let b := rotl32 (b ^^^ c) 7
  (a, b, c, d)

/-- A quarter round on four places of the state. -/
def roundAt (s : List (BitVec 32)) (i j k l : Nat) : List (BitVec 32) :=
  let r := quarterRound (s.getD i 0) (s.getD j 0) (s.getD k 0) (s.getD l 0)
  (((s.set i r.1).set j r.2.1).set k r.2.2.1).set l r.2.2.2

/-- A column round and a diagonal round. -/
def doubleRound (s : List (BitVec 32)) : List (BitVec 32) :=
  let s := roundAt (roundAt (roundAt (roundAt s 0 4 8 12) 1 5 9 13) 2 6 10 14) 3 7 11 15
  roundAt (roundAt (roundAt (roundAt s 0 5 10 15) 1 6 11 12) 2 7 8 13) 3 4 9 14

/-- n double rounds. -/
def doubleRounds : Nat → List (BitVec 32) → List (BitVec 32)
  | 0, s => s
  | n + 1, s => doubleRounds n (doubleRound s)

/-- The input state of a row stream at its counter (R289). -/
def chachaState (r : RowStream) : List (BitVec 32) :=
  [0x61707865, 0x3320646E, 0x79622D32, 0x6B206574]
    ++ (List.range 8).map (fun k => r.key.extractLsb' (32 * k) 32)
    ++ [r.ctr.extractLsb' 4 32, (r.ctr.extractLsb' 36 28).setWidth 32, r.seq, 0]

/-- The word that a row stream consumes (R289). -/
def streamWord (r : RowStream) : BitVec 32 :=
  let s := chachaState r
  let i := bits r.ctr 3 0
  (doubleRounds 10 s).getD i 0 + s.getD i 0

/-- The uniform of a word, as u24 (R289). -/
def u24Of (w : BitVec 32) : Nat := w.toNat / 256

/-! ### Configuration and row streams (R290, R291) -/

/-- A draw command waits for running nests and counts on f5 (R261, R37). -/
def drawRun (i : Instr) (cnt : Bool) (body : Bool → M Unit) : Meaning := matrixRun i cnt 5 body

/-- Change the draw unit. -/
def modDraw (g : DrawState → DrawState) : M Unit := modCore (fun c => { c with draw := g c.draw })
/-- Change a row stream. -/
def modStream (r : Nat) (g : RowStream → RowStream) : M Unit :=
  modDraw (fun d => { d with streams := mset {} d.streams r (g (mget {} d.streams r)) })

/-- The limits of a draw register (Table 13.2). -/
def dcfgOk (sel : Nat) (v : Word) : Bool :=
  match sel with
  | 0 => bits v 63 14 == 0 && bits v 7 6 == 0 && bits v 5 0 ≤ 47 && 1 ≤ bits v 13 8 && bits v 13 8 ≤ 48
      && bits v 5 0 + bits v 13 8 ≤ 48
  | 1 => bits v 31 25 == 0 && bits v 15 9 == 0 && 1 ≤ bits v 24 16 && bits v 8 0 + bits v 24 16 ≤ 384
  | 2 => bits v 63 18 == 0 && bits v 17 0 % 16 == 0 && bits v 17 0 + 768 ≤ 262144
  | 3 => bits v 63 48 == 0 && bits v 17 0 % 64 == 0 && bits v 35 18 % 64 == 0 && 1 ≤ bits v 47 36
  | _ => bits v 63 49 == 0 && bits v 31 18 == 0 && bits v 17 0 % 4 == 0 && 1 ≤ bits v 48 32 && bits v 48 32 ≤ 65536
      && bits v 17 0 + 4 * bits v 48 32 ≤ 262144

/-- DCFG (R291). -/
def execDcfg (f : MX) : Meaning := drawRun (.dcfg f) f.cnt (fun _ => do
  let v ← matValue f
  if dcfgOk f.sel.toNat v then modDraw (fun d => { d with cfg := mset 0 d.cfg f.sel.toNat v }) else raise (mFault 0x20))

/-- DKEY (Table 13.1). -/
def execDkey (f : MX) : Meaning := drawRun (.dkey f) f.cnt (fun _ => do
  let v ← matValue f
  let w := bits f.sel 8 6
  if w == 4 then
    if bits v 63 32 != 0 then raise (mFault 0x21) else modStream (bits f.sel 5 0) (fun r => { r with seq := v.setWidth 32 })
  else modStream (bits f.sel 5 0) (fun r =>
    let hole : BitVec 256 := ~~~((BitVec.allOnes 64).setWidth 256 <<< (64 * w))
    { r with key := (r.key &&& hole) ||| (v.setWidth 256 <<< (64 * w)) }))

/-- DCTR (Table 13.1). -/
def execDctr (f : MX) : Meaning := drawRun (.dctr f) f.cnt (fun _ => do
  let v ← matValue f
  modStream (bits f.sel 5 0) (fun r => { r with ctr := v }))

/-- DCTRR posts the bare counter (Table 13.1, R301). -/
def execDctrr (f : MX) : Meaning := drawRun (.dctrr f) f.cnt (fun ph => do
  let s ← get
  postDraw (mFault 0x23) ph [(mget {} s.core.draw.streams (bits f.sel 5 0)).ctr])

/-! ### Rows, records and lists (R291 to R293) -/

/-- The rows that a command processes: all of them, and those that are void (R291, R301); DROWS at its launch value raises
BAD_OPERAND. -/
def drawRows (fi : FaultInfo) (ph : Bool) : M (List Nat × Nat) := do
  let s ← get
  let d := mget 0 s.core.draw.cfg 0
  if bits d 13 8 == 0 then raise fi
  else
    let void ← voidMask fi ph
    pure ((List.range (bits d 13 8)).map (bits d 5 0 + ·), void)

/-- Bytes of the scratchpad as an operand: marked sectors are consumed (R293). -/
def readSp (fi : FaultInfo) (ph : Bool) (off n : Nat) : M (List Byte) := do
  consumeTile fi ph off n
  let s ← get
  pure (s.core.win.readN off n)

/-- A little-endian field of bytes. -/
def fieldOf (bs : List Byte) (off n : Nat) : Nat := leNat ((bs.drop off).take n)

/-- A row record (Table 13.3). -/
structure RowRec where
  invt : Nat
  topp : Num
  topk : Nat
  gram : Bool
deriving DecidableEq, Repr

/-- The record of a row, within its limits (R292). -/
def rowRecord (fi : FaultInfo) (ph : Bool) (r : Nat) : M RowRec := do
  let s ← get
  let bs ← readSp fi ph (bits (mget 0 s.core.draw.cfg 2) 17 0 + 16 * r) 16
  let topp := fp32.decode (fieldOf bs 4 4)
  let topk := fieldOf bs 8 2
  if topp.isNan || topp.neg || topp.isZero || topk == 0 || 1024 < topk || 1 < fieldOf bs 10 1 || fieldOf bs 11 5 != 0 then raise fi
  else pure { invt := fieldOf bs 0 4, topp := topp, topk := topk, gram := fieldOf bs 10 1 == 1 }

/-- The offsets of a row's candidate and distribution lists (R293). -/
def listPlaces (c : Core) (r : Nat) : Nat × Nat :=
  let d := mget 0 c.draw.cfg 3
  (bits d 17 0 + 64 * bits d 47 36 * r, bits d 35 18 + 64 * bits d 47 36 * r)

/-- The checks of R292 over the rows of a command with their records, a list taking 8 + 8 × TOPK bytes; DLIST at its launch
value raises BAD_OPERAND (R291). -/
def checkLists (fi : FaultInfo) (rows : List (Nat × RowRec)) : M Unit := do
  let s ← get
  let stride := 64 * bits (mget 0 s.core.draw.cfg 3) 47 36
  let size := fun (p : Nat × RowRec) => 8 + 8 * p.2.topk
  let place := fun (p : Nat × RowRec) => listPlaces s.core p.1
  if stride == 0
      || rows.any (fun p => stride < size p || 262144 < (place p).1 + size p || 262144 < (place p).2 + size p)
      || rows.any (fun p => rows.any (fun q => (place p).1 < (place q).2 + size q && (place q).2 < (place p).1 + size p)) then
    raise fi
  else pure ()

/-- An entry of a list: id and FP32 pattern. -/
abbrev ListEntry := Nat × Nat

/-- A list at an offset: its STATUS and entries; a COUNT above 1,024 or beyond the scratchpad raises BAD_OPERAND (R293). -/
def readList (fi : FaultInfo) (ph : Bool) (off : Nat) : M (Nat × List ListEntry) := do
  if 262144 < off + 8 then raise fi
  else
    let h ← readSp fi ph off 8
    let n := fieldOf h 0 4
    if 1024 < n || 262144 < off + 8 + 8 * n then raise fi
    else
      let bs ← (if n == 0 then pure [] else readSp fi ph (off + 8) (8 * n))
      pure (fieldOf h 4 2, (List.range n).map (fun e => (fieldOf bs (8 * e) 4, fieldOf bs (8 * e + 4) 4)))

/-- Write a list; a plain scratchpad write (R293). -/
def writeList (off status : Nat) (es : List ListEntry) : M Unit := modCore (fun c =>
  c.writeScratch off (leBytes 4 es.length ++ leBytes 2 status ++ leBytes 2 0 ++ es.flatMap (fun e => leBytes 4 e.1 ++ leBytes 4 e.2)) {})

/-- The entries of a candidate list in the order that free values give: their order is not architectural (R293). -/
def freeOrder : List ListEntry → M (List ListEntry)
  | [] => pure []
  | e :: r => do
    let rest ← freeOrder r
    let k ← freeBits 16
    let i := k.toNat % (rest.length + 1)
    pure (rest.take i ++ e :: rest.drop i)

/-- The candidate list of a row, with STATUS 0 and no more entries than TOPK (R293). -/
def storedCandidates (fi : FaultInfo) (ph : Bool) (p : Nat × RowRec) : M (List ListEntry) := do
  let s ← get
  let (st, es) ← readList fi ph (listPlaces s.core p.1).1
  if st != 0 || p.2.topk < es.length then raise fi else pure es

/-! ### Ranking (R294) -/

/-- Entry a ranks before entry b: larger value, then smaller id. -/
def ranksBefore (a b : ListEntry) : Bool :=
  let x := fp32.decode a.2
  let y := fp32.decode b.2
  numLt y x || (!numLt x y && a.1 < b.1)

/-- Insert an entry into a list in rank order. -/
def insertRank (e : ListEntry) : List ListEntry → List ListEntry
  | [] => [e]
  | h :: t => if ranksBefore e h then e :: h :: t else h :: insertRank e t
/-- A list in rank order. -/
def rankList (es : List ListEntry) : List ListEntry := es.foldl (fun l e => insertRank e l) []

/-- Merge (R294) into a list in rank order. -/
def mergeEntry (topk : Nat) (l : List ListEntry) (e : ListEntry) : List ListEntry :=
  match l.find? (fun x => x.1 == e.1) with
  | some old => if ranksBefore e old then insertRank e (l.filter (fun x => x.1 != e.1)) else l
  | none =>
    if l.length < topk then insertRank e l
    else match l.getLast? with
      | some last => if ranksBefore e last then insertRank e l.dropLast else l
      | none => l

/-- The scaled logit of an element (R294): a NaN becomes −∞ and +∞ the largest finite value. -/
def scaledLogit (y invt : Nat) : Nat :=
  let r := (fp32.mul 0 false (fp32.decode y) (fp32.decode invt)).1
  match fp32.decode r with
  | .nan _ _ _ => 0xFF800000
  | .inf false => 0x7F7FFFFF
  | _ => r

/-- DGRAM of one row (R294): its record, list and bitmap as they stand when the row is reached (R5); of the bitmap only the bits of
its columns are read. -/
def mergeRow (fi : FaultInfo) (ph start : Bool) (t r : Nat) : M Unit := do
  let p ← rowRecord fi ph r
  let old ← (if start then pure [] else storedCandidates fi ph (r, p))
  let s ← get
  let ch := mget 0 s.core.draw.cfg 1
  let map ← (if p.gram then readSp fi ph (4096 * t + 48 * r) ((bits ch 24 16 + 7) / 8) else pure [])
  let s ← get
  let base := bits ch 63 32 + (mget {} s.core.draw.streams r).tbase.toNat
  let new := (List.range (bits ch 24 16)).filterMap (fun j =>
    if p.gram && !bit (map.getD (j / 8) 0) (j % 8) then none
    else some ((base + j) % 2 ^ 32, scaledLogit (leNat (s.core.win.readN (accOffset r (bits ch 8 0 + j)) 4)) p.invt))
  let es ← freeOrder (new.foldl (mergeEntry p.topk) (rankList old))
  writeList (listPlaces s.core r).1 0 es

/-- DGRAM (R294): every check at the head, then its rows in ascending order. -/
def execDgram (f : MT) : Meaning := drawRun (.dgram f) f.cnt (fun ph => do
  let fi := mFault 0x24
  let s ← get
  let ch := mget 0 s.core.draw.cfg 1
  let col0 := bits ch 8 0
  let nc := bits ch 24 16
  if nc == 0 || bits (mget 0 s.core.draw.cfg 3) 47 36 == 0
      || (List.range 4).any (fun n => col0 < 96 * (n + 1) && 96 * n < col0 + nc && (mget {} s.core.mat.metas n).mode != 0) then
    raise fi
  else
    let (all, void) ← drawRows fi ph
    let t := f.ta.toNat
    tagStartSrc fi ph f.ga.toNat 0 t
    noteRead ph t
    let rows := all.filter (fun r => !void.testBit r && (mget {} s.core.draw.streams r).tbase != 0xFFFFFFFF)
    let recs ← rows.mapM (fun r => do
      let p ← rowRecord fi ph r
      pure (r, p))
    checkLists fi recs
    recs.forM (fun p => do
      let _ ← (if bit f.mode 0 then pure [] else storedCandidates fi ph p)
      let _ ← (if p.2.gram then readSp fi ph (4096 * t + 48 * p.1) ((nc + 7) / 8) else pure []))
    rows.forM (mergeRow fi ph (bit f.mode 0) t)
    tagEndSrc ph f.ga.toNat t)

/-! ### Drawing (R296, R297) -/

/-- FP32 operations of the draw unit, RNE. -/
def p32Add (a b : Nat) : Nat := (fp32.add 0 false (fp32.decode a) (fp32.decode b)).1
/-- RNE32(a − b). -/
def p32Sub (a b : Nat) : Nat := (fp32.sub 0 false (fp32.decode a) (fp32.decode b)).1
/-- RNE32(a × b). -/
def p32Mul (a b : Nat) : Nat := (fp32.mul 0 false (fp32.decode a) (fp32.decode b)).1
/-- RNE32(a / b). -/
def p32Div (a b : Nat) : Nat := (fp32.div 0 false (fp32.decode a) (fp32.decode b)).1
/-- 1.0. -/
def p32One : Nat := 0x3F800000

/-- Insert an entry into a list in ascending id. -/
def insertId (e : ListEntry) : List ListEntry → List ListEntry
  | [] => [e]
  | h :: t => if e.1 < h.1 then e :: h :: t else h :: insertId e t
/-- A list in ascending id. -/
def sortIds (es : List ListEntry) : List ListEntry := es.foldl (fun l e => insertId e l) []

/-- Keep entries in rank order until the nucleus bound is reached (R296). -/
def nucleus (bound : Num) : Nat → List ListEntry → List ListEntry
  | _, [] => []
  | c, e :: r =>
    if (fp32.decode e.2).isZero then []
    else
      let c := p32Add c e.2
      if numLt (fp32.decode c) bound then e :: nucleus bound c r else [e]

/-- The distribution of a candidate list: its STATUS and entries in ascending id (R296, R297). -/
def distribution (topp : Num) (cand : List ListEntry) : Nat × List ListEntry :=
  match sortIds cand with
  | [] => (3, [])
  | e :: r =>
    let l := e :: r
    if l.all (fun x => x.2 == 0xFF800000) then
      let p := p32Div p32One (convIF fp32 0 false l.length).1
      (2, l.map (fun x => (x.1, p)))
    else
      let m := r.foldl (fun m x => (fp32.minmax true m x.2 (fp32.decode m) (fp32.decode x.2)).1) e.2
      let ws := l.map (fun x => (x.1, (fexp2 (fp32.decode (p32Mul (p32Sub x.2 m) 0x3FB8AA3B))).1))
      let sum := fun (es : List ListEntry) => es.foldl (fun a x => p32Add a x.2) 0
      let s := sum ws
      let ps := ws.map (fun x => (x.1, p32Div x.2 s))
      let bound := if numLt topp (fp32.decode p32One) then topp else fp32.decode p32One
      let kept := sortIds (nucleus bound 0 (rankList ps))
      let z := sum kept
      (1, kept.map (fun x => (x.1, p32Div x.2 z)))

/-- The first entry in ascending id with u below the running sum, or the last (R296). -/
def drawFrom (u : Nat) : Nat → List ListEntry → Option Nat
  | _, [] => none
  | _, [e] => some e.1
  | c, e :: r =>
    let c := p32Add c e.2
    if numLt (.fin false u (-24)) (fp32.decode c) then some e.1 else drawFrom u c r

/-- Draw from a list of a STATUS: a relaxed one uniformly (R296, R297), an empty one without a token (R300). -/
def drawList (u : Nat) (d : Nat × List ListEntry) : Option Nat :=
  let es := sortIds d.2
  if d.1 == 2 then (es[u * es.length / 2 ^ 24]?).map (·.1) else if d.1 == 3 then none else drawFrom u 0 es

/-- The STATUS of a reply for a list's STATUS (R300). -/
def replyStatus (list : Nat) : Nat := if list == 1 then 0 else if list == 2 then 1 else 2

/-- A draw reply entry (Table 13.5). -/
def drawReply (kind status row acc : Nat) (v : Option Nat) : Word :=
  BitVec.ofNat 64 (acc * 2 ^ 48 + kind * 2 ^ 44 + status * 2 ^ 40 + row * 2 ^ 32 + v.getD 0xFFFFFFFF % 2 ^ 32)

/-- The rows of a drawing command with their records and candidates, after every check at the head (R296, R292). -/
def drawHead (fi : FaultInfo) (ph : Bool) (rows : List Nat) : M (List (Nat × RowRec × List ListEntry)) := do
  let recs ← rows.mapM (fun r => do
    let p ← rowRecord fi ph r
    pure (r, p))
  checkLists fi recs
  recs.mapM (fun p => do
    let es ← storedCandidates fi ph p
    pure (p.1, p.2, es))

/-- The draw of one row (R296) from its record and list as they stand when the row is reached (R5): the distribution list, and with
`draws` one word; the token and its reply status. -/
def drawRow (fi : FaultInfo) (ph draws : Bool) (r : Nat) : M (Option Nat × Nat) := do
  let p ← rowRecord fi ph r
  let es ← storedCandidates fi ph (r, p)
  let s ← get
  let st := mget {} s.core.draw.streams r
  let d := distribution p.topp es
  writeList (listPlaces s.core r).2 d.1 d.2
  if draws then modStream r (fun t => { t with ctr := t.ctr + 1 }) else pure ()
  pure (drawList (u24Of (streamWord st)) d, replyStatus d.1)

/-- TBASE of the rows that a command processes is 0 (R296). -/
def clearBases (rows : List Nat) : M Unit := rows.forM (fun r => modStream r (fun t => { t with tbase := 0 }))

/-- DSAMP (R295 to R297). With DRAW = 1 it processes void rows too, and posts for them (R301). -/
def execDsamp (f : MT) : Meaning := drawRun (.dsamp f) f.cnt (fun ph => do
  let fi := mFault 0x25
  let draws := bit f.mode 0
  let (all, void) ← drawRows fi ph
  let rows := all.filter (fun r => !void.testBit r)
  let _ ← drawHead fi ph rows
  let out ← rows.mapM (fun k => do
    let r ← drawRow fi ph draws k
    pure (k, r))
  clearBases (if draws then all else rows)
  if draws then
    postDraw fi ph (all.map (fun r => match out.find? (fun o => o.1 == r) with
      | some o => drawReply 0 o.2.2 r 0 o.2.1
      | none => drawReply 0 3 r 0 none))
  else pure ())

/-- DCLUS (R298). -/
def execDclus (f : MT) : Meaning := drawRun (.dclus f) f.cnt (fun ph => do
  let fi := mFault 0x26
  let s ← get
  let tab := mget 0 s.core.draw.cfg 4
  if bits tab 48 32 == 0 then raise fi
  else
    let (all, void) ← drawRows fi ph
    let xs ← drawHead fi ph (all.filter (fun r => !void.testBit r))
    if xs.any (fun x => x.2.2.any (fun e => bits tab 48 32 ≤ e.1)) then raise fi
    else
      let out ← xs.mapM (fun x => do
        let r ← drawRow fi ph true x.1
        let base ← (match r.1 with
          | some cl => do
            let bs ← readSp fi ph (bits tab 17 0 + 4 * cl) 4
            pure (leNat bs)
          | none => pure 0xFFFFFFFF)
        modStream x.1 (fun t => { t with tbase := BitVec.ofNat 32 base })
        pure (x.1, r))
      postDraw fi ph (all.map (fun r => match out.find? (fun o => o.1 == r) with
        | some o => drawReply 1 o.2.2 r 0 o.2.1
        | none => drawReply 1 3 r 0 none)))

/-- DARGMAX (R298): the entry that ranks first; no word and no distribution list. -/
def execDargmax (f : MT) : Meaning := drawRun (.dargmax f) f.cnt (fun ph => do
  let fi := mFault 0x28
  let (all, void) ← drawRows fi ph
  let xs ← drawHead fi ph (all.filter (fun r => !void.testBit r))
  clearBases all
  postDraw fi ph (all.map (fun r => match xs.find? (fun x => x.1 == r) with
    | some x => (match (rankList x.2.2).head? with
      | some e => drawReply 0 0 r 0 (some e.1)
      | none => drawReply 0 2 r 0 none)
    | none => drawReply 0 3 r 0 none)))

/-! ### Acceptance (R299, R300) -/

/-- A draft record (Table 13.4) with the lists it names: K, the drafted tokens, the target lists and the draft lists. -/
structure Draft where
  k : Nat
  tok : List Nat
  ps : List (Nat × List ListEntry)
  qs : List (Nat × List ListEntry)
deriving DecidableEq, Repr

/-- The draft record of a row, within its limits (R299). -/
def draftRecord (fi : FaultInfo) (ph : Bool) (off : Nat) : M Draft := do
  let bs ← readSp fi ph off 128
  let k := fieldOf bs 0 1
  if k == 0 || 8 < k || fieldOf bs 1 3 != 0 || fieldOf bs 70 58 != 0
      || fieldOf bs (4 + 4 * k) (4 * (8 - k)) != 0 || fieldOf bs (36 + 2 * (k + 1)) (2 * (8 - k)) != 0
      || fieldOf bs (54 + 2 * k) (2 * (8 - k)) != 0 then raise fi
  else
    let named := fun (o : Nat) => do
      let l ← readList fi ph (64 * fieldOf bs o 2)
      if l.1 == 0 || 3 < l.1 then raise fi else pure l
    let ps ← (List.range (k + 1)).mapM (fun j => named (36 + 2 * j))
    let qs ← (List.range k).mapM (fun j => named (54 + 2 * j))
    pure { k := k, tok := (List.range k).map (fun j => fieldOf bs (4 + 4 * j) 4), ps := ps, qs := qs }

/-- The probability of an id in a list, +0 if absent (R300). -/
def probOf (l : Nat × List ListEntry) (id : Nat) : Nat := ((l.2.find? (fun e => e.1 == id)).map (·.2)).getD 0

/-- The products G_1 to G_K (R300). -/
def acceptG (d : Draft) : List Nat :=
  ((List.range d.k).foldl (fun (acc : List Nat × Nat) j =>
    let id := d.tok.getD j 0
    let p := probOf (d.ps.getD j (3, [])) id
    let q := probOf (d.qs.getD j (3, [])) id
    let g := if (fp32.decode q).isZero then (if numLt (.fin false 0 0) (fp32.decode p) then 0x7F800000 else 0) else p32Div p q
    let y := p32Mul acc.2 g
    let y := if (fp32.decode y).isNan then 0 else y
    (acc.1 ++ [y], y)) ([], p32One)).1

/-- a: the largest j with Min(1.0, G_j) at or above u, 0 if none (R300). -/
def acceptCount (d : Draft) (u : Nat) : Nat :=
  let one := fp32.decode p32One
  let gs := acceptG d
  (List.range d.k).foldl (fun a j =>
    let g := fp32.decode (gs.getD j 0)
    let m := if numLt g one then g else one
    if numLt m (.fin false u (-24)) then a else j + 1) 0

/-- The acceptance of one row: a, the token and the reply status (R300). -/
def acceptRow (d : Draft) (u u' : Nat) : Nat × Option Nat × Nat :=
  let a := acceptCount d u
  let pl := d.ps.getD a (3, [])
  if a == d.k then (a, drawList u' pl, replyStatus pl.1)
  else
    let ql := d.qs.getD a (3, [])
    let ids := sortIds ((pl.2 ++ ql.2).map (fun e => (e.1, 0)))
    let vs := (ids.map (·.1)).eraseDups.filterMap (fun i =>
      let p := probOf pl i
      let q := probOf ql i
      if numLt (fp32.decode q) (fp32.decode p) then some (i, p32Sub p q) else none)
    if vs.isEmpty then (a, drawList u' pl, if pl.1 == 3 then 2 else 1)
    else
      let z := vs.foldl (fun s x => p32Add s x.2) 0
      (a, drawFrom u' 0 (vs.map (fun x => (x.1, p32Div x.2 z))), 0)

/-- DACCEPT (R299 to R301): two words a row. -/
def execDaccept (f : MT) : Meaning := drawRun (.daccept f) f.cnt (fun ph => do
  let fi := mFault 0x27
  let (all, void) ← drawRows fi ph
  let rows := all.filter (fun r => !void.testBit r)
  let ts := (rows.map (fun r => f.ta.toNat + r / 32)).eraseDups
  if ts.any (fun t => 64 ≤ t) then raise fi
  else
    tagStartAll false fi ph f.ga.toNat 0 ts
    ts.forM (noteRead ph)
    let ds ← rows.mapM (fun r => do
      let d ← draftRecord fi ph (4096 * f.ta.toNat + 128 * r)
      pure (r, d))
    let s ← get
    let out := ds.map (fun x =>
      let st := mget {} s.core.draw.streams x.1
      (x.1, acceptRow x.2 (u24Of (streamWord st)) (u24Of (streamWord { st with ctr := st.ctr + 1 }))))
    rows.forM (fun r => modStream r (fun t => { t with ctr := t.ctr + 2 }))
    postDraw fi ph (all.map (fun r => match out.find? (fun o => o.1 == r) with
      | some o => drawReply 2 o.2.2.2 r o.2.1 o.2.2.1
      | none => drawReply 2 3 r 0 none))
    ts.forM (tagEndSrc ph f.ga.toNat))

end Sys2Proof.Machine
end

