-- ==== Sys2Proof/Machine/Ferry.lean ====
section
/-! DEFINITION. The Ferry's instructions (spec 08_ferry R164 to R169). -/

namespace Sys2Proof.Machine

/-! ### Register forms (Table 8.4) -/

/-- FLD: memory or another island's memory into the tile. -/
def execFld (f : FM) : Meaning := registerForm 0x01 (.fld f) f true (fun x v _ => checkMem x.fault v)
  (fun x v k _ => do
    let r ← fetchSector x (v + BitVec.ofNat 64 (64 * k))
    putTile x (4096 * x.tile + 64 * k) r.data r.marks
    pure false)

/-- FST: the tile to memory. -/
def execFst (f : FM) : Meaning := registerForm 0x03 (.fst f) f false (fun x v _ => checkMem x.fault v)
  (fun x v k c => do
    let s ← get
    let (d, mk) := tileSector s.core (4096 * x.tile + 64 * k)
    storeSector x c 0 (v + BitVec.ofNat 64 (64 * k)) d mk)

/-- FTT: the tile to the scratchpad of a core, an arrival there. -/
def execFtt (f : FM) : Meaning := registerForm 0x05 (.ftt f) f false (fun x v n => checkScratch x.fault v n)
  (fun x v k _ => do
    let s ← get
    let (d, mk) := tileSector s.core (4096 * x.tile + 64 * k)
    nearSector x (v + BitVec.ofNat 64 (64 * k)) d mk
    pure false)

/-- FFILL: a pattern into the tile; the sectors' marks are cleared. -/
def execFfill (f : FM) : Meaning := registerForm 0x0A (.ffill f) f true (fun _ _ _ => pure ())
  (fun x v k _ => do
    putTile x (4096 * x.tile + 64 * k) (BitVec.ofNat 512 (repeatPat 64 8 v.toNat)) {}
    pure false)

/-- FNEAR: the tile to a region of a core's window on this island. -/
def execFnear (f : FM) : Meaning := registerForm 0x0B (.fnear f) f false (fun x v n => checkRegion x.fault v n)
  (fun x v k _ => do
    let s ← get
    let (d, mk) := tileSector s.core (4096 * x.tile + 64 * k)
    nearSector x (v + BitVec.ofNat 64 (64 * k)) d mk
    pure false)

/-! ### Parameter-block forms (Table 8.5) -/

/-- A span sector stored to memory; 1 + OP for a reduction. -/
def spanStore (x : FerryCtx) (op off : Nat) (m : Word) (c : Cmd) : M Bool := do
  let s ← get
  let (d, mk) := tileSector s.core off
  storeSector x c op m d mk

/-- A span sector loaded from memory. -/
def spanLoad (x : FerryCtx) (off : Nat) (m : Word) : M Bool := do
  let r ← fetchSector x m
  putTile x off r.data r.marks
  pure false

/-- FLDP: rows of memory into the span. -/
def execFldp (f : FM) : Meaning := blockForm 0x02 (.fldp f) f true false false (fun x b => checkMem x.fault b.maddr)
  (fun x b r => do
    checkMem x.fault (rowAddress b r)
    pure (rowAddress b r))
  (fun x _ off m _ => spanLoad x off m)

/-- FSTP: the span to rows of memory. -/
def execFstp (f : FM) : Meaning := blockForm 0x04 (.fstp f) f false false false (fun x b => checkMem x.fault b.maddr)
  (fun x b r => do
    checkMem x.fault (rowAddress b r)
    pure (rowAddress b r))
  (fun x _ off m c => spanStore x 0 off m c)

/-- FTTP: the span to rows of scratchpad, arrivals there; the checks of every row are head checks (R162). -/
def execFttp (f : FM) : Meaning := blockForm 0x06 (.fttp f) f false false false (fun x b => (List.range b.rows).forM (fun r => checkScratch x.fault (rowAddress b r) b.rowb))
  (fun x b r => do
    checkScratch x.fault (rowAddress b r) b.rowb
    pure (rowAddress b r))
  (fun x _ off m _ => do
    let s ← get
    let (d, mk) := tileSector s.core off
    nearSector x m d mk
    pure false)

/-- FSWI: indexed rows of memory into the span. -/
def execFswi (f : FM) : Meaning := blockForm 0x09 (.fswi f) f true true false (fun _ _ => pure ())
  (fun x b r => do
    let m ← indexedAddress x b r
    checkMem x.fault m
    pure m)
  (fun x _ off m _ => spanLoad x off m)

/-- FSWP: the span to indexed rows of memory. -/
def execFswp (f : FM) : Meaning := blockForm 0x08 (.fswp f) f false true false (fun _ _ => pure ())
  (fun x b r => do
    let m ← indexedAddress x b r
    checkMem x.fault m
    pure m)
  (fun x _ off m c => spanStore x 0 off m c)

/-- FRED: the span combined into rows of memory (R166). -/
def execFred (f : FM) : Meaning := blockForm 0x0C (.fred f) f false false true (fun x b => checkMem x.fault b.maddr)
  (fun x b r => do
    checkMem x.fault (rowAddress b r)
    pure (rowAddress b r))
  (fun x b off m c => spanStore x (1 + b.op) off m c)

/-! ### FBB (R167) -/

/-- An archipelago address of another island's physical memory, as FBB needs (Table 14.3). -/
def checkTarget (f : FaultInfo) (a : Word) : M Unit := do
  if !bit a 63 || (aasFormOk a && aasNear a) then raise { f with code := .addrRange, addr := a } else checkAas f a

/-- The slots that the table entries of block i name: source and destination (R167). -/
def blockSlots (x : FerryCtx) (b : KvBlock) (i : Nat) : M Nat := do
  let a := b.stab + BitVec.ofNat 64 (4 * i)
  let _ ← checkVirtual x.fault a
  let s ← engBytes x.fault x.ph a.toNat 4
  let d := b.dtab + BitVec.ofNat 64 (4 * i)
  checkTarget x.fault d
  let r ← remoteSector x.fault (d - BitVec.ofNat 64 (d.toNat % 64))
  checkE3 x.fault d r
  consume x.fault x.ph d r.marks
  let e := leNat (sliceBytes r.data (d.toNat % 64) 4)
  if leNat s == 0xFFFFFFFF || e == 0xFFFFFFFF then raise x.fault else pure (leNat s + 2 ^ 32 * e)

/-- The blocks that remain; the slots of a block are kept from its first sector on. -/
def moveBlocks (x : FerryCtx) (b : KvBlock) : Nat → Cmd → M Cmd
  | 0, c => pure c
  | n + 1, c => do
    let e ← match c.len with
      | some e => pure e
      | none => if c.blk == 0 then keepWaits (blockSlots x b 0) else transferPart x c (blockSlots x b c.blk)
    let c := { c with len := some e }
    saveHead x.queue c
    let src := b.spool + BitVec.ofNat 64 (e % 2 ^ 32 * b.slot)
    let dst := b.dpool + BitVec.ofNat 64 (e / 2 ^ 32 * b.slot)
    let c ← moveSectors x (n == 0 && b.dcnt == 0) (fun _ => none) (fun k c => do
      let o := BitVec.ofNat 64 (64 * k)
      let _ ← checkVirtual x.fault (src + o)
      let r ← engSector x.fault (src + o).toNat (pageAhead (src + o).toNat (src.toNat + b.slot))
      checkTarget x.fault (dst + o)
      storeSector x c 0 (dst + o) r.data r.marks) (b.slot / 64 - c.sect) c
    let c := { c with blk := c.blk + 1, sect := 0, len := none }
    saveHead x.queue c
    if n == 0 then pure c else throw (.wait .sector true)

/-- FBB (R167). -/
def execFbb (f : FM) : Meaning := ferryRun 0x07 (.fbb f) f (fun x _ => do
  let c ← blockHead x (.fbb f) (fun v => do
    let b := KvBlock.of v
    if !b.ok then raise x.fault
    else
      let _ ← checkVirtual x.fault b.stab
      let _ ← checkVirtual x.fault b.spool
      checkTarget x.fault b.dtab
      checkTarget x.fault b.dpool
      if b.dcnt == 0 then pure () else checkTarget x.fault b.dcnt)
  let b := KvBlock.of (c.block.getD 0)
  let c ← moveBlocks x b (b.nb - c.blk) c
  ferryEnd x true [] c)

/-! ### FPBINV and FWP (R168, R169) -/

/-- FPBINV: drop one parameter-block cache entry, or all. -/
def execFpbinv (f : FM) : Meaning := ferryRun 0x0D (.fpbinv f) f (fun x _ => do
  let a ← engOperand x.queue false f.xa
  modCore (fun c =>
    let asn := c.attrs.asn.toNat
    let va := (a &&& ~~~63).toNat
    { c with pbc := if bit a 0 then [] else c.pbc.filter (fun e => !(e.asn == asn && e.va == va)) })
  pure .done)

/-- FWP: wait for a channel write pointer of the own core, then add to a flag. -/
def execFwp (f : FM) : Meaning := ferryRun 0x0E (.fwp f) f (fun x _ => do
  let n ← engOperand x.queue false f.xa
  let s ← get
  let d := mget 0 s.core.wp x.ch - n.setWidth 56
  if 2 ^ 55 ≤ d.toNat then stall .pointer
  else
    if f.tile == 0 then pure () else modCore (countOn f.tile.toNat 1 x.ph)
    countCnt f.cnt (if f.st then 3 else 2) x.ph
    pure .done)

/-! ### Completion behind the head (R148) -/

/-- What a Ferry command in the middle of its completion runs under: its destination tiles, none for a source. -/
def ferryParts (c : Cmd) : Option (FM × Bool × List Nat) :=
  let span := fun (f : FM) => (List.range (PBlock.of (c.block.getD 0)).nt).map (f.tile.toNat + ·)
  match c.instr with
  | .fld f => some (f, true, [f.tile.toNat])
  | .ffill f => some (f, true, [f.tile.toNat])
  | .fldp f => some (f, true, span f)
  | .fswi f => some (f, true, span f)
  | .fst f => some (f, false, [])
  | .ftt f => some (f, false, [])
  | .fnear f => some (f, false, [])
  | .fstp f => some (f, false, [])
  | .fttp f => some (f, false, [])
  | .fswp f => some (f, false, [])
  | .fred f => some (f, false, [])
  | .fbb f => some (f, false, [])
  | _ => none

/-- The first command that has left the head completes, if nothing keeps it: its entry goes, as that of a command that
completes at the head does. -/
def endFirst (q : Queue) : M Unit := do
  let s ← get
  match (s.core.queue q).ending with
  | [] => stall .drain
  | c :: _ =>
    match ferryParts c with
    | none => stall .drain
    | some (f, dst, ts) =>
      let ph := inPhase s c
      let x : FerryCtx := { f := f, fault := ferryFault f.st 0x07, ph := ph }
      ferryRest x (s.core.queue q).pos c
      ferryDone x dst ts
      modCore (fun k =>
        let v := k.queue q
        settleFlags (k.setQueue q { v with
          ending := v.ending.tail, pos := v.pos + 1, kept := if ph then v.kept ++ [.cmd c] else v.kept }))

/-- Commands that have left the head complete in order, as far as they can. -/
def settleEnding (q : Queue) : Nat → State → State
  | 0, s => s
  | n + 1, s =>
    match endFirst q s with
    | .ok _ t => settleEnding q n t
    | .error _ _ => s

end Sys2Proof.Machine
end

