-- ==== Sys2Proof/Machine/Gather.lean ====
section
/-! DEFINITION. The gather engine's instructions (spec 09_kv_gather R184 to R194), and the event by which a stream pin's
drop pushes a slot (R175). -/

namespace Sys2Proof.Machine

/-! ### Streaming (R186 to R188) -/

/-- The slot of block j of a GKV: from the block map cache at this epoch, else from the table, which fills the cache (R172,
R186). A hole or a bad slot is a streaming fault (R185). -/
def streamSlot (x : GatherCtx) (q : Seq) (p : Pool) (j : Nat) : M Nat := do
  let s ← get
  let y := { x.fault with precise := false }
  match s.core.bmc.find? (fun e => e.sd == q.va && e.block == j && e.epoch == q.epoch) with
  | some e => if p.nslot ≤ e.slot then throw (.fault y true) else pure e.slot
  | none =>
    let bs ← engBytes x.fault x.ph (q.btab + 4 * j) 4
    if leNat bs == emptyEntry then throw (.fault { y with code := .kvHole } true)
    else if p.nslot ≤ leNat bs then throw (.fault y true)
    else
      modCore (fun c => { c with bmc := ({ sd := q.va, block := j, epoch := q.epoch, slot := leNat bs } :: c.bmc).take 256 })
      pure (leNat bs)

/-- The blocks of a GKV that remain: n of them from block c.blk on, each whole (R186). The entry is read and the slot
pinned; the pin drops after the last read. -/
def streamBlocks (x : GatherCtx) (q : Seq) (p : Pool) (j0 part : Nat) : Nat → M Unit
  | 0 => pure ()
  | n + 1 => do
    let c ← gatherHead x
    let per := p.dim / 2
    let off := 4096 * x.f.tile.toNat + c.blk * 64 * per
    if q.blocks ≤ j0 + c.blk then
      (List.range per).forM (fun k => gatherTile x (off + 64 * k) (0, {}))
    else
      let slot ← match c.len with
        | some s => pure s
        | none => do
          let slot ← keptPart (streamSlot x q p (j0 + c.blk))
          pinSlot x p slot
          let c ← gatherHead x
          saveHead .gather { c with len := some slot }
          pure slot
      let secs ← keptPart (readSlot x p slot (part * per) per)
      (secs.zip (List.range per)).forM (fun v => gatherTile x (off + 64 * v.2) v.1)
      let c ← gatherHead x
      saveHead .gather { c with len := none }
      unpinSlot x p slot
    let c ← gatherHead x
    saveHead .gather { c with blk := c.blk + 1 }
    streamBlocks x q p j0 part n

/-- GKV (R186). -/
def execGkv (f : GM) : Meaning := gatherRun 0x01 (.gkv f) f false (fun x => do
  let sd ← engOperand .gather false f.xs
  let b ← engOperand .gather true f.xb
  let j := bits b 31 0
  let nb := bits b 47 32
  let c ← gatherHead x
  if c.block.isNone then
    if nb == 0 || bits b 63 49 != 0 then raise x.fault
    else
      let q ← headSeq x sd
      let p ← poolOf x q
      if q.cap < j + nb then raise x.fault
      else
        let _ ← gatherSpan x (nb * 32 * p.dim)
        let bs ← (gatherReach x).read q.va 64
        let c ← gatherHead x
        saveHead .gather { c with block := some (bitsOfBytes bs) }
  else pure ()
  let c ← gatherHead x
  match Seq.parse sd.toNat (c.block.getD 0) with
  | none => raise x.fault
  | some q =>
    let p ← keptPart (poolOf x q)
    let ts ← gatherSpan x (nb * 32 * p.dim)
    gatherTags x true ts
    streamBlocks x q p j (bits b 48 48) (nb - c.blk)
    gatherEnd x ts)

/-- The row of GEMB: its sectors, or zeros for NO_TOKEN (R187). -/
def embeddingRow (x : GatherCtx) (base : Word) (index len : Nat) : M (List (BitVec 512 × Marks)) :=
  if index == 0xFFFFFFFF then pure ((List.range (len / 64)).map (fun _ => (0, {})))
  else (List.range (len / 64)).mapM (fun k => do
    let va ← checkVirtual x.fault (base + BitVec.ofNat 64 (index * len + 64 * k))
    let r ← engSector x.fault va (pageAhead va (base.toNat + index * len + len))
    pure (r.data, r.marks))

/-- GEMB (R187). -/
def execGemb (f : GM) : Meaning := gatherRun 0x03 (.gemb f) f false (fun x => do
  let base ← engOperand .gather false f.xs
  let b ← engOperand .gather true f.xb
  if bits base 5 0 != 0 then raise x.fault
  else
    let _ ← checkVirtual x.fault base
    let s ← get
    let c ← gatherHead x
    let len := c.len.getD (s.core.tiles.len f.tile.toNat)
    saveHead .gather { c with len := some len }
    gatherTags x true [f.tile.toNat]
    let row ← keptPart (embeddingRow x base (bits b 31 0) len)
    (row.zip (List.range row.length)).forM (fun v => gatherTile x (4096 * f.tile.toNat + 64 * v.2) v.1)
    gatherEnd x [f.tile.toNat])

/-- The padded lengths of Table 9.3. -/
def bucketLengths : List Nat := [4096, 16384, 65536, 262144, 1048576]
/-- The bucket of a token count (R183). -/
def bucketOf (n : Nat) : Nat := (bucketLengths.findIdx? (fun l => n ≤ l)).getD 4

/-- The length record of a token count (R188). -/
def lengthRecord (n : Nat) : BitVec 512 :=
  BitVec.ofNat 512 (n + (n + 15) / 16 * 2 ^ 32 + bucketLengths.getD (bucketOf n) 0 * 2 ^ 64 + bucketOf n * 2 ^ 96)

/-- GLEN (R188). -/
def execGlen (f : GM) : Meaning := gatherRun 0x09 (.glen f) f false (fun x => do
  let sd ← engOperand .gather false f.xs
  let b ← engOperand .gather true f.xb
  if 4096 ≤ b.toNat || b.toNat % 64 != 0 then raise x.fault
  else
    let q ← headSeq x sd
    gatherTags x true [f.tile.toNat]
    gatherTile x (4096 * f.tile.toNat + b.toNat) (lengthRecord q.tokens, {})
    gatherEnd x [f.tile.toNat])

/-! ### Appending (R189) -/

/-- What GAPP does to a reached block: the slot it fills is popped, copied from a shared one, or filled in place. -/
inductive AppendKind where
  | pop
  | copy (old : Nat)
  | place (slot : Nat)
deriving DecidableEq, Repr

/-- The blocks that an append of n tokens at p0 reaches. -/
def reachedBlocks (p0 n : Nat) : List Nat := (List.range ((p0 + n - 1) / 16 - p0 / 16 + 1)).map (p0 / 16 + ·)

/-- The kind of a reached block (R189). -/
def appendKind (r : Reach) (q : Seq) (p : Pool) (j : Nat) : M AppendKind := do
  match ← tableEntry r q p j with
  | none => if q.tokens ≤ 16 * j then pure .pop else raise { r.fault with code := .kvHole }
  | some s =>
    let n ← readCount r p s
    pure (if 1 < n then .copy s else .place s)

/-- The kinds of the reached blocks, in ascending order. -/
def appendKinds (r : Reach) (q : Seq) (p : Pool) (n : Nat) : M (List (Nat × AppendKind)) :=
  (reachedBlocks q.tokens n).mapM (fun j => do
    let k ← appendKind r q p j
    pure (j, k))

/-- Token i of the source span of n tokens: its K row and its V row (R189). -/
def spanToken (x : GatherCtx) (p : Pool) (n i : Nat) (c : Core) : TokenRows :=
  let t := 4096 * x.f.tile.toNat
  let row := 2 * p.dim
  let per := p.dim / 32
  { key := (List.range per).map (fun k => tileSector c (t + i * row + 64 * k))
    val := c.win.readN (t + (n + i) * row) row
    vmarks := (List.range per).map (fun k => (tileSector c (t + (n + i) * row + 64 * k)).2) }

/-- The writes of an append to its blocks in order, taking the reserved slots as its head decided, bit by block; the drops of
the slots that it copied. -/
def appendBlocks (x : GatherCtx) (q : Seq) (p : Pool) (n taken : Nat) :
    List (Nat × AppendKind) → List Nat → M (List (Nat × Bool) × List PlanWrite)
  | [], _ => pure ([], [])
  | (j, k) :: rest, slots => do
    let s ← get
    let toks := (List.range n).filterMap (fun i =>
      if (q.tokens + i) / 16 == j then some ((q.tokens + i) % 16, spanToken x p n i s.core) else none)
    let takes := taken.testBit (j - q.tokens / 16)
    let fill := fun (base : Nat → BitVec 512 × Marks) =>
      slotWrites p (slots.headD 0) (blockSectors p true base toks) ++ [entryWrite q j (some (slots.headD 0))]
    let old := match k with
      | .copy old => old
      | .place old => old
      | .pop => 0
    if k == .pop && !takes then raise { x.fault with code := .kvHole }
    else if k == .pop then
      let (ops, ws) ← appendBlocks x q p n taken rest slots.tail
      pure (ops, fill (fun _ => (0, {})) ++ ws)
    else if takes then
      let img ← readPinned x p old
      let (ops, ws) ← appendBlocks x q p n taken rest slots.tail
      pure ((old, true) :: ops, fill (fun i => img.getD i (0, {})) ++ ws)
    else
      let img ← (if toks.length == 16 then pure [] else readSlot x p old 0 p.dim)
      let (ops, ws) ← appendBlocks x q p n taken rest slots
      pure (ops, slotWrites p old (blockSectors p false (fun i => img.getD i (0, {})) toks) ++ ws)

/-- The reached blocks that take a reserved slot, bit by block. -/
def takenMask : List (Nat × AppendKind) → Nat
  | [] => 0
  | (_, .place _) :: rest => 2 * takenMask rest
  | _ :: rest => 1 + 2 * takenMask rest

/-- GAPP (R189). -/
def execGapp (f : GM) : Meaning := changeRun 0x02 (.gapp f) f
  (fun x b q p => do
    let n := b.toNat
    if n == 0 || 16 < n then raise x.fault
    else if 16 * q.cap < q.tokens + n then raise { x.fault with code := .kvFull }
    else
      let ks ← appendKinds (gatherReach x) q p n
      pure { pops := ks.countP (fun k => match k.2 with
          | .place _ => false
          | _ => true)
             taken := takenMask ks
             inPlace := ks.filterMap (fun k => match k.2 with
          | .place s => some s
          | _ => none) })
  (fun b p => 4 * p.dim * b.toNat)
  (fun x b q p c => do
    let ks ← appendKinds (gatherReach x) q p b.toNat
    let (ops, ws) ← appendBlocks x q p b.toNat c.row ks c.reserved
    pure (ws ++ [if ops.isEmpty then tokensWrite q (q.tokens + b.toNat) else publishWrite q (q.tokens + b.toNat) ops]))

/-! ### References (R190) -/

/-- A command without a tile has no span. -/
def noSpan (_ : Word) (_ : Pool) : Nat := 0

/-- J of GCOW, GFREE and GALLOC, below CAP. -/
def checkIndex (x : GatherCtx) (b : Word) (q : Seq) : M Unit := if q.cap ≤ b.toNat then raise x.fault else pure ()

/-- The references or drops of GREF on entries J to J + NB − 1. -/
def refOps (r : Reach) (b : Word) (q : Seq) (p : Pool) : M (List (Nat × Bool)) :=
  (List.range (bits b 47 32)).mapM (fun i => do
    let s ← heldEntry r q p (bits b 31 0 + i)
    pure (s, bit b 63))

/-- The head check of references and drops (R174, R185): no count breaks, and every free-list entry that the drops will fill lies in
the address space. -/
def headDrops (x : GatherCtx) (p : Pool) (ops : List (Nat × Bool)) : M Unit := do
  let (_, freed) ← countOps (gatherReach x) p ops [] []
  if !freed.isEmpty && 2 ^ 52 < p.freel + 4 * (p.freen + freed.length) then raise { x.fault with code := .addrRange, addr := BitVec.ofNat 64 (2 ^ 52) }
  else pure ()

/-- Score words from position lo to hi − 1 lie in the address space (R185). -/
def headScores (x : GatherCtx) (q : Seq) (lo hi : Nat) : M Unit :=
  if q.score != 0 && lo < hi && 2 ^ 52 < q.score + 4 * hi then raise { x.fault with code := .addrRange, addr := BitVec.ofNat 64 (2 ^ 52) }
  else pure ()

/-- GREF (R190). -/
def execGref (f : GM) : Meaning := changeRun 0x04 (.gref f) f
  (fun x b q p => do
    if bits b 47 32 == 0 || bits b 62 48 != 0 || q.cap < bits b 31 0 + bits b 47 32 then raise x.fault
    else
      let ops ← refOps (gatherReach x) b q p
      headDrops x p ops
      pure {})
  noSpan
  (fun x b q p _ => do
    let ops ← refOps (gatherReach x) b q p
    pure [poolWrite ops])

/-- GALLOC (R190). -/
def execGalloc (f : GM) : Meaning := changeRun 0x0C (.galloc f) f
  (fun x b q p => do
    checkIndex x b q
    match ← tableEntry (gatherReach x) q p b.toNat with
    | some _ => raise x.fault
    | none => pure { pops := 1 })
  noSpan
  (fun _ b q p c => pure (slotWrites p (c.reserved.headD 0) ((List.range p.dim).map (fun k => (k, (0, {}))))
    ++ [entryWrite q b.toNat (some (c.reserved.headD 0))]))

/-- GFREE (R190). -/
def execGfree (f : GM) : Meaning := changeRun 0x0B (.gfree f) f
  (fun x b q p => do
    checkIndex x b q
    let s ← heldEntry (gatherReach x) q p b.toNat
    headDrops x p [(s, true)]
    pure {})
  noSpan
  (fun x b q p _ => do
    let s ← heldEntry (gatherReach x) q p b.toNat
    pure [poolWrite [(s, true)], entryWrite q b.toNat none, epochWrite q []])

/-- GCOW (R190). -/
def execGcow (f : GM) : Meaning := changeRun 0x05 (.gcow f) f
  (fun x b q p => do
    checkIndex x b q
    let s ← heldEntry (gatherReach x) q p b.toNat
    let n ← readCount (gatherReach x) p s
    pure { pops := if 1 < n then 1 else 0 })
  noSpan
  (fun x b q p c => do
    match c.reserved with
    | [] => pure []
    | new :: _ =>
      let s ← heldEntry (gatherReach x) q p b.toNat
      let img ← readPinned x p s
      pure (slotWrites p new ((List.range p.dim).map (fun k => (k, img.getD k (0, {}))))
        ++ [entryWrite q b.toNat (some new), epochWrite q [(s, true)]]))

/-! ### Eviction (R191 to R193) -/

/-- Words of memory or of a tile. -/
def wordsOf (bs : List Byte) : List Nat := (List.range (bs.length / 4)).map (fun i => leNat ((bs.drop (4 * i)).take 4))

/-- Consecutive words of the source span, as the engine's own use (R180). -/
def spanWords (x : GatherCtx) (n : Nat) : M (List Nat) := do
  let off := 4096 * x.f.tile.toNat
  consumeTile x.fault x.ph off (4 * n)
  let s ← get
  pure (wordsOf (s.core.win.readN off (4 * n)))

/-- GSCORE (R191): its score words are read as the engine's own use at its head (R180); each add is then made on the words as they
stand, in memory or at replay, so that the adds of different cores combine. -/
def execGscore (f : GM) : Meaning := gatherRun 0x06 (.gscore f) f true (fun x => do
  let sd ← engOperand .gather false f.xs
  let b ← engOperand .gather true f.xb
  let m := bits b 47 32
  let c ← gatherHead x
  if c.plan.isNone then
    if m == 0 || 1024 < m || bits b 63 48 != 0 then raise x.fault
    else
      let q ← headSeq x sd
      if 16 * q.cap < bits b 31 0 + m || q.score == 0 then raise x.fault
      else
        gatherTags x false [f.tile.toNat]
        let va := q.score + 4 * bits b 31 0
        let ws ← keptPart (do
          let ws ← spanWords x m
          let _ ← (gatherReach x).read va (4 * m)
          pure (ws.flatMap (leBytes 4)))
        let c ← gatherHead x
        saveHead .gather { c with plan := some ((splitWrite va ws).map (fun w => { w with add := true })) }
        tagEndSrc x.ph f.tag.toNat f.tile.toNat
  else pure ()
  performPlan x
  countCnt f.cnt 4 x.ph)

/-- Zero score words from position lo to hi − 1 (R192, R193). -/
def clearScores (q : Seq) (lo hi : Nat) : List PlanWrite :=
  if q.score == 0 then [] else splitWrite (q.score + 4 * lo) (List.replicate (4 * (hi - lo)) 0)

/-- The slots of the blocks that hold published tokens, ascending (R171). -/
def publishedSlots (r : Reach) (q : Seq) (p : Pool) (lo : Nat) : M (List Nat) :=
  (List.range (q.blocks - lo)).mapM (fun i => heldEntry r q p (lo + i))

/-- GCOMPACT (R192). -/
def execGcompact (f : GM) : Meaning := changeRun 0x07 (.gcompact f) f
  (fun x b q p => do
    let m := b.toNat
    if m == 0 || 65536 < m || 16 * q.cap < m then raise x.fault
    else
      let _ ← gatherSpan x (4 * m)
      let old ← publishedSlots (gatherReach x) q p 0
      headDrops x p (old.map (fun s => (s, true)))
      headScores x q 0 (max m q.tokens)
      pure { pops := (m + 15) / 16 })
  (fun b _ => 4 * b.toNat)
  (fun x b q p c => do
    let m := b.toNat
    let slots := c.reserved
    let keep ← spanWords x m
    if !((keep.zip keep.tail).all (fun p => p.1 < p.2)) || keep.any (fun k => q.tokens ≤ k) then raise x.fault
    else
      let old ← publishedSlots (gatherReach x) q p 0
      let imgs ← ((keep.map (· / 16)).eraseDups).mapM (fun j => do
        let img ← readPinned x p (old.getD j 0)
        pure (j, img))
      let tok := fun (k : Nat) => tokenOf p (((imgs.find? (fun i => i.1 == k / 16)).map (·.2)).getD []) (k % 16)
      let blocks := (List.range slots.length).flatMap (fun j =>
        slotWrites p (slots.getD j 0) (blockSectors p true (fun _ => (0, {}))
          ((((keep.drop (16 * j)).take 16).zip (List.range 16)).map (fun y => (y.2, tok y.1)))))
      let scores ← (if q.score == 0 then pure [] else do
        let words ← keep.mapM (fun k => (gatherReach x).read (q.score + 4 * k) 4)
        pure (splitWrite q.score words.flatten))
      let entries := (slots.zip (List.range slots.length)).map (fun y => entryWrite q y.2 (some y.1))
      let empties := (List.range (q.blocks - slots.length)).map (fun i => entryWrite q (slots.length + i) none)
      pure (blocks ++ poolWrite (old.map (fun s => (s, true))) :: entries ++ empties ++ scores ++ clearScores q m q.tokens ++ [publishWrite q m []]))

/-- The block that GTRUNC to L tokens makes private and cuts, if any: its index. -/
def cutBlock (l : Nat) : Option Nat := if l % 16 == 0 then none else some (l / 16)

/-- A slot's content with its positions from t on zero in both parts (R193). -/
def cutSector (p : Pool) (t k : Nat) (v : BitVec 512 × Marks) : BitVec 512 × Marks :=
  let half := p.dim / 2
  if k < half then (if t ≤ k / (p.dim / 32) then (0, {}) else v)
  else
    let keep := fun (h : Nat) => (2 ^ (2 * t) - 1) * 2 ^ (32 * h)
    (mergeBytes (BitVec.ofNat 64 (keep 0 + keep 1)) v.1 0, v.2)

/-- The sectors that the cut at position t changes. -/
def cutChanges (p : Pool) (t k : Nat) : Bool := p.dim / 2 ≤ k || t ≤ k / (p.dim / 32)

/-- GTRUNC (R193). -/
def execGtrunc (f : GM) : Meaning := changeRun 0x08 (.gtrunc f) f
  (fun x b q p => do
    let r := gatherReach x
    let l := b.toNat
    if q.tokens < l then raise x.fault
    else if l == q.tokens then pure {}
    else
      let old ← publishedSlots r q p ((l + 15) / 16)
      headScores x q l q.tokens
      match cutBlock l with
      | none =>
        headDrops x p (old.map (fun s => (s, true)))
        pure {}
      | some j =>
        let s ← heldEntry r q p j
        let n ← readCount r p s
        headDrops x p ((if 1 < n then [(s, true)] else []) ++ old.map (fun s => (s, true)))
        pure (if 1 < n then { pops := 1 } else { inPlace := [s] }))
  noSpan
  (fun x b q p c => do
    let r := gatherReach x
    let l := b.toNat
    if l == q.tokens then pure []
    else
      let lo := (l + 15) / 16
      let old ← publishedSlots r q p lo
      let (ops, ws) ← (match cutBlock l with
        | none => pure ([], [])
        | some j => do
          let s ← heldEntry r q p j
          let img ← readPinned x p s
          let cut := (List.range p.dim).map (fun k => (k, cutSector p (l % 16) k (img.getD k (0, {}))))
          match c.reserved with
          | new :: _ => pure ([(s, true)], slotWrites p new cut ++ [entryWrite q j (some new)])
          | [] => pure ([], slotWrites p s (cut.filter (fun v => cutChanges p (l % 16) v.1))))
      let drops := ops ++ old.map (fun s => (s, true))
      pure (ws ++ (if drops.isEmpty then [] else [poolWrite drops])
        ++ (List.range (q.blocks - lo)).map (fun i => entryWrite q (lo + i) none) ++ clearScores q l q.tokens ++ [publishWrite q l []]))

/-! ### GBMINV (R194) and pins (R175) -/

/-- GBMINV. -/
def execGbminv (f : GM) : Meaning := gatherRun 0x0A (.gbminv f) f false (fun x => do
  let a ← engOperand .gather false f.xs
  let b ← engOperand .gather true f.xb
  if b != 0 then raise x.fault
  else
    let va ← (if bit a 0 then pure 0 else checkVirtual x.fault (a &&& ~~~63))
    modCore (fun c => { c with bmc := if bit a 0 then [] else c.bmc.filter (fun e => e.sd != va) })
    countCnt f.cnt 4 x.ph)

end Sys2Proof.Machine
end

