-- ==== Sys2Proof/Machine/Strait.lean ====
section
/-! DEFINITION. Routing control and the Strait (spec 14_archipelago R310 to R326): the instructions RTDRAIN, RTSET and
RTFENCE, drains, and the flits that arrive from other islands. -/

namespace Sys2Proof.Machine

/-! ### Failures of requests (R314) -/

/-- A failed request that is delivered, and not awaited by its command. -/
def RemoteReq.delivered (r : RemoteReq) : Bool :=
  match r.kind with
  | .read => r.engine == 1 && r.ticket < 2 ^ 64
  | .atomic => r.engine != 1 || r.ticket < 2 ^ 64
  | _ => true

/-- Deliver the failure of a request: to the result of a Shuttle load or atomic under R198; of a write imprecisely at the
issuing core, once for each command (R314). -/
def deliverFail (r : RemoteReq) (cause : Nat) (s : State) : State :=
  let st := s.strait
  let s := leaveChannel r (r.bytes false) { s with strait := { st with waiting := st.waiting.filter (fun x => x.tag != r.tag) } }
  if r.quiet then s
  else if r.kind == .read || (r.kind == .atomic && r.engine == 1) then
    answer r.core r.ticket (fun p => { p with ready := true, fault := some (remoteFail shData cause r.addr) }) s
  else
    let same := fun (x : RemoteReq) => r.engine != 1 && x.core == r.core && x.engine == r.engine && x.pos == r.pos
    let s := { s with strait := { s.strait with waiting := s.strait.waiting.map (fun x => if same x then { x with quiet := true } else x) } }
    let c := coreOf s r.core
    let s := if r.engine == 5 then withCore s r.core { c with sq := c.sq.modPos r.pos (fun k => { k with refused := true }) } else s
    faultOn r.core { code := .remoteFail, engine := r.engine, precise := false, addr := r.addr, cause := cause, opc := r.opc,
                     pos := if r.engine == 1 then none else some r.pos } s

/-- A request fails with a cause of Table 14.5. -/
def failRequest (tag cause : Nat) (s : State) : State :=
  match s.strait.waiting.find? (fun r => r.tag == tag) with
  | some r =>
    if r.delivered then deliverFail r cause s
    else { s with strait := { s.strait with waiting := s.strait.waiting.map (fun x =>
      if x.tag == tag then { x with done := true, fail := some cause } else x) } }
  | none => failMessage tag cause s

/-! ### RTDRAIN (R322 to R324) -/

/-- The routing state becomes DRAINED: the first RTDRAIN receives the discard count, the others 0; a mode 1 that waits
releases injection (Table 14.8). -/
def becomeDrained (discards : Nat) (s : State) : State :=
  let ws := s.strait.drains
  let s := ws.foldl (fun s w => answer w.core w.ticket (fun p => { p with
    ready := true, value := if w.first then BitVec.ofNat 64 discards else 0 }) s) s
  let release := ws.any (fun w => w.mode == 1)
  let s := { s with strait := if release then { s.strait with drains := [] }.released else { s.strait with routing := .drained, drains := [] } }
  if release then flushMsgs s else s

/-- RTDRAIN (R322, R324). -/
def execRtdrain (f : SI) : Meaning := runM (do
  awaitDest f.d
  let a ← readX false f.a
  needRight 3
  let s ← get
  let mode := f.imm.toNat
  let wait := fun (first : Bool) => do
    let tk ← ticket
    later { d := f.d, ready := false, ticket := tk }
    modStrait (fun st => { st with drains := st.drains ++ [{ core := s.cur, ticket := tk, mode := mode, first := first }] })
  if mode == 0 && (a == 0 || 2 ^ 32 < a.toNat) then shFault .badOperand
  else match s.strait.routing, mode with
    | .normal, 0 =>
      modStrait (fun st => { st with routing := .draining, drainEnd := s.pick.toNat + a.toNat, drainCore := s.cur })
      wait true
    | .draining, _ => wait false
    | .drained, 1 =>
      modStrait Strait.released
      modify flushMsgs
      later { d := f.d, value := 0 }
    | _, _ => later { d := f.d, value := 0 })

/-- ROUTE_DRAIN_COMPLETE (R322): no flit is in flight on the island. -/
def execRouteDrainComplete : Meaning := runM (do
  let s ← get
  if s.strait.routing != .draining then pure ()
  else if !s.strait.flying.isEmpty then stall .condition
  else modify (becomeDrained 0))

/-- The requester to whom a flit belongs, as this island can tell it: the source of a request, the destination of a reply; a message
of the layout of log entry 13 is a reply where its first word is no operation. -/
def requester (x : FlitKind × Flit) : Option (BitVec 10) :=
  match x.1 with
  | .read | .write | .atomic | .tileWrite => some x.2.src
  | .readData | .writeAck | .atomicData | .nack => some x.2.dst
  | .msg => some (if bits (msgWord x.2.data 0) 63 8 == 0 && bits (msgWord x.2.data 0) 7 0 != 0 then x.2.src else x.2.dst)
  | _ => none

/-- The NACK with a cause that tells the requester of another island what became of a flit (R314, R321, R323, R325). -/
def nackFor (cause : Nat) (x : FlitKind × Flit) : Option (FlitKind × Flit) :=
  (requester x).map (fun d => (.nack,
    { vc := 6, dst := d, src := if d == x.2.src then x.2.dst else x.2.src, score := x.2.score, tag := x.2.tag,
      opnd := BitVec.ofNat 128 cause }))

/-- Send a NACK by the port to which a die's tables lead; none where they lead nowhere. -/
def sendNack (die node : Nat) (x : FlitKind × Flit) (s : State) : State :=
  match routeNode s.strait die node x.2.dst.toNat with
  | .ok port => emitAt x.1 { x.2 with out := BitVec.ofNat 4 port } s
  | .error _ => s

/-- The failure of a flit of this island or of another reaches its requester (R314). -/
def tellRequester (die node cause : Nat) (x : FlitKind × Flit) (s : State) : State :=
  match nackFor cause x with
  | none => s
  | some n => if n.2.dst == s.host.island then failRequest x.2.tag.toNat cause s else sendNack die node n s

/-- ROUTE_DRAIN_TIMEOUT (R322, R323): the flits that remain are discarded, and their requesters receive LOST; those of other
islands by NACK (log entry 13). -/
def execRouteDrainTimeout : Meaning := runM (do
  let s ← get
  if s.strait.routing != .draining then pure ()
  else if s.pick.toNat < s.strait.drainEnd then stall .condition
  else modify (fun s =>
    let lost := s.strait.flying
    let s := { s with strait := { s.strait with flying := [], sent := lost.foldl (fun l x => l.erase x) s.strait.sent } }
    let s := lost.foldl (fun s x => tellRequester (x.2.out.toNat / 4) (228 + x.2.out.toNat % 4) 3 x s) s
    becomeDrained lost.length s))

/-! ### RTSET (R324, Table 14.10) -/

/-- A mesh entry that R321 and R324 allow. -/
def meshEntryOk (router cls node out : Nat) : Bool :=
  let row := router % 192 / 16
  let col := router % 16
  router < 768 && cls ≤ 4 && node < 237 && node != 224 + router / 192 && out ≤ 4
    && !(cls == 4 && 2 ≤ out)
    && !(out == 0 && node != router % 192)
    && !(out == 1 && row == 0 && !(192 ≤ node && (node - 192) % 16 == col))
    && !(out == 2 && row == 11) && !(out == 3 && col == 15) && !(out == 4 && col == 0)

/-- The previous entry, and the tables with the new one; none for BAD_OPERAND. -/
def setRoute (st : Strait) (a b : Word) : Option (Nat × Strait) :=
  match bits a 63 60 with
  | 0 =>
    let router := bits a 41 32
    let cls := bits a 10 8
    let node := bits a 7 0
    let key := 1280 * router + 256 * cls + node
    if bits a 59 42 != 0 || bits a 31 11 != 0 || bits b 63 3 != 0 || !meshEntryOk router cls node b.toNat then none
    else some (meshOut st router cls node, { st with mesh := mset (resetRoute router node) st.mesh key b.toNat })
  | 1 =>
    let die := bits a 33 32
    let isl := bits a 9 0
    if bits a 59 34 != 0 || bits a 31 10 != 0 || !(b.toNat ≤ 15 || b == 0x1F) then none
    else some (islandPort st die isl, { st with islands := mset 0x1F st.islands (1024 * die + isl) b.toNat })
  | 2 =>
    let stage := bits a 5 0
    if bits a 59 6 != 0 || 5 < b.toNat then none
    else some (stageChannel st stage, { st with stages := mset (stage % 6) st.stages stage b.toNat })
  | _ => none

/-- RTSET (R324). -/
def execRtset (f : SA) : Meaning := runM (do
  awaitDest f.d
  let (a, b) ← SA.ab f
  needRight 3
  let s ← get
  if s.strait.routing != .drained then shFault .badOperand
  else match setRoute s.strait a b with
    | none => shFault .badOperand
    | some (old, st) =>
      modStrait (fun old => { st with before := some (old.before.getD (old.mesh, old.islands, old.stages)) })
      later { d := f.d, value := BitVec.ofNat 64 old })

/-! ### RTFENCE (R325) -/

/-- The part that X[a] names: its key, or none for BAD_OPERAND. -/
def fencePart (kind : Nat) (a : Word) : Option Nat :=
  match kind with
  | 0 => if a.toNat < 768 then some a.toNat else none
  | 1 => if bits a 63 4 == 0 && bits a 1 0 != bits a 3 2 then some (bridgeKey (bits a 1 0) (bits a 3 2)) else none
  | 2 => if a.toNat < 16 then some a.toNat else none
  | _ => if a.toNat < 1024 then some a.toNat else none

/-- The fences of a kind. -/
def Strait.fences (st : Strait) (kind : Nat) : SMap Bool :=
  match kind with
  | 0 => st.fencedRouters
  | 1 => st.fencedBridges
  | 2 => st.fencedPorts
  | _ => st.fencedIslands

/-- Replace the fences of a kind. -/
def Strait.withFences (st : Strait) (kind : Nat) (m : SMap Bool) : Strait :=
  match kind with
  | 0 => { st with fencedRouters := m }
  | 1 => { st with fencedBridges := m }
  | 2 => { st with fencedPorts := m }
  | _ => { st with fencedIslands := m }

/-- Every outstanding request to an island completes with cause FENCED (R325). -/
def fenceRequests (isl : Nat) (s : State) : State :=
  let tags := (s.strait.waiting.filter (fun r => r.island == isl && !r.done)).map (·.tag)
    ++ (s.loomWaits.filter (fun w => w.island == isl)).map (·.tag)
  tags.foldl (fun s t => failRequest t 1 s) s

/-- RTFENCE (R325). -/
def execRtfence (f : SI) : Meaning := runM (do
  awaitDest f.d
  let a ← readX false f.a
  needRight 3
  let s ← get
  let kind := bits f.imm 1 0
  let lift := bit f.imm 8
  match fencePart kind a with
  | none => shFault .badOperand
  | some k =>
    if !lift && kind != 3 && s.strait.routing != .drained then shFault .badOperand
    else
      let old := mget false (s.strait.fences kind) k
      modStrait (fun st => st.withFences kind (mset false (st.fences kind) k (!lift)))
      later { d := f.d, value := if old then 1 else 0 }
      if kind == 3 && !lift then modify (fenceRequests k) else pure ())

/-! ### Flits that arrive -/

/-- How a flit that entered at a port leaves towards an island (R320, R321). -/
def routeThrough (st : Strait) (port island : Nat) : Except Nat Nat := routeNode st (port / 4) (228 + port % 4) island

/-- KIND of Table 14.6. -/
def FlitKind.code : FlitKind → Nat
  | .read => 0 | .readData => 1 | .write => 2 | .writeAck => 3 | .atomic => 4 | .atomicData => 5 | .tileWrite => 6 | .msg => 7
  | .nack => 8 | .time => 9 | .mgmt => 10

/-- The 128 bytes of a flit on a link (R315): bytes 0 to 59 of the header of Table 14.6, their CRC-32 with that of the sector, and
the sector. -/
def flitImage (kind : FlitKind) (fl : Flit) : List Byte :=
  let header := leBytes 1 (kind.code + 16 * fl.vc.toNat)
    ++ leBytes 1 (fl.hops.toNat + (if fl.poison then 8 else 0) + (if fl.e1 then 16 else 0) + (if fl.near then 32 else 0))
    ++ leBytes 2 fl.dst.toNat ++ leBytes 2 fl.src.toNat ++ leBytes 2 fl.score.toNat ++ leBytes 4 fl.tag.toNat
    ++ leBytes 1 fl.chop.toNat ++ leBytes 1 fl.size.toNat ++ leBytes 2 0
    ++ leBytes 8 fl.addr.toNat ++ leBytes 8 fl.mask.toNat ++ leBytes 16 fl.opnd.toNat ++ leBytes 12 0
  header ++ leBytes 4 (crc32 (header ++ leBytes 64 fl.data.toNat)).toNat ++ leBytes 64 fl.data.toNat

/-- A reply of this island to a request flit. -/
def reply (kind : FlitKind) (fl : Flit) (r : Flit) : M Unit := do
  let s ← get
  match routeThrough s.strait s.input.port.toNat fl.src.toNat with
  | .error _ => pure ()
  | .ok port => modify (emitAt kind { r with
      vc := 6, dst := fl.src, src := s.host.island, score := fl.score, tag := fl.tag, out := BitVec.ofNat 4 port })

/-- NACK with a cause of Table 14.5. -/
def nackFlit (cause : Nat) : Flit := { opnd := BitVec.ofNat 128 cause }

/-- A flit that passes through the island (R321): HOPS rises; one that would leave with HOPS 7 is discarded, and its requester
receives HOPS; one with no way on leaves its requester that cause. -/
def passFlit (kind : FlitKind) : M Unit := do
  let s ← get
  let fl := s.input.flit
  let port := s.input.port.toNat
  let refuse := fun (c : Nat) => modify (tellRequester (port / 4) (228 + port % 4) c (kind, fl))
  if 6 ≤ fl.hops.toNat then refuse 4
  else match routeThrough s.strait port fl.dst.toNat with
    | .error c => refuse c
    | .ok out =>
      if mget false s.strait.stopped (8 * out + fl.vc.toNat) || mget false s.strait.testing out then stall .backPressure
      else modify (emitAt kind { fl with hops := fl.hops + 1, out := BitVec.ofNat 4 out })

/-- A flit that arrives from a link (R321, R323): held at its port while the island drains, during a checkpoint or a restore
(R100) and in RECOVERY (R417); discarded and counted with a reserved kind or field (R315); passed on, or taken here; a
TIME flit is for the neighbour that receives it (R319). -/
def arriveFlit (kind : FlitKind) (here : M Unit) : Meaning := runM (do
  let s ← get
  let port := s.input.port.toNat
  if s.strait.routing != .normal || s.host.ck.status == 2 || s.host.ck.status == 3 || s.host.boot == 0xE0 then stall .backPressure
  else if mget false s.strait.fencedPorts port then pure ()
  else if s.input.flit.reserved then
    modStrait (fun st => { st with discarded := mset 0 st.discarded port (mget 0 st.discarded port + 1) })
  else if s.input.flit.dst != s.host.island && kind != .time then passFlit kind
  else here)

/-- The bytes that a flit's SIZE names. -/
def flitBytes (fl : Flit) : Nat := 2 ^ min fl.size.toNat 6
/-- The marks that a flit carries. -/
def flitMarks (fl : Flit) : Marks := { poison := fl.poison, e1 := fl.e1 }

/-- A request at its target waits while the HBM row that it touches is under test (Table 18.8) and a write while its frame is copied
(R97, R99); a fenced part on its way gives FENCED (R325). -/
def atTarget (writes : Bool) (serve : M Unit) : M Unit := do
  let s ← get
  let fl := s.input.flit
  let (die, node) := targetNode fl.near fl.addr.toNat
  if !portReaches s.strait s.input.port.toNat die node then reply .nack fl (nackFlit 1)
  else if !fl.near && rowTested s (fl.addr.toNat / 64) then stall .selfTest
  else if writes && !fl.near && copyHolds s (fl.addr.toNat / 64) then
    modify (noteHeldWrite (fl.addr.toNat / 64))
    stall .hold
  else serve

/-- The reply to a request that was served: data with its marks, an acknowledgement, or NACK. The record of a marked sector
travels in OPND and ADDR (log entry 13). -/
def answerFlit (data : FlitKind) (a : Answer) : M Unit := do
  let s ← get
  let fl := s.input.flit
  match a with
  | .data v mk e3 => reply data fl { poison := mk.poison, e1 := mk.e1, size := fl.size, data := v, addr := mk.found,
                                     opnd := mk.log ++ BitVec.ofNat 64 (if e3 then 1 else 0) }
  | .ack => reply .writeAck fl {}
  | .nack c => reply .nack fl (nackFlit c)

/-- READ (R310). -/
def execRead : Meaning := arriveFlit .read (atTarget false do
  let s ← get
  let fl := s.input.flit
  let (a, s') := serveRead fl.src.toNat fl.near fl.addr.toNat (flitBytes fl) s
  set s'
  answerFlit .readData a)

/-- WRITE (R310, R313): performed at its home point in the order of arrival. -/
def execWrite : Meaning := arriveFlit .write (atTarget true do
  let s ← get
  let fl := s.input.flit
  let (a, s') := serveWrite fl.src.toNat fl.near fl.addr.toNat (flitBytes fl) (sectorMask fl.addr.toNat (flitBytes fl) fl.mask) fl.data (flitMarks fl) s
  set s'
  answerFlit .readData a)

/-- ATOMIC (R310): of a word, or a reduction of a sector (R166). -/
def execAtomic : Meaning := arriveFlit .atomic (atTarget true do
  let s ← get
  let fl := s.input.flit
  if fl.size == 6 then
    let (a, s') := serveReduce fl.src.toNat fl.near fl.addr.toNat fl.chop.toNat fl.data (flitMarks fl) s
    set s'
    answerFlit .atomicData a
  else
    let n := flitBytes fl
    let (a, _, s') := serveAtomic fl.src.toNat fl.near fl.addr.toNat n fl.chop.toNat (bits fl.opnd 63 0 % 2 ^ (8 * n))
      (bits fl.opnd 127 64 % 2 ^ (8 * n)) 0 s
    set s'
    answerFlit .atomicData a)

/-- TILE_WRITE (R311): an arrival in the target tile, counted on the channel. -/
def execTileWrite : Meaning := arriveFlit .tileWrite (atTarget true do
  let s ← get
  let fl := s.input.flit
  let (a, s') := serveTile fl.src.toNat fl.addr.toNat (fl.chop.toNat % 16) fl.data (flitMarks fl) s
  set s'
  answerFlit .readData a)

/-- A request of this island that a reply answers. -/
def answered (s : State) : Option RemoteReq :=
  s.strait.waiting.find? (fun r => r.tag == s.input.flit.tag.toNat && r.island == s.input.flit.src.toNat && !r.done)

/-- A reply with data: a Shuttle's load or atomic has its result, another request keeps the data for its command. -/
def takeData (r : RemoteReq) : M Unit := do
  let s ← get
  let fl := s.input.flit
  let mk : Marks := { flitMarks fl with log := fl.opnd.extractLsb' 64 64, found := fl.addr }
  let e3 := bit fl.opnd 0
  if r.engine == 1 && r.ticket < 2 ^ 64 then
    modStrait (fun st => { st with waiting := st.waiting.filter (fun x => x.tag != r.tag) })
    match s.core.sh.pending.findIdx? (fun p => p.ticket == r.ticket && !p.ready), s.core.sh.pending.find? (fun p => p.ticket == r.ticket && !p.ready) with
    | some i, some p =>
      let old := leNat (sliceBytes fl.data (r.addr.toNat % 64) r.n)
      let again : Access := if r.kind == .atomic then .atomic r.op r.addr r.n r.operand r.comparand else .load r.addr r.n r.signed
      asPending i p (do
        shDeliver p.d r.addr ⟨fl.data, mk, e3⟩ (extendTo r.signed r.n old) again
        pure (if r.kind == .atomic && r.op == 0x58 && !e3 && !bad s mk then
          (atomicNew 0x58 r.n old (r.operand.toNat % 2 ^ (8 * r.n))).2 else {}))
    | _, _ => pure ()
  else if r.kind == .atomic && r.engine != 1 then
    modStrait (fun st => { st with waiting := st.waiting.filter (fun x => x.tag != r.tag) })
    if e3 && !r.quiet then
      modify (faultOn r.core { memFault shData .memE3 r.addr mk with
        engine := r.engine, precise := false, opc := r.opc, pos := some r.pos })
    else pure ()
  else modStrait (fun st => { st with waiting := st.waiting.map (fun x =>
    if x.tag == r.tag then { x with done := true, data := fl.data, marks := mk, e3 := e3 } else x) })

/-- A reply of data to a core of this island. -/
def dataFlit (kind : FlitKind) : Meaning := fun s =>
  match (if s.input.flit.dst == s.host.island then answered s else none) with
  | some r => arriveFlit kind (takeData r) (switchTo s r.core)
  | none => arriveFlit kind (pure ()) s

/-- READ_DATA (R310). -/
def execReadData : Meaning := dataFlit .readData
/-- ATOMIC_DATA (R310): the flags of an AFADD are those of its addition (R147). -/
def execAtomicData : Meaning := dataFlit .atomicData

/-- A write has been performed at its target: its bytes count once every earlier write through its channel has been performed
(R158). -/
def ackWrite (r : RemoteReq) (s : State) : State :=
  leaveChannel r (r.bytes true) { s with strait := { s.strait with waiting := s.strait.waiting.filter (fun x => x.tag != r.tag) } }

/-- WRITE_ACK (R310, R329). -/
def execWriteAck : Meaning := arriveFlit .writeAck (modify fun s =>
  match answered s with
  | some r => ackWrite r s
  | none => s)

/-- NACK (R314): a request of this island has failed, at its target or, `done` already, at this island. -/
def execNack : Meaning := fun s =>
  let tag := s.input.flit.tag.toNat
  match s.strait.waiting.find? (fun r => r.tag == tag && r.done && r.fail.isSome), s.loomWaits.find? (fun w => w.tag == tag && w.fail.isSome) with
  | some r, _ => runM (modify (failRequest tag (r.fail.getD 0))) s
  | none, some w => runM (modify (failMessage tag (w.fail.getD 0))) s
  | none, none => arriveFlit .nack (modify (failRequest tag (bits s.input.flit.opnd 3 0))) s

/-! ### Messages of the management kind, links and channels (R316 to R318) -/

/-- MSG (R373): a reply to a message of this island, or an operation that another island asks for. -/
def execMsg : Meaning := arriveFlit .msg (do
  let s ← get
  if s.selfTests.any (fun t => t.since != s.pick && (t.unit == 7 || t.unit == 8)) then stall .selfTest else modify takeMessage)

/-- MGMT (R317): management traffic, which asks nothing of the island's architectural state. -/
def execMgmt : Meaning := arriveFlit .mgmt (pure ())

/-- FLIT_RETRANSMIT (R316): the flit in place n of those that a port has sent failed its CRC and is sent again from the replay
buffer, in its place among the flits of the port; `ok` says whether this transmission was good. -/
def execFlitRetransmit : Meaning := runM (modify fun s =>
  let st := s.strait
  let port := s.input.port.toNat
  if mget false st.testing port then s
  else match (st.sent.filter (fun x => x.2.out.toNat == port))[s.input.n]? with
    | none => s
    | some x =>
      let s := addCounter (port / 4) 8 1 s
      if s.input.ok then { s with strait := { st with flying := st.flying.erase x, retries := mset 0 st.retries port 0 } }
      else { s with strait := { st with
        flying := if st.flying.contains x then st.flying else st.flying ++ [x]
        retries := mset 0 st.retries port (mget 0 st.retries port + 1) } })

/-- STRAIT_LANE_SELF_TEST_TRIGGER (R316, R405): after 16 consecutive failed transmissions the port tests its lane, and holds
its flits. -/
def execStraitLaneSelfTestTrigger : Meaning := runM (do
  let s ← get
  let port := s.input.port.toNat
  if mget 0 s.strait.retries port < 16 then stall .condition
  else
    modify (startTest 9 (port + 16 * (s.input.index.toNat % 8)) (port / 4) [] (!s.input.ok))
    modStrait (fun st => { st with testing := mset false st.testing port true, retries := mset 0 st.retries port 0 }))

/-- STRAIT_CHANNEL_STOP (R318): the receiver at the far end of a port signals stop for a channel, or with `ok` false takes it
back. -/
def execStraitChannelStop : Meaning := runM (modify fun s =>
  let st := s.strait
  flushMsgs { s with strait := { st with stopped := mset false st.stopped (8 * s.input.port.toNat + s.input.vc.toNat) s.input.ok } })

/-! ### Pick-clock synchronisation (R319) -/

/-- A signed difference that saturates in 16 bits. -/
def saturate16 (d : Int) : BitVec 16 := BitVec.ofInt 16 (max (-32768) (min 32767 d))

/-- TIME (R319): a non-master island measures its clock against the master's, and slews. -/
def execTime : Meaning := arriveFlit .time (modify fun s =>
  if s.strait.pickMaster then s
  else
    let est := s.input.flit.opnd.extractLsb' 0 64 + s.input.flit.opnd.extractLsb' 64 64
    let off := saturate16 ((s.pick - est).toInt)
    { s with strait := { s.strait with
      pickOffset := off
      slew := off
      pickLocked := -8 ≤ off.toInt && off.toInt ≤ 8
      masterPick := est
      lastTime := s.pick.toNat } })

/-- TIME_SEND_INTERVAL (R319): every 65,536 ticks TIME flits go to the neighbours; none in RECOVERY (R417). -/
def execTimeSendInterval : Meaning := runM (do
  let s ← get
  if s.pick.toNat < s.strait.lastSend + 65536 then stall .condition
  else if s.host.boot == 0xE0 then stall .boot
  else
    modStrait (fun st => { st with lastSend := s.pick.toNat })
    modify (fun s => (List.range 16).foldl (fun s p => sendTime p s) s))

/-- PICKSYNC_LOCK_LOSS (R319): no TIME flit for 2^20 ticks; the clock runs free. -/
def execPicksyncLockLoss : Meaning := runM (do
  let s ← get
  if s.pick.toNat < s.strait.lastTime + 2 ^ 20 then stall .condition
  else modStrait (fun st => { st with pickLocked := false, slew := 0 }))

/-- The pick counter takes the master estimate (R319): never back, and not while a launch runs. -/
def pickStep (s : State) : State :=
  let est := s.strait.masterPick + (s.pick - BitVec.ofNat 64 s.strait.lastTime)
  if s.host.launches.isEmpty && s.pick < est then
    { s with pick := est, strait := { s.strait with lastTime := est.toNat, masterPick := est, pickOffset := 0, slew := 0 } }
  else s

/-- PICKSYNC_STEP (R319). -/
def execPicksyncStep : Meaning := runM (modify pickStep)

end Sys2Proof.Machine
end

