-- ==== Sys2Proof/Machine/Verify.lean ====
section
/-! DEFINITION. Secure boot (spec 19_host_bringup R416): the Secure Hash Standard (FIPS 180-4), ECDSA P-384 verification (FIPS
186-5), LMS verification (RFC 8554 with SP 800-208), and the acceptance of a firmware image. -/

namespace Sys2Proof.Machine

/-! ### Bytes -/

/-- The value of big-endian bytes. -/
def beNat (bs : List Byte) : Nat := bs.foldl (fun a b => a * 256 + b.toNat) 0
/-- n big-endian bytes of a value. -/
def beBytes (n v : Nat) : List Byte := (leBytes n v).reverse

/-! ### SHA-2 (FIPS 180-4) -/

/-- The first 80 primes. -/
def primes : List Nat :=
  [2, 3, 5, 7, 11, 13, 17, 19, 23, 29, 31, 37, 41, 43, 47, 53, 59, 61, 67, 71]
    ++ [73, 79, 83, 89, 97, 101, 103, 107, 109, 113, 127, 131, 137, 139, 149, 151, 157, 163, 167, 173]
    ++ [179, 181, 191, 193, 197, 199, 211, 223, 227, 229, 233, 239, 241, 251, 257, 263, 269, 271, 277, 281]
    ++ [283, 293, 307, 311, 313, 317, 331, 337, 347, 349, 353, 359, 367, 373, 379, 383, 389, 397, 401, 409]

/-- The first 64 bits of the fractional part of the k-th root of a small number. -/
def rootBits (k n : Nat) : Nat :=
  (List.range 72).reverse.foldl (fun r i => if (r + 2 ^ i) ^ k ≤ n * 2 ^ (64 * k) then r + 2 ^ i else r) 0 % 2 ^ 64

/-- One function of the family, over words of w bits: its first hash value, its constants, its rotations. -/
structure Sha (w : Nat) where
  h0 : List (BitVec w)
  k : List (BitVec w)
  big0 : Nat × Nat × Nat
  big1 : Nat × Nat × Nat
  small0 : Nat × Nat × Nat
  small1 : Nat × Nat × Nat

/-- SHA-256. -/
def sha256p : Sha 32 :=
  { h0 := (primes.take 8).map (fun p => BitVec.ofNat 32 (rootBits 2 p / 2 ^ 32))
    k := (primes.take 64).map (fun p => BitVec.ofNat 32 (rootBits 3 p / 2 ^ 32))
    big0 := (2, 13, 22), big1 := (6, 11, 25), small0 := (7, 18, 3), small1 := (17, 19, 10) }
/-- SHA-384. -/
def sha384p : Sha 64 :=
  { h0 := ((primes.drop 8).take 8).map (fun p => BitVec.ofNat 64 (rootBits 2 p))
    k := primes.map (fun p => BitVec.ofNat 64 (rootBits 3 p))
    big0 := (28, 34, 39), big1 := (14, 18, 41), small0 := (1, 8, 7), small1 := (19, 61, 6) }

/-- Three rotations to the right, combined. -/
def rotations {w : Nat} (t : Nat × Nat × Nat) (x : BitVec w) : BitVec w := x.rotateRight t.1 ^^^ x.rotateRight t.2.1 ^^^ x.rotateRight t.2.2
/-- Two rotations and a shift to the right, combined. -/
def rotShift {w : Nat} (t : Nat × Nat × Nat) (x : BitVec w) : BitVec w := x.rotateRight t.1 ^^^ x.rotateRight t.2.1 ^^^ x >>> t.2.2

/-- The message schedule, newest word first, n words more. -/
def schedule {w : Nat} (p : Sha w) : Nat → List (BitVec w) → List (BitVec w)
  | 0, ws => ws
  | n + 1, ws => schedule p n
      ((rotShift p.small1 (ws.getD 1 0) + ws.getD 6 0 + rotShift p.small0 (ws.getD 14 0) + ws.getD 15 0) :: ws)

/-- One round on the eight working variables. -/
def shaRound {w : Nat} (p : Sha w) (v : List (BitVec w)) (kw : BitVec w × BitVec w) : List (BitVec w) :=
  let g := fun (i : Nat) => v.getD i 0
  let t1 := g 7 + rotations p.big1 (g 4) + ((g 4 &&& g 5) ^^^ (~~~(g 4) &&& g 6)) + kw.1 + kw.2
  let t2 := rotations p.big0 (g 0) + ((g 0 &&& g 1) ^^^ (g 0 &&& g 2) ^^^ (g 1 &&& g 2))
  [t1 + t2, g 0, g 1, g 2, g 3 + t1, g 4, g 5, g 6]

/-- One block of sixteen words. -/
def shaBlock {w : Nat} (p : Sha w) (h ws : List (BitVec w)) : List (BitVec w) :=
  let sched := (schedule p (p.k.length - 16) ws.reverse).reverse
  let v := (p.k.zip sched).foldl (shaRound p) h
  (h.zip v).map (fun x => x.1 + x.2)

/-- A message padded to whole blocks. -/
def shaPad (w : Nat) (m : List Byte) : List Byte :=
  let blk := 2 * w
  let len := w / 4
  m ++ [0x80] ++ List.replicate ((2 * blk - (m.length + 1 + len) % blk) % blk) 0 ++ beBytes len (8 * m.length)

/-- The first `out` bytes of the hash of a message. -/
def shaOf {w : Nat} (p : Sha w) (out : Nat) (m : List Byte) : List Byte :=
  let bs := shaPad w m
  let h := (List.range (bs.length / (2 * w))).foldl (fun h i =>
    shaBlock p h ((List.range 16).map (fun j => BitVec.ofNat w (beNat ((bs.drop (2 * w * i + w / 8 * j)).take (w / 8)))))) p.h0
  (h.flatMap (fun x => beBytes (w / 8) x.toNat)).take out

/-- The SHA-256 digest of a message. -/
def sha256 (m : List Byte) : List Byte := shaOf sha256p 32 m
/-- The SHA-384 digest of a message. -/
def sha384 (m : List Byte) : List Byte := shaOf sha384p 48 m

/-! ### ECDSA P-384 (FIPS 186-5) -/

/-- The field of the curve. -/
def p384p : Nat := 2 ^ 384 - 2 ^ 128 - 2 ^ 96 + 2 ^ 32 - 1
/-- The order of its base point. -/
def p384n : Nat := 0xffffffffffffffffffffffffffffffffffffffffffffffffc7634d81f4372ddf581a0db248b0a77aecec196accc52973
/-- Its coefficient b; a is −3. -/
def p384b : Nat := 0xb3312fa7e23ee7e4988e056be3f82d19181d9c6efe8141120314088f5013875ac656398d8a2ed19d2a85c8edd3ec2aef
/-- Its base point. -/
def p384g : Nat × Nat :=
  (0xaa87ca22be8b05378eb1c71ef320ad746e1d3b628ba79b9859f741e082542a385502f25dbf55296c3a545e3872760ab7,
   0x3617de4a96262c6f5d9e98bf9292dc29f8f41dbd289a147ce9da3113b5f0b8c00a60b1ce1d7e819d7a431d7c90ea0e5f)

/-- x^e mod m, by the low k bits of e. -/
def powMod (m : Nat) : Nat → Nat → Nat → Nat
  | 0, _, _ => 1 % m
  | k + 1, x, e =>
    let r := powMod m k (x * x % m) (e / 2)
    if e % 2 == 1 then r * x % m else r

/-- The inverse modulo a prime of 384 bits. -/
def invMod (m x : Nat) : Nat := powMod m 384 (x % m) (m - 2)

/-- A point of the curve; none is the point at infinity. -/
abbrev CurvePoint := Option (Nat × Nat)

/-- The sum of two points. -/
def addPoints (a b : CurvePoint) : CurvePoint :=
  match a, b with
  | none, b => b
  | a, none => a
  | some (x1, y1), some (x2, y2) =>
    if x1 == x2 && (y1 + y2) % p384p == 0 then none
    else
      let l := if x1 == x2 then 3 * (x1 * x1 + p384p - 1) * invMod p384p (2 * y1) % p384p
        else (y2 + p384p - y1) * invMod p384p (x2 + p384p - x1) % p384p
      let x := (l * l + 2 * p384p - x1 - x2) % p384p
      some (x, (l * (x1 + p384p - x) + p384p - y1) % p384p)

/-- A multiple of a point, by the low k bits of the factor. -/
def mulPoint : Nat → Nat → CurvePoint → CurvePoint
  | 0, _, _ => none
  | k + 1, e, q =>
    let r := mulPoint k (e / 2) (addPoints q q)
    if e % 2 == 1 then addPoints q r else r

/-- A public key is a point of the curve. -/
def onCurve (q : Nat × Nat) : Bool :=
  q.1 < p384p && q.2 < p384p && q.2 * q.2 % p384p == (q.1 * q.1 * q.1 + (p384p - 3) * q.1 + p384b) % p384p

/-- A signature (r, s) verifies over a digest of 48 bytes under a public key. -/
def ecdsaVerify (q : Nat × Nat) (digest : List Byte) (r s : Nat) : Bool :=
  if !onCurve q || r == 0 || p384n ≤ r || s == 0 || p384n ≤ s then false
  else
    let w := invMod p384n s
    match addPoints (mulPoint 384 (beNat digest * w % p384n) (some p384g)) (mulPoint 384 (r * w % p384n) (some q)) with
    | none => false
    | some (x, _) => x % p384n == r

/-! ### LMS (RFC 8554), parameter sets LMS_SHA256_M32_H20 and LMOTS_SHA256_N32_W4 -/

/-- Bytes of a list. -/
def slice (bs : List Byte) (off n : Nat) : List Byte := (bs.drop off).take n

/-- Digit i of 4 bits of a string. -/
def digit4 (bs : List Byte) (i : Nat) : Nat := (bs.getD (i / 2) 0).toNat / 16 ^ (1 - i % 2) % 16

/-- The checksum of the 64 digits of a hash. -/
def lmotsSum (q : List Byte) : Nat := ((List.range 64).map (fun i => 15 - digit4 q i)).foldl (· + ·) 0 * 16

/-- The chain of one digit from step a to step 15. -/
def lmotsChain (idq : List Byte) (i : Nat) : Nat → Nat → List Byte → List Byte
  | 0, _, t => t
  | n + 1, j, t => lmotsChain idq i n (j + 1) (sha256 (idq ++ beBytes 2 i ++ beBytes 1 j ++ t))

/-- The one-time public key that a one-time signature gives for a message. -/
def lmotsKey (idq message sig : List Byte) : List Byte :=
  let q := sha256 (idq ++ beBytes 2 0x8181 ++ slice sig 4 32 ++ message)
  let v := q ++ beBytes 2 (lmotsSum q)
  sha256 (idq ++ beBytes 2 0x8080 ++ (List.range 67).flatMap (fun i =>
    lmotsChain idq i (15 - digit4 v i) (digit4 v i) (slice sig (36 + 32 * i) 32)))

/-- From a node to the root over the path. -/
def lmsRoot (ident : List Byte) : List (List Byte) → Nat → List Byte → List Byte
  | [], _, t => t
  | x :: r, n, t => lmsRoot ident r (n / 2)
      (sha256 (ident ++ beBytes 4 (n / 2) ++ beBytes 2 0x8383 ++ (if n % 2 == 1 then x ++ t else t ++ x)))

/-- An LMS signature verifies over a message under a public key of 56 bytes. -/
def lmsVerify (key message sig : List Byte) : Bool :=
  let ident := slice key 8 16
  let q := beNat (slice sig 0 4)
  let ots := slice sig 4 2180
  key.length == 56 && beNat (slice key 0 4) == 8 && beNat (slice key 4 4) == 3
    && sig.length == 2828 && beNat (slice ots 0 4) == 3 && beNat (slice sig 2184 4) == 8 && q < 2 ^ 20
    && (let kc := lmotsKey (ident ++ beBytes 4 q) message ots
        let leaf := sha256 (ident ++ beBytes 4 (2 ^ 20 + q) ++ beBytes 2 0x8282 ++ kc)
        lmsRoot ident ((List.range 20).map (fun i => slice sig (2188 + 32 * i) 32)) (2 ^ 20 + q) leaf == slice key 24 32)

/-! ### Images (R416) -/

/-- The digest of an image's header of 4 KiB. -/
def headerDigest (img : Memory) : List Byte := sha384 (img.readN 0 4096)
/-- The digest of the payload behind it. -/
def payloadDigest (img : Memory) : List Byte := sha384 (img.readN 4096 (Config.imageParts img).payload)

/-- An image is accepted (R416): both signatures over its header's digest verify under keys of unrevoked slots whose digests the fuses
hold, the payload digest matches, and its SVN, below 64, reaches the fused minimum. -/
def imageAccepted (h : HostSide) (img : Memory) : Bool :=
  let p := Config.imageParts img
  let d := headerDigest img
  let fuse := fun (k : Nat) => mget [] h.keyDigests k
  !bit h.revoked p.ecdsaSlot.toNat && !bit h.revoked (4 + p.lmsSlot.toNat)
    && fuse p.ecdsaSlot.toNat == sha384 (beBytes 48 p.ecdsaKey.1 ++ beBytes 48 p.ecdsaKey.2)
    && fuse (4 + p.lmsSlot.toNat) == sha384 p.lmsKey
    && ecdsaVerify p.ecdsaKey d p.ecdsaSig.1 p.ecdsaSig.2 && lmsVerify p.lmsKey d p.lmsSig
    && payloadDigest img == p.digest && h.minSvn ≤ p.svn && p.svn < 64

end Sys2Proof.Machine
end

