-- ==== Sys2Proof/Machine/HostSide.lean ====
section
/-! DEFINITION. The host side (spec 19_host_bringup): the control window, BAR2, CORECTL, reset and bring-up, power states,
power and thermal limits, host ports and host lines. -/

namespace Sys2Proof.Machine

/-! ### Launch ports and CORECTL (R413, R414) -/

/-- LAUNCH_PORT_SUBMIT (R413). -/
def execLaunchPortSubmit : Meaning := barAccess (fun s => submitLaunch s.input.link.toNat s)

/-- PREEMPT (R414): a request to a running core; otherwise ignored. -/
def ctlPreempt (n : Nat) (s : State) : State :=
  if n < 768 && ((coreOf s n).run == .running || (coreOf s n).run == .haltedDone) then requestPreempt n s else s
/-- ABORT (R414): in STATE 2 or 3 the effect of RTE 1; otherwise ignored. -/
def ctlAbort (n : Nat) (s : State) : State :=
  if n < 768 && ((coreOf s n).run == .haltedFault || (coreOf s n).run == .stopped) then abortCore n s else s

/-- CORECTL_PREEMPT (R414). -/
def execCorectlPreempt : Meaning := barAccess (fun s => ctlPreempt s.input.core s)
/-- CORECTL_ABORT (R414). -/
def execCorectlAbort : Meaning := barAccess (fun s => ctlAbort s.input.core s)

/-! ### Writes of the control window (Table 19.1) -/

/-- A write of BASE, SIZE, HEAD or TAIL (number 0 to 3) of a ring (R412): BASE and SIZE within the limits of R116; the count that
the device advances is the device's. -/
def Ring.write (r : Ring) (deviceHead : Bool) (k : Nat) (v : Word) : Ring :=
  if k == 0 then (if v.toNat % 65536 == 0 then { r with base := v } else r)
  else if k == 1 then
    (if 256 ≤ v.toNat && v.toNat ≤ 65536 && 2 ^ Nat.log2 v.toNat == v.toNat then { r with size := v } else r)
  else if k == 2 then (if deviceHead then r else { r with head := v })
  else (if deviceHead then { r with tail := v } else r)

/-- A write in the page-request group at 0x8000 (R116, R117). -/
def writePrq (k : Nat) (v : Word) (s : State) : State :=
  if k < 4 then flushPageReqs { s with prq := s.prq.write true k v }
  else if bits v 1 0 == 0 then answerMapped v s
  else if bits v 1 0 == 1 then answerRefused v s
  else s

/-- A write in the ring groups of a die at 0x8600 (R123, R124): words 0 to 3 FFR, 4 to 7 HFR, 8 to 11 released host frames. -/
def writeFrames (d k : Nat) (v : Word) (s : State) : State :=
  let x := dieOf s d
  if k < 4 then withDie s d { x with ffr := x.ffr.write false k v }
  else if k < 8 then (if d < 2 then withDie s d { x with hfr := x.hfr.write false (k - 4) v } else s)
  else withDie s d { x with released := x.released.write true (k - 8) v }

/-- A write of a checkpoint register (Table 5.7); a register that the device advances is the device's while STATE is 2 or 3. A CKSIZE
outside its limits is ignored and any CKBASE is taken: the model's choice (log entry 72). -/
def writeCk (k : Nat) (v : Word) (s : State) : State :=
  if k == 0 then (if v == 1 then ckStart 1 s else if v == 2 then ckStart 2 s else if v == 3 then ckAbort s else s)
  else if k < 8 then s
  else
    let p := (k - 8) / 4
    let n := v.toNat
    match (k - 8) % 4 with
    | 0 => modCk (fun c => { c with base := mset 0 c.base p v }) s
    | 1 => if 2 ^ 20 ≤ n && n ≤ 2 ^ 40 && 2 ^ Nat.log2 n == n then modCk (fun c => { c with size := mset 0 c.size p v }) s else s
    | 2 => if s.host.ck.status == 2 then s else modCk (fun c => { c with head := mset 0 c.head p v }) s
    | _ => if s.host.ck.status == 3 then s else modCk (fun c => { c with tail := mset 0 c.tail p v }) s

/-- A write of ATTBASE (R387): ignored where it is no region of device memory, or while a record is in use. -/
def writeAttBase (d : Nat) (v : Word) (s : State) : State :=
  let x := dieOf s d
  if v.toNat % 2 ^ 20 != 0 || memEnd ≤ v.toNat || x.attUsed.any (·.2.used) then s else withDie s d { x with attBase := v.toNat }

/-- A write of half an inbound window (Table 14.2): reserved bits read zero. -/
def writeWindow (i : Nat) (high : Bool) (v : Word) (s : State) : State :=
  let old := mget 0 s.strait.windows i
  let low := (old.setWidth 64).setWidth 128
  let top := old >>> 64 <<< 64
  let new := if high then low ||| ((v &&& 0xF8000FFFFF000000).setWidth 128 <<< 64) else top ||| (v &&& 0x007FFFFF007FFFFF).setWidth 128
  { s with strait := { s.strait with windows := mset 0 s.strait.windows i new } }

/-- A write of PICKSYNC (Table 14.7). -/
def writePicksync (v : Word) (s : State) : State :=
  let s := { s with strait := { s.strait with pickMaster := bit v 32 } }
  if bit v 33 then pickStep s else s

/-- The counters of Table 18.7 of a die are cleared (R408). -/
def clearCounters (d : Nat) (s : State) : State := withDie s d { dieOf s d with counters := [] }

/-- A write of the swap registers at 0x8800 (R124) and of the requantisation cap (R93). -/
def writeSwap (k : Nat) (v : Word) (s : State) : State :=
  let h := s.host
  match k with
  | 0 => { s with host := { h with swapLow := v } }
  | 1 => { s with host := { h with swapHigh := v } }
  | 2 => { s with host := { h with groupTable := v } }
  | 3 => { s with host := { h with groupCount := v } }
  | 4 => if v.toNat ≤ 200 then { s with host := { h with rqCap := v.toNat } } else s
  | _ => s

/-- A write of one of the first registers: ISLAND while no launch runs, HBMWIN within the device (Table 19.1, R412). -/
def writeFirst (k : Nat) (v : Word) (s : State) : State :=
  if k == 2 then (if s.host.launches.isEmpty then { s with host := { s.host with island := v.setWidth 10 } } else s)
  else if k == 3 then
    (if bits v 38 30 ≤ 383 then { s with host := { s.host with hbmwin := BitVec.ofNat 64 (bits v 38 30 * 2 ^ 30) } } else s)
  else s

/-- A write in a launch port (R413): LBUF, or LGO. -/
def writePort (link o : Nat) (v : Word) (s : State) : State :=
  if !linkExists s.host link then s
  else if o < 0x1000 then modPort link (fun p => { p with buf := p.buf.write o (leBytes 8 v.toNat) }) s
  else if o == 0x1000 && v == 1 then submitLaunch link s
  else s

/-- An aligned 8-byte write at an offset of the control window (Table 19.1); an offset without a writable register ignores it. -/
def writeControl (o : Nat) (v : Word) (s : State) : State :=
  if o < 0x1000 then writeFirst (o / 8) v s
  else if o < 0x5000 then writePort ((o - 0x1000) / 0x2000 * 2) ((o - 0x1000) % 0x2000) v s
  else if 0x8000 ≤ o && o < 0x8028 then writePrq ((o - 0x8000) / 8) v s
  else if 0x8100 ≤ o && o < 0x8120 then { s with frq := s.frq.write true ((o - 0x8100) / 8) v }
  else if 0x8200 ≤ o && o < 0x8300 then
    let d := (o - 0x8200) / 0x40
    let k := (o - 0x8200) % 0x40 / 8
    if k < 4 then withDie s d { dieOf s d with errRing := (dieOf s d).errRing.write true k v } else s
  else if 0x8400 ≤ o && o < 0x8500 then
    let d := (o - 0x8400) / 0x40
    let k := (o - 0x8400) % 0x40 / 8
    if k < 4 then withDie s d { dieOf s d with testLog := (dieOf s d).testLog.write true k v } else s
  else if 0x8600 ≤ o && o < 0x8800 then
    let k := (o - 0x8600) % 0x80 / 8
    if k < 12 then writeFrames ((o - 0x8600) / 0x80) k v s else s
  else if 0x8800 ≤ o && o < 0x8828 then writeSwap ((o - 0x8800) / 8) v s
  else if 0x8840 ≤ o && o < 0x8860 then { s with rq := s.rq.write false ((o - 0x8840) / 8) v }
  else if 0x8900 ≤ o && o < 0x8980 then writeCk ((o - 0x8900) / 8) v s
  else if 0x8A00 ≤ o && o < 0x8A20 then writeAttBase ((o - 0x8A00) / 8) v s
  else if 0x9000 ≤ o && o < 0x9100 then writeWindow ((o - 0x9000) / 16) (o % 16 == 8) v s
  else if o == 0x9100 then writePicksync v s
  else if 0x9200 ≤ o && o < 0x9220 then (if v == 1 then clearCounters ((o - 0x9200) / 8) s else s)
  else if 0xA000 ≤ o && o < 0xE000 then writePort ((o - 0xA000) / 0x2000 * 2 + 1) ((o - 0xA000) % 0x2000) v s
  else if 0x10000 ≤ o && o < 0x11800 then
    let n := (o - 0x10000) / 8
    let s := if bit v 0 then ctlPreempt n s else s
    if bit v 1 then ctlAbort n s else s
  else if o == 0x1000000 then
    (if 600 ≤ v.toNat && v.toNat ≤ 1800 then { s with host := { s.host with pwrcap := v.toNat } } else s)
  else s

/-! ### Reads of the control window (Table 19.1) -/

/-- A read of BASE, SIZE, HEAD or TAIL (number 0 to 3) of a ring; any other number reads zero. -/
def Ring.read (r : Ring) (k : Nat) : Word :=
  match k with
  | 0 => r.base | 1 => r.size | 2 => r.head | 3 => r.tail | _ => 0

/-- CORECTL.STATE (Table 19.2); a core whose halt bundle has retired reads 1 until it is freed (R414, log entry 21). -/
def RunState.ctl : RunState → Nat
  | .free => 0 | .running => 1 | .haltedDone => 1 | .haltedFault => 2 | .stopped => 3 | .disabled => 4

/-- A task record as one 256-bit word (Table 17.1). -/
def taskRecord (s : State) (die slot : Nat) : BitVec 256 :=
  let t := taskOf s die slot
  let flags := t.pflags.toNat + (if t.cancel then 16 else 0) + (if t.shedtask then 32 else 0) + (if t.batch then 64 else 0)
  BitVec.ofNat 256 ((taskId s die slot).toNat + t.parent.toNat * 2 ^ 32 + t.key.toNat * 2 ^ 64 + t.cls % 16 * 2 ^ 96
    + t.state % 16 * 2 ^ 100 + flags * 2 ^ 104 + t.pendingN % 2 ^ 16 * 2 ^ 112 + t.node.toNat * 2 ^ 128 + t.kvhead.toNat * 2 ^ 160
    + t.payload.toNat * 2 ^ 192)

/-- A checkpoint register (Table 5.7). -/
def readCk (c : Checkpoint) (k : Nat) : Word :=
  if k == 1 then BitVec.ofNat 64 (c.status % 16 + c.failPort % 16 * 16 + c.frames % 2 ^ 32 * 2 ^ 32)
  else if k == 2 then BitVec.ofNat 64 c.crcErr
  else if k < 8 then 0
  else
    let p := (k - 8) / 4
    match (k - 8) % 4 with
    | 0 => mget 0 c.base p
    | 1 => mget 0 c.size p
    | 2 => mget 0 c.head p
    | _ => mget 0 c.tail p

/-- A read in a launch port (R413): LBUF, LSTAT; that of link B of an unsplit port reads zero. -/
def readPort (s : State) (link o : Nat) : Word :=
  let p := mget {} s.host.ports link
  if !linkExists s.host link then 0
  else if o < 0x1000 then BitVec.ofNat 64 (leNat (p.buf.readN o 8))
  else if o == 0x1008 then BitVec.ofNat 64 p.stat
  else 0

/-- A read in the ring groups of a die at 0x8600; the HFR reads zero on dies 2 and 3 (Table 19.1). -/
def readFrames (s : State) (d k : Nat) : Word :=
  let x := dieOf s d
  if k < 4 then x.ffr.read k else if k < 8 then (if d < 2 then x.hfr.read (k - 4) else 0) else x.released.read (k - 8)

/-- PICKSYNC (Table 14.7). -/
def readPicksync (st : Strait) : Word :=
  BitVec.ofNat 64 (st.pickOffset.toNat + (if st.pickLocked then 2 ^ 31 else 0) + (if st.pickMaster then 2 ^ 32 else 0))

/-- What an aligned 8-byte read at an offset of the control window returns (Table 19.1, R412); an unlisted offset, and a
write-only register, reads zero. No read changes the machine. -/
def readControl (o : Nat) (s : State) : Word :=
  if o == 0 then BitVec.ofNat 64 (Config.vendorId.toNat * 2 ^ 48 + 0x7680 * 2 ^ 32 + 0xA1 * 2 ^ 24)
  else if o == 8 then BitVec.ofNat 64 s.host.boot
  else if o == 0x10 then s.host.island.setWidth 64
  else if o == 0x18 then s.host.hbmwin
  else if 0x1000 ≤ o && o < 0x5000 then readPort s ((o - 0x1000) / 0x2000 * 2) ((o - 0x1000) % 0x2000)
  else if 0x8000 ≤ o && o < 0x8020 then s.prq.read ((o - 0x8000) / 8)
  else if 0x8100 ≤ o && o < 0x8120 then s.frq.read ((o - 0x8100) / 8)
  else if 0x8200 ≤ o && o < 0x8300 then
    let d := (o - 0x8200) / 0x40
    let k := (o - 0x8200) % 0x40 / 8
    if k == 4 then (dieOf s d).errDrops else (dieOf s d).errRing.read k
  else if 0x8400 ≤ o && o < 0x8500 then (dieOf s ((o - 0x8400) / 0x40)).testLog.read ((o - 0x8400) % 0x40 / 8)
  else if 0x8600 ≤ o && o < 0x8800 then readFrames s ((o - 0x8600) / 0x80) ((o - 0x8600) % 0x80 / 8)
  else if o == 0x8800 then s.host.swapLow
  else if o == 0x8808 then s.host.swapHigh
  else if o == 0x8810 then s.host.groupTable
  else if o == 0x8818 then s.host.groupCount
  else if o == 0x8820 then BitVec.ofNat 64 s.host.rqCap
  else if 0x8840 ≤ o && o < 0x8860 then s.rq.read ((o - 0x8840) / 8)
  else if 0x8900 ≤ o && o < 0x8980 then readCk s.host.ck ((o - 0x8900) / 8)
  else if 0x8A00 ≤ o && o < 0x8A20 then BitVec.ofNat 64 (dieOf s ((o - 0x8A00) / 8)).attBase
  else if 0x9000 ≤ o && o < 0x9100 then (mget 0 s.strait.windows ((o - 0x9000) / 16)).extractLsb' (o % 16 * 8) 64
  else if o == 0x9100 then readPicksync s.strait
  else if 0xA000 ≤ o && o < 0xE000 then readPort s ((o - 0xA000) / 0x2000 * 2 + 1) ((o - 0xA000) % 0x2000)
  else if 0x10000 ≤ o && o < 0x11800 then BitVec.ofNat 64 (coreOf s ((o - 0x10000) / 8)).run.ctl * 16
  else if 0x100000 ≤ o && o < 0x900000 then
    let n := (o - 0x100000) % 0x200000
    (taskRecord s ((o - 0x100000) / 0x200000) (n / 32)).extractLsb' (8 * (n % 32)) 64
  else if o == 0x1000000 then BitVec.ofNat 64 s.host.pwrcap
  else if 0x1000008 ≤ o && o < 0x1000080 then mget 0 s.host.telemetry (o - 0x1000000)
  else 0

/-- What a link's read of n bytes of BAR0 returns, none for Unsupported Request: only an aligned read of 8 bytes answers (R411); before
READY only DEVID and BOOT do (R415), and in RECOVERY the mailbox too (R417). -/
def barRead (link o n : Nat) (s : State) : Option Word :=
  if o % 8 != 0 || n != 8 || 2 ^ 26 ≤ o || !linkExists s.host link then none
  else if (o < 0x10 && !mget false s.host.d3hot link) || barOpen s link then some (readControl o s)
  else if s.host.boot == 0xE0 then
    (if 0x2000000 ≤ o && o < 0x3000000 then some (BitVec.ofNat 64 (leNat (s.host.mailbox.readN (o - 0x2000000) 8))) else none)
  else none

/-- The image's verification begins again on what the recovery mailbox holds (R417). -/
def startRecovery (s : State) : State :=
  if s.host.boot == 0xE0 then { s with host := { s.host with boot := 2, fromMailbox := true } } else s

/-- A write in RECOVERY (R417): the mailbox and RECGO; no other offset is exposed. -/
def writeRecovery (o : Nat) (v : Word) (s : State) : State :=
  if 0x2000000 ≤ o && o < 0x3000000 then
    hostAnswer 1 0 { s with host := { s.host with mailbox := s.host.mailbox.write (o - 0x2000000) (leBytes 8 v.toNat) } }
  else if o == 0x1FFFFF8 then hostAnswer 1 0 (if v == 1 then startRecovery s else s)
  else hostAnswer 2 0 s

/-- CONTROL_REGISTER_WRITE (R411, R412): `addr` is the offset, `n` the bytes (0 stands for 8). Unsupported Request where the
access is not an aligned one of 8 bytes, or BAR0 is not served (R415, R420); a write of DEVID or BOOT, which are served in every step
after which BAR0 answers, is ignored. -/
def execControlRegisterWrite : Meaning := runM (modify fun s =>
  let o := s.input.addr.toNat
  let k := s.input.link.toNat
  if o % 8 != 0 || !(s.input.n == 0 || s.input.n == 8) || 2 ^ 26 ≤ o then hostAnswer 2 0 s
  else if o < 0x10 && linkExists s.host k && !mget false s.host.d3hot k then hostAnswer 1 0 s
  else if s.host.boot == 0xE0 && linkExists s.host k && !mget false s.host.d3hot k then writeRecovery o s.input.value s
  else if barOpen s s.input.link.toNat then writeControl o s.input.value (hostAnswer 1 0 s)
  else hostAnswer 2 0 s)

/-- CTRCLR (R412, R408): a write of 1 clears the counters of the die. -/
def execCtrclr : Meaning := barAccess (fun s => if s.input.value == 1 then clearCounters s.input.die.toNat s else s)

/-! ### BAR2 (R411) -/

/-- The physical address that a BAR2 offset reaches. -/
def barAddress (s : State) : Nat := s.host.hbmwin.toNat + s.input.addr.toNat % 2 ^ 30 / 8 * 8

/-- A BAR2 access: Unsupported Request where BARs are not served; it waits as every access at its home point does. -/
def bar2 (writes : Bool) (f : State → State) : Meaning := runM (do
  let s ← get
  if !barOpen s s.input.link.toNat then modify (hostAnswer 2 0)
  else
    sectorFree writes { host := false, addr := barAddress s, nlc := 0 }
    modify f)

/-- BAR2_READ (R411): eight bytes at the home point, untranslated (R78); no consumption. -/
def execBar2Read : Meaning := bar2 false (fun s =>
  let a := barAddress s
  let (r, s) := readSector true none 0 (a / 64) s
  hostAnswer (if r.marks.poison then 4 else 1) (BitVec.ofNat 64 (leNat (sliceBytes r.data (a % 64) 8))) s)

/-- BAR2_WRITE (R411, R78): the bytes that MASK names, under the sector's stored code, RAW when it is unwritten. -/
def execBar2Write : Meaning := bar2 true (fun s =>
  let a := barAddress s
  hostAnswer 1 0 (writeSector none (a / 64) ((s.input.mask &&& 0xFF#64) <<< (a % 64)) (placeBytes (a % 64) (leBytes 8 s.input.value.toNat)) {} s))

/-! ### Reset and bring-up (R415 to R417) -/

/-- What a loss of power or PERST# leaves (R415, R420): every register at its reset value; the fuses (port split, minimum SVN, revocation bits, key
digests), module flash, Ramrin storage (retired frames, the thermal record) and the hosts' own memory stay. -/
def resetIsland (power : Bool) (s : State) : State :=
  { State.reset with
    agenda := s.agenda, rr := s.rr, fresh := s.fresh, input := s.input, hostMem := s.hostMem, hostPoison := s.hostPoison
    dies := (s.dies.map (fun p => (p.1, { ({} : Die) with retired := p.2.retired }))).filter (fun p => p.2 ≠ {})
    host := { power := power, split := s.host.split, minSvn := s.host.minSvn, revoked := s.host.revoked, keyDigests := s.host.keyDigests, flash := s.host.flash, thermalEvents := s.host.thermalEvents } }

/-- FUNDAMENTAL_RESET (R415). -/
def execFundamentalReset : Meaning := runM (modify (resetIsland true))

/-- The image that step 2 verifies (R415, R417). -/
def bootImage (h : HostSide) : Memory := if h.fromMailbox then h.mailbox else h.flash

/-- Step 6 disables the cores that its tests find failing (R12). -/
def disableFailing (s : State) : State :=
  let bad := (List.range 768).filter (fun n => Config.coreFails s.fresh n == 1)
  bad.foldl (fun s n => withCore s n { coreOf s n with run := .disabled }) { s with fresh := s.fresh + 1 }

/-- The end of the step in progress (Table 19.3). Step 2 accepts the image or enters RECOVERY (R416, R417); an accepted image
fixes the attestation values, the debug state (bit 4 of `index`) among them (R419). -/
def bootStep (s : State) : State :=
  let h := s.host
  let go := fun (k : Nat) (s : State) => { s with host := { s.host with boot := k } }
  match h.boot with
  | 1 => go 2 s
  | 2 =>
    let img := bootImage h
    if imageAccepted h img then
      go 3 { s with
        fresh := s.fresh + 1
        host := { h with
          imageSvn := (Config.imageParts img).svn, measured := s.fresh + 1, debugOpened := s.input.index.getLsbD 4
          headerSum := headerDigest img, payloadSum := payloadDigest img } }
    else go 0xE0 s
  | 3 => go 4 { s with pick := 0 }
  | 4 => go 5 { s with host := { h with trained := (links h).foldl (fun m k => mset false m k true) [] } }
  | 5 => go 6 { s with hbm := [], sectors := [], l2 := [], blocks := [] }
  | 6 => go 7 (disableFailing { s with strait := { s.strait with mesh := [], stages := [] } })
  | 7 => go 8 { s with strait := { s.strait with islands := [] } }
  | _ => s

/-- BOOT_STEP_COMPLETE (R415). -/
def execBootStepComplete : Meaning := runM (modify bootStep)

/-- RECGO (R417). -/
def execRecgo : Meaning := runM (modify startRecovery)

/-- SVN_COMMIT (R416): only for an image that has been accepted. -/
def execSvnCommit : Meaning := runM (modify fun s =>
  let h := s.host
  if 3 ≤ h.boot && h.boot ≤ 8 && h.minSvn < h.imageSvn then { s with host := { h with minSvn := h.imageSvn } } else s)

/-- CONFIGURATION_REQUEST (R415): Retry Status until step 4 completes; the Vendor ID at register 0 (Table 19.1). -/
def execConfigurationRequest : Meaning := runM (do
  let s ← get
  if s.host.boot ≤ 4 || !linkExists s.host s.input.link.toNat then modify (hostAnswer 3 0)
  else
    let v : BitVec 64 ← freeBits 64
    modify (hostAnswer 1 (if s.input.addr == 0 then (v >>> 16 <<< 16) ||| Config.vendorId.setWidth 64 else v)))

/-- A port's PCIe state and launch port at their reset values (R415). -/
def resetLink (link : Nat) (s : State) : State :=
  let h := s.host
  { s with host := { h with
    ports := mset {} h.ports link {}, spdm := mset {} h.spdm link {}, heldSubmits := h.heldSubmits.filter (fun p => p.1 != link) } }

/-! ### Power states (R420) -/

/-- Every function of the device is in D3hot. -/
def allHot (h : HostSide) : Bool := (links h).all (fun k => mget false h.d3hot k)

/-- Every running core is stopped as under PREEMPT (R420). -/
def stopAll (s : State) : State :=
  let ns := (coreNumbers s).filter (fun n => n < 768 && (coreOf s n).run == .running && (coreOf s n).preempt.isNone)
  let s := ns.foldl (fun s n => requestPreempt n s) s
  { s with host := { s.host with d3stopped := ns } }

/-- The cores that D3hot stopped go on; a request not yet taken is withdrawn (R420). -/
def resumeAll (s : State) : State :=
  let s := s.host.d3stopped.foldl (fun s n =>
    let c := coreOf s n
    withCore s n (if c.run == .stopped then restoredCore (leafReached s n c.attrs.launch) c else { c with preempt := none })) s
  { s with host := { s.host with d3stopped := [] } }

/-- The function of a link is in D0. -/
def toD0 (link : Nat) (s : State) : State :=
  let was := allHot s.host
  let s := { s with host := { s.host with d3hot := mset false s.host.d3hot link false } }
  if was && !allHot s.host then resumeAll s else s

/-- HOT_RESET (R415): launches, memory and the other port go on. -/
def execHotReset : Meaning := runM (modify fun s => toD0 s.input.link.toNat (resetLink s.input.link.toNat s))
/-- FUNCTION_LEVEL_RESET (R415). -/
def execFunctionLevelReset : Meaning := runM (modify fun s => toD0 s.input.link.toNat (resetLink s.input.link.toNat s))

/-- D3HOT_ENTRY (R420). -/
def execD3hotEntry : Meaning := runM (modify fun s =>
  let k := s.input.link.toNat
  if !linkExists s.host k || mget false s.host.d3hot k then s
  else
    let s := { s with host := { s.host with d3hot := mset false s.host.d3hot k true } }
    if allHot s.host then stopAll s else s)
/-- D0_RETURN (R420). -/
def execD0Return : Meaning := runM (modify fun s => toD0 s.input.link.toNat s)
/-- D3COLD_ENTRY (R420): until a fundamental reset nothing runs. -/
def execD3coldEntry : Meaning := runM (modify (resetIsland false))

/-! ### Power and temperature (R421 to R423) -/

/-- POWER_THROTTLE (R421): `value` is the measured power in mW, `n` the issue cycles withheld. Clocks do not slow. -/
def execPowerThrottle : Meaning := runM (modify fun s =>
  let hot := 1000 * s.host.pwrcap < s.input.value.toNat
  { s with host := { s.host with throttled := hot, withheld := s.host.withheld + (if hot then s.input.n else 0) } })

/-- THERMAL_THROTTLE (R422): `value` is the hottest junction and `addr` the hottest HBM stack, in 0.125 °C. -/
def execThermalThrottle : Meaning := runM (modify fun s =>
  let hot := 105 * 8 ≤ s.input.value.toNat || 95 * 8 ≤ s.input.addr.toNat
  { s with host := { s.host with throttled := hot, withheld := s.host.withheld + (if hot then s.input.n else 0) } })

/-- THERMAL_SHUTDOWN (R422): at 115 °C the dies lose power, as after D3cold; Ramrin storage records it. -/
def execThermalShutdown : Meaning := runM (modify fun s =>
  if 115 * 8 ≤ s.input.value.toNat then
    resetIsland false { s with host := { s.host with thermalEvents := s.host.thermalEvents + 1 } }
  else s)

/-- TELEMETRY_REFRESH (R423): the readings at offsets 0x08 to 0x70 are free values; 0x78 counts the withheld cycles. -/
def execTelemetryRefresh : Meaning := runM (do
  let readings ← (List.range 14).mapM (fun k => do
    let v : BitVec 64 ← freeBits 64
    pure (8 * (k + 1), v))
  modHost (fun h => { h with
    telemetry := mset 0 (readings.foldl (fun m p => mset 0 m p.1 p.2) h.telemetry) 0x78 (BitVec.ofNat 64 h.withheld) }))

/-! ### Host ports and host lines (R121, R124, R410) -/

/-- PORT_DOWN (R121): the port of the event's link; its host lines leave the L2 slice. -/
def execPortDown : Meaning := runM (modify fun s =>
  let p := s.input.link.toNat / 2
  { s with
    hostLines := s.hostLines.filter (fun l => l.1 / 2 ^ 46 != p)
    host := { s.host with portsDown := mset false s.host.portsDown p true } })

/-- PORT_UP (R124). -/
def execPortUp : Meaning := runM (modify fun s =>
  { s with host := { s.host with portsDown := mset false s.host.portsDown (s.input.link.toNat / 2) false } })

/-- CXL_CACHE_SNOOP (R121): the host takes back the line of an address of the link's port, or with `ok` false checks it; a line
taken back is the host's to write: MASK and the flit's data say what it then holds. -/
def execCxlCacheSnoop : Meaning := runM (modify fun s =>
  let line := 2 ^ 46 * (s.input.link.toNat / 2) + s.input.addr.toNat % 2 ^ 52 / 64
  if !s.input.ok then s
  else
    let raw := BitVec.ofNat 512 (leNat (s.hostMem.readN (64 * line) 64))
    let v := mergeBytes s.input.mask s.input.flit.data raw
    { s with
      hostLines := mset false s.hostLines line false
      hostMem := s.hostMem.write (64 * line) (leBytes 64 v.toNat)
      hostPoison := if s.input.mask == BitVec.allOnes 64 then mset false s.hostPoison line s.input.flit.poison else s.hostPoison })

/-- CORE_DISABLE (R406, R12): once the core's launch has ended on it or its context has been saved. -/
def execCoreDisable : Meaning := runM (modify fun s =>
  let n := s.input.core
  let claimed := s.host.launches.any (fun l => !l.started && l.leaves.any (fun x => x.1 == n))
  if n < 768 && (coreOf s n).run == .free && !claimed then withCore s n { coreOf s n with run := .disabled } else s)

end Sys2Proof.Machine
end

