-- ==== Sys2Proof/Machine/NearEvents.lean ====
section
/-! DEFINITION. Events of a core's tiles, flags and control page (spec 07_onchip_map_caches R130, R131, R138, R140): a tag
wait is granted, and the writes of Table 7.2 as they arrive in the window of the core that the event names. -/

namespace Sys2Proof.Machine

/-- TAG_WAIT_GRANT (R138): the command at the head of a queue is granted the tag wait at which it stands. -/
def execTagWaitGrant : Meaning := coreEvent (do
  let s ← get
  let q := s.input.queue
  match (s.core.queue q).headCmd with
  | none => pure ()
  | some k => match k.waits with
    | none => pure ()
    | some (i, a) =>
      let ph := s.core.inPhase k
      if (s.core.queue q).held then stall .held
      else if a < 4 then
        if openFor s.core ph i && (a != 2 || firstWaiter s.core q i) then modCore (grantSource q i a) else stall .tagWait
      else if fullFor s.core ph i then stall .tagWait
      else modCore (noteGrant q i a))

/-- A write that arrives in the window of a core that exists (R127). -/
def windowEvent (f : Input → Core → Core) : Meaning := runM (modify fun s =>
  let n := s.input.core
  if n < 768 && (coreOf s n).run != .disabled then withCore s n (f s.input (coreOf s n)) else s)

/-- TAGSET (R130). -/
def execTagset : Meaning := windowEvent (fun i c => c.tagWrite true i.mask)
/-- TAGCLR (R130). -/
def execTagclr : Meaning := windowEvent (fun i c => c.tagWrite false i.mask)
/-- FLAG_VAL (R130). -/
def execFlagValWrite : Meaning := windowEvent (fun i c => c.flagVal i.index.toNat (i.value.setWidth 32))
/-- FLAG_ADD (R130). -/
def execFlagAddWrite : Meaning := windowEvent (fun i c => c.flagAdd i.index.toNat (i.value.setWidth 32))
/-- OVERRUN of a tile status word (R131). -/
def execOverrunClear : Meaning := windowEvent (fun i c => c.clearOverrun i.index.toNat)
/-- XFULL (R130): only while no launch executes on the core (R128). -/
def execXfullWrite : Meaning := windowEvent (fun i c => if c.run == .running then c else c.xfullWrite i.value)

end Sys2Proof.Machine
end

