-- ==== Sys2Proof/Machine/ShuttleInt.lean ====
section
/-! DEFINITION. The Shuttle's integer, logic, compare and predicate instructions (spec 10_shuttle R203 to R209). -/

namespace Sys2Proof.Machine

/-! ### Integer and logic (Table 10.6) -/

/-- High half of the signed product. -/
def mulHigh (n : Nat) (a b : BitVec n) : BitVec n := BitVec.ofInt n (a.toInt * b.toInt / 2 ^ n)
/-- Signed quotient truncating toward zero; all ones for B = 0; the most negative value for its quotient by −1 (R205). -/
def divS (n : Nat) (a b : BitVec n) : BitVec n := if b = 0 then BitVec.allOnes n else BitVec.ofInt n (a.toInt.tdiv b.toInt)
/-- Unsigned quotient; all ones for B = 0 (R205). -/
def divU (n : Nat) (a b : BitVec n) : BitVec n := if b = 0 then BitVec.allOnes n else BitVec.ofNat n (a.toNat / b.toNat)
/-- Signed remainder with the sign of the dividend; A for B = 0 (R205). -/
def remS (n : Nat) (a b : BitVec n) : BitVec n := if b = 0 then a else BitVec.ofInt n (a.toInt.tmod b.toInt)
/-- Leading zeros. -/
def leadZeros (n : Nat) (a : BitVec n) : BitVec n := BitVec.ofNat n (if a = 0 then n else n - 1 - Nat.log2 a.toNat)
/-- Set bits. -/
def popCount (n : Nat) (a : BitVec n) : BitVec n := BitVec.ofNat n ((List.range n).countP (fun i => bit a i))
/-- Signed minimum. -/
def minS (n : Nat) (a b : BitVec n) : BitVec n := if b.slt a then b else a
/-- Signed maximum. -/
def maxS (n : Nat) (a b : BitVec n) : BitVec n := if a.slt b then b else a

/-- ADD (R203). -/
def execAdd (f : SA) : Meaning := runM (saResult f (wide f.w (· + ·) (· + ·)))
/-- SUB (R203). -/
def execSub (f : SA) : Meaning := runM (saResult f (wide f.w (· - ·) (· - ·)))
/-- MUL (R203). -/
def execMul (f : SA) : Meaning := runM (saResult f (wide f.w (· * ·) (· * ·)))
/-- MULH (R203). -/
def execMulh (f : SA) : Meaning := runM (saResult f (wide f.w (mulHigh 64) (mulHigh 32)))
/-- DIV (R205). -/
def execDiv (f : SA) : Meaning := runM (saLater f (wide f.w (divS 64) (divS 32)))
/-- DIVU (R205). -/
def execDivu (f : SA) : Meaning := runM (saLater f (wide f.w (divU 64) (divU 32)))
/-- REM (R205). -/
def execRem (f : SA) : Meaning := runM (saLater f (wide f.w (remS 64) (remS 32)))
/-- AND (R203). -/
def execAnd (f : SA) : Meaning := runM (saResult f (wide f.w (· &&& ·) (· &&& ·)))
/-- OR (R203). -/
def execOr (f : SA) : Meaning := runM (saResult f (wide f.w (· ||| ·) (· ||| ·)))
/-- XOR (R203). -/
def execXor (f : SA) : Meaning := runM (saResult f (wide f.w (· ^^^ ·) (· ^^^ ·)))
/-- SHL: by B[5:0], or B[4:0] (R203). -/
def execShl (f : SA) : Meaning := runM (saResult f (wide f.w (fun a b => a <<< bits b 5 0) (fun a b => a <<< bits b 4 0)))
/-- SHR, logical (R203). -/
def execShr (f : SA) : Meaning := runM (saResult f (wide f.w (fun a b => a >>> bits b 5 0) (fun a b => a >>> bits b 4 0)))
/-- SAR, arithmetic (R203). -/
def execSar (f : SA) : Meaning := runM (saResult f (wide f.w (fun a b => a.sshiftRight (bits b 5 0)) (fun a b => a.sshiftRight (bits b 4 0))))
/-- CLZ (R203). -/
def execClz (f : SA) : Meaning := runM (saResult1 f (fun a => wide f.w (fun a _ => leadZeros 64 a) (fun a _ => leadZeros 32 a) a 0))
/-- POPC (R203). -/
def execPopc (f : SA) : Meaning := runM (saResult1 f (fun a => wide f.w (fun a _ => popCount 64 a) (fun a _ => popCount 32 a) a 0))
/-- MIN, signed (R203). -/
def execMin (f : SA) : Meaning := runM (saResult f (wide f.w (minS 64) (minS 32)))
/-- MAX, signed (R203). -/
def execMax (f : SA) : Meaning := runM (saResult f (wide f.w (maxS 64) (maxS 32)))
/-- SEL: X[a] when the guard is true, X[b] otherwise (R204). -/
def execSel (f : SA) : Meaning := runM (do
  awaitDest f.d
  let (a, b) ← SA.ab f
  let s ← get
  writeX f.d (if guardTrue s.core.sh f.p f.n then a else b))

/-! ### Immediates (R206, R207) -/

/-- ADDI (R206). -/
def execAddi (f : SI) : Meaning := runM (siResult f (· + ·))
/-- ANDI (R206). -/
def execAndi (f : SI) : Meaning := runM (siResult f (· &&& ·))
/-- ORI (R206). -/
def execOri (f : SI) : Meaning := runM (siResult f (· ||| ·))
/-- XORI (R206). -/
def execXori (f : SI) : Meaning := runM (siResult f (· ^^^ ·))
/-- SHLI (R206). -/
def execShli (f : SI) : Meaning := runM (siResult f (fun a i => a <<< i.toNat))
/-- SHRI (R206). -/
def execShri (f : SI) : Meaning := runM (siResult f (fun a i => a >>> i.toNat))
/-- SARI (R206). -/
def execSari (f : SI) : Meaning := runM (siResult f (fun a i => a.sshiftRight i.toNat))
/-- LI: the immediate or the literal (R207). -/
def execLi (f : SL) : Meaning := runM (do
  awaitDest f.d
  writeX f.d f.value)
/-- ADDPC: the bundle's address plus the byte offset (R207). -/
def execAddpc (f : SL) : Meaning := runM (do
  awaitDest f.d
  let s ← get
  writeX f.d (s.core.sh.pc + f.value))

/-! ### Compares and predicates (R208, R209) -/

/-- The 64-bit comparison, or with w = 1 that of bits 31:0 (R208). -/
def wideCmp (w : Bool) (op64 : Word → Word → Bool) (op32 : BitVec 32 → BitVec 32 → Bool) (a b : Word) : Bool :=
  if w then op32 (a.setWidth 32) (b.setWidth 32) else op64 a b

/-- CEQ (R208). -/
def execCeq (f : SA) : Meaning := runM (saCompare f (wideCmp f.w (· == ·) (· == ·)))
/-- CLT, signed (R208). -/
def execClt (f : SA) : Meaning := runM (saCompare f (wideCmp f.w (·.slt ·) (·.slt ·)))
/-- CLTU, unsigned (R208). -/
def execCltu (f : SA) : Meaning := runM (saCompare f (wideCmp f.w (·.ult ·) (·.ult ·)))
/-- CEQI (R208). -/
def execCeqi (f : SI) : Meaning := runM (do
  let a ← readX false f.a
  writeP f.d (a == f.value))
/-- CLTI, signed (R208). -/
def execClti (f : SI) : Meaning := runM (do
  let a ← readX false f.a
  writeP f.d (a.slt f.value))

/-- A predicate instruction on two predicates (R209). -/
def predResult (f : SA) (op : Bool → Bool → Bool) : M Unit := do
  let s ← get
  writeP f.d (op (s.core.sh.pred f.a.toNat) (s.core.sh.pred f.b.toNat))

/-- PAND (R209). -/
def execPand (f : SA) : Meaning := runM (predResult f (· && ·))
/-- POR (R209). -/
def execPor (f : SA) : Meaning := runM (predResult f (· || ·))
/-- PXOR (R209). -/
def execPxor (f : SA) : Meaning := runM (predResult f (· != ·))
/-- MOVP: the predicate zero-extended (R209). -/
def execMovp (f : SA) : Meaning := runM (do
  awaitDest f.d
  let s ← get
  writeX f.d (if s.core.sh.pred f.a.toNat then 1 else 0))
/-- PSET (R209). -/
def execPset (f : SA) : Meaning := runM (do
  let a ← readX f.t f.a
  writeP f.d (a != 0))

end Sys2Proof.Machine
end

