-- ==== Sys2Proof/Machine/Spdm.lean ====
section
/-! DEFINITION. Attestation (spec 19_host_bringup R418, R419): the SPDM responder behind the DOE mailbox of each link. The
message codes and field values are those of SPDM 1.3, which R418 names. -/

namespace Sys2Proof.Machine

/-- Answer the request of a link: its transcript before, and the transcript after with the response. The mailbox answers once
configuration space is available (R415). -/
def spdmAnswer (f : State → Spdm → Spdm) : Meaning := runM (modify fun s =>
  let k := s.input.link.toNat
  if s.host.boot ≤ 4 || !linkExists s.host k then hostAnswer 3 0 s
  else { s with host := { s.host with spdm := mset {} s.host.spdm k (f s (mget {} s.host.spdm k)) } })

/-- A response by its code, which enters the transcript. -/
def Spdm.respond (t : Spdm) (code : Nat) (v : BitVec 1536) : Spdm := { t with code := code, answer := v, transcript := t.transcript + 1 }
/-- ERROR with a code of SPDM: 1 invalid request, 4 unexpected request. -/
def Spdm.error (t : Spdm) (e : Nat) : Spdm := { t with code := 0x7F, answer := BitVec.ofNat 1536 e }

/-- GET_VERSION (R418): SPDM 1.3; a new transcript begins. -/
def execGetVersion : Meaning := spdmAnswer (fun _ _ => ({ version := true } : Spdm).respond 0x04 0x1300)

/-- GET_CAPABILITIES (R418): certificates, CHALLENGE and signed measurements; no secure session. -/
def execGetCapabilities : Meaning := spdmAnswer (fun _ t =>
  if t.version then ({ t with caps := true }).respond 0x61 0x16 else t.error 4)

/-- NEGOTIATE_ALGORITHMS (R418): ECDSA P-384 (0x80, in bits 63:32) and SHA-384 (0x02, in bits 31:0). -/
def execNegotiateAlgorithms : Meaning := spdmAnswer (fun _ t =>
  if t.version && t.caps then ({ t with algs := true }).respond 0x63 0x8000000002 else t.error 4)

/-- A request that follows the negotiation. -/
def Spdm.ready (t : Spdm) (f : Spdm) : Spdm := if t.version && t.caps && t.algs then f else t.error 4

/-- GET_DIGESTS (R418): the digest of the chain in slot 0. -/
def execGetDigests : Meaning := spdmAnswer (fun s t => t.ready (t.respond 0x01 ((Config.certificateDigest s.host.measured).setWidth 1536)))

/-- GET_CERTIFICATE (R418): `index` is the slot, `addr` the offset in the chain. -/
def execGetCertificate : Meaning := spdmAnswer (fun s t => t.ready (
  if s.input.index == 0 then t.respond 0x02 ((Config.certificate s.host.measured s.input.addr.toNat).setWidth 1536) else t.error 1))

/-- CHALLENGE (R418): the signature over the transcript and the nonce by the derived leaf key. -/
def execChallenge : Meaning := spdmAnswer (fun s t => t.ready (
  if s.input.index == 0 then t.respond 0x03 ((Config.signature s.host.measured t.transcript s.input.nonce).setWidth 1536) else t.error 1))

/-- A measurement block (Table 19.4): 1 to 5 fixed at step 2, the digests of the payload and the header among them; 6 the debug
state. -/
def measurementBlock (s : State) (i : Nat) : BitVec 384 :=
  if i == 6 then (if s.host.debugOpened then 1 else 0)
  else if i == 2 then BitVec.ofNat 384 (leNat s.host.payloadSum)
  else if i == 3 then BitVec.ofNat 384 (leNat s.host.headerSum)
  else Config.measurement s.host.measured i

/-- GET_MEASUREMENTS (R419): block `index` in bits 383:0 (index 0 asks how many there are), signed in bits 1535:768. -/
def execGetMeasurements : Meaning := spdmAnswer (fun s t => t.ready (
  let i := s.input.index.toNat
  let sig : BitVec 1536 := (Config.signature s.host.measured t.transcript s.input.nonce).setWidth 1536 <<< 768
  if i == 0 then t.respond 0x60 (sig ||| 6)
  else if i ≤ 6 then t.respond 0x60 (sig ||| (measurementBlock s i).setWidth 1536)
  else t.error 1))

end Sys2Proof.Machine
end

