-- ==== Sys2Proof/Machine/Dispatch.lean ====
section
/-! DEFINITION. The dispatch: one arm for each constructor of `Instr`, each one direct call of its meaning. -/

namespace Sys2Proof.Machine

/-- What an instruction, or an event, does to a state. -/
def exec (i : Instr) (s : State) : Host.Outcome State Fault Refusal :=
  match i with
  | .add f => Sys2Proof.Machine.execAdd f s
  | .sub f => Sys2Proof.Machine.execSub f s
  | .mul f => Sys2Proof.Machine.execMul f s
  | .mulh f => Sys2Proof.Machine.execMulh f s
  | .div f => Sys2Proof.Machine.execDiv f s
  | .divu f => Sys2Proof.Machine.execDivu f s
  | .rem f => Sys2Proof.Machine.execRem f s
  | .and f => Sys2Proof.Machine.execAnd f s
  | .or f => Sys2Proof.Machine.execOr f s
  | .xor f => Sys2Proof.Machine.execXor f s
  | .shl f => Sys2Proof.Machine.execShl f s
  | .shr f => Sys2Proof.Machine.execShr f s
  | .sar f => Sys2Proof.Machine.execSar f s
  | .clz f => Sys2Proof.Machine.execClz f s
  | .popc f => Sys2Proof.Machine.execPopc f s
  | .min f => Sys2Proof.Machine.execMin f s
  | .max f => Sys2Proof.Machine.execMax f s
  | .sel f => Sys2Proof.Machine.execSel f s
  | .addi f => Sys2Proof.Machine.execAddi f s
  | .andi f => Sys2Proof.Machine.execAndi f s
  | .ori f => Sys2Proof.Machine.execOri f s
  | .xori f => Sys2Proof.Machine.execXori f s
  | .shli f => Sys2Proof.Machine.execShli f s
  | .shri f => Sys2Proof.Machine.execShri f s
  | .sari f => Sys2Proof.Machine.execSari f s
  | .li f => Sys2Proof.Machine.execLi f s
  | .addpc f => Sys2Proof.Machine.execAddpc f s
  | .ceq f => Sys2Proof.Machine.execCeq f s
  | .clt f => Sys2Proof.Machine.execClt f s
  | .cltu f => Sys2Proof.Machine.execCltu f s
  | .ceqi f => Sys2Proof.Machine.execCeqi f s
  | .clti f => Sys2Proof.Machine.execClti f s
  | .pand f => Sys2Proof.Machine.execPand f s
  | .por f => Sys2Proof.Machine.execPor f s
  | .pxor f => Sys2Proof.Machine.execPxor f s
  | .movp f => Sys2Proof.Machine.execMovp f s
  | .pset f => Sys2Proof.Machine.execPset f s
  | .fadd f => Sys2Proof.Machine.execFadd f s
  | .fsub f => Sys2Proof.Machine.execFsub f s
  | .fmul f => Sys2Proof.Machine.execFmul f s
  | .fdiv f => Sys2Proof.Machine.execFdiv f s
  | .fsqrt f => Sys2Proof.Machine.execFsqrt f s
  | .fma f => Sys2Proof.Machine.execFma f s
  | .fmin f => Sys2Proof.Machine.execFmin f s
  | .fmax f => Sys2Proof.Machine.execFmax f s
  | .fceq f => Sys2Proof.Machine.execFceq f s
  | .fclt f => Sys2Proof.Machine.execFclt f s
  | .fcvti f => Sys2Proof.Machine.execFcvti f s
  | .fcvtf f => Sys2Proof.Machine.execFcvtf f s
  | .fkey f => Sys2Proof.Machine.execFkey f s
  | .ldb f => Sys2Proof.Machine.execLdb f s
  | .ldbu f => Sys2Proof.Machine.execLdbu f s
  | .ldh f => Sys2Proof.Machine.execLdh f s
  | .ldhu f => Sys2Proof.Machine.execLdhu f s
  | .ldw f => Sys2Proof.Machine.execLdw f s
  | .ldwu f => Sys2Proof.Machine.execLdwu f s
  | .ldd f => Sys2Proof.Machine.execLdd f s
  | .stb f => Sys2Proof.Machine.execStb f s
  | .sth f => Sys2Proof.Machine.execSth f s
  | .stw f => Sys2Proof.Machine.execStw f s
  | .std f => Sys2Proof.Machine.execStd f s
  | .ldblk f => Sys2Proof.Machine.execLdblk f s
  | .pref f => Sys2Proof.Machine.execPref f s
  | .ldn f => Sys2Proof.Machine.execLdn f s
  | .stn f => Sys2Proof.Machine.execStn f s
  | .aadd f => Sys2Proof.Machine.execAadd f s
  | .aand f => Sys2Proof.Machine.execAand f s
  | .aor f => Sys2Proof.Machine.execAor f s
  | .axor f => Sys2Proof.Machine.execAxor f s
  | .amin f => Sys2Proof.Machine.execAmin f s
  | .amax f => Sys2Proof.Machine.execAmax f s
  | .aswap f => Sys2Proof.Machine.execAswap f s
  | .acas f => Sys2Proof.Machine.execAcas f s
  | .afadd f => Sys2Proof.Machine.execAfadd f s
  | .br f => Sys2Proof.Machine.execBr f s
  | .call f => Sys2Proof.Machine.execCall f s
  | .jr f => Sys2Proof.Machine.execJr f s
  | .callr f => Sys2Proof.Machine.execCallr f s
  | .ret f => Sys2Proof.Machine.execRet f s
  | .loop f => Sys2Proof.Machine.execLoop f s
  | .trap f => Sys2Proof.Machine.execTrap f s
  | .bind f => Sys2Proof.Machine.execBind f s
  | .unbind f => Sys2Proof.Machine.execUnbind f s
  | .acq f => Sys2Proof.Machine.execAcq f s
  | .rel f => Sys2Proof.Machine.execRel f s
  | .acqAll f => Sys2Proof.Machine.execAcqAll f s
  | .relAll f => Sys2Proof.Machine.execRelAll f s
  | .mfence f => Sys2Proof.Machine.execMfence f s
  | .flagw f => Sys2Proof.Machine.execFlagw f s
  | .flagadd f => Sys2Proof.Machine.execFlagadd f s
  | .flagr f => Sys2Proof.Machine.execFlagr f s
  | .spawn f => Sys2Proof.Machine.execSpawn f s
  | .take f => Sys2Proof.Machine.execTake f s
  | .takeW f => Sys2Proof.Machine.execTakeW f s
  | .done f => Sys2Proof.Machine.execDone f s
  | .cancel f => Sys2Proof.Machine.execCancel f s
  | .repri f => Sys2Proof.Machine.execRepri f s
  | .join f => Sys2Proof.Machine.execJoin f s
  | .tstat f => Sys2Proof.Machine.execTstat f s
  | .tkv f => Sys2Proof.Machine.execTkv f s
  | .hcfg f => Sys2Proof.Machine.execHcfg f s
  | .hflush f => Sys2Proof.Machine.execHflush f s
  | .hstat f => Sys2Proof.Machine.execHstat f s
  | .nalloc f => Sys2Proof.Machine.execNalloc f s
  | .nfree f => Sys2Proof.Machine.execNfree f s
  | .nld f => Sys2Proof.Machine.execNld f s
  | .nst f => Sys2Proof.Machine.execNst f s
  | .nvloss f => Sys2Proof.Machine.execNvloss f s
  | .nback f => Sys2Proof.Machine.execNback f s
  | .srd f => Sys2Proof.Machine.execSrd f s
  | .swr f => Sys2Proof.Machine.execSwr f s
  | .tlbinv f => Sys2Proof.Machine.execTlbinv f s
  | .tlbinva f => Sys2Proof.Machine.execTlbinva f s
  | .ctxsave f => Sys2Proof.Machine.execCtxsave f s
  | .ctxload f => Sys2Proof.Machine.execCtxload f s
  | .launch f => Sys2Proof.Machine.execLaunch f s
  | .phaseB f => Sys2Proof.Machine.execPhaseB f s
  | .phaseC f => Sys2Proof.Machine.execPhaseC f s
  | .phaseX f => Sys2Proof.Machine.execPhaseX f s
  | .rte f => Sys2Proof.Machine.execRte f s
  | .pick f => Sys2Proof.Machine.execPick f s
  | .rtdrain f => Sys2Proof.Machine.execRtdrain f s
  | .rtset f => Sys2Proof.Machine.execRtset f s
  | .rtfence f => Sys2Proof.Machine.execRtfence f s
  | .vshape f => Sys2Proof.Machine.execVshape f s
  | .vrot f => Sys2Proof.Machine.execVrot f s
  | .vadv f => Sys2Proof.Machine.execVadv f s
  | .rep f => Sys2Proof.Machine.execRep f s
  | .vsets f => Sys2Proof.Machine.execVsets f s
  | .vcnt f => Sys2Proof.Machine.execVcnt f s
  | .vadd f => Sys2Proof.Machine.execVadd f s
  | .vsub f => Sys2Proof.Machine.execVsub f s
  | .vmul f => Sys2Proof.Machine.execVmul f s
  | .vfma f => Sys2Proof.Machine.execVfma f s
  | .vmin f => Sys2Proof.Machine.execVmin f s
  | .vmax f => Sys2Proof.Machine.execVmax f s
  | .vabs f => Sys2Proof.Machine.execVabs f s
  | .vneg f => Sys2Proof.Machine.execVneg f s
  | .vdiv f => Sys2Proof.Machine.execVdiv f s
  | .vand f => Sys2Proof.Machine.execVand f s
  | .vor f => Sys2Proof.Machine.execVor f s
  | .vxor f => Sys2Proof.Machine.execVxor f s
  | .vshl f => Sys2Proof.Machine.execVshl f s
  | .vshr f => Sys2Proof.Machine.execVshr f s
  | .vsar f => Sys2Proof.Machine.execVsar f s
  | .vcmpeq f => Sys2Proof.Machine.execVcmpeq f s
  | .vcmplt f => Sys2Proof.Machine.execVcmplt f s
  | .vcmple f => Sys2Proof.Machine.execVcmple f s
  | .vsel f => Sys2Proof.Machine.execVsel f s
  | .vadds f => Sys2Proof.Machine.execVadds f s
  | .vmuls f => Sys2Proof.Machine.execVmuls f s
  | .vfmas f => Sys2Proof.Machine.execVfmas f s
  | .vexp2 f => Sys2Proof.Machine.execVexp2 f s
  | .vlog2 f => Sys2Proof.Machine.execVlog2 f s
  | .vrcp f => Sys2Proof.Machine.execVrcp f s
  | .vrsqrt f => Sys2Proof.Machine.execVrsqrt f s
  | .vtanh f => Sys2Proof.Machine.execVtanh f s
  | .vsinpi f => Sys2Proof.Machine.execVsinpi f s
  | .vcospi f => Sys2Proof.Machine.execVcospi f s
  | .vrsum f => Sys2Proof.Machine.execVrsum f s
  | .vrmax f => Sys2Proof.Machine.execVrmax f s
  | .vrmin f => Sys2Proof.Machine.execVrmin f s
  | .vscan f => Sys2Proof.Machine.execVscan f s
  | .vtopk f => Sys2Proof.Machine.execVtopk f s
  | .vargmax f => Sys2Proof.Machine.execVargmax f s
  | .vcvt f => Sys2Proof.Machine.execVcvt f s
  | .vcvtsr f => Sys2Proof.Machine.execVcvtsr f s
  | .vqmx f => Sys2Proof.Machine.execVqmx f s
  | .vdqmx f => Sys2Proof.Machine.execVdqmx f s
  | .vldt f => Sys2Proof.Machine.execVldt f s
  | .vstt f => Sys2Proof.Machine.execVstt f s
  | .vperm f => Sys2Proof.Machine.execVperm f s
  | .vtrans f => Sys2Proof.Machine.execVtrans f s
  | .vbcast f => Sys2Proof.Machine.execVbcast f s
  | .vgath f => Sys2Proof.Machine.execVgath f s
  | .vmov f => Sys2Proof.Machine.execVmov f s
  | .mcfg f => Sys2Proof.Machine.execMcfg f s
  | .mgo f => Sys2Proof.Machine.execMgo f s
  | .mjoin f => Sys2Proof.Machine.execMjoin f s
  | .mdesc f => Sys2Proof.Machine.execMdesc f s
  | .munf f => Sys2Proof.Machine.execMunf f s
  | .mout f => Sys2Proof.Machine.execMout f s
  | .msave f => Sys2Proof.Machine.execMsave f s
  | .mload f => Sys2Proof.Machine.execMload f s
  | .mzero f => Sys2Proof.Machine.execMzero f s
  | .mstat f => Sys2Proof.Machine.execMstat f s
  | .mclrf f => Sys2Proof.Machine.execMclrf f s
  | .dcfg f => Sys2Proof.Machine.execDcfg f s
  | .dkey f => Sys2Proof.Machine.execDkey f s
  | .dctr f => Sys2Proof.Machine.execDctr f s
  | .dctrr f => Sys2Proof.Machine.execDctrr f s
  | .dgram f => Sys2Proof.Machine.execDgram f s
  | .dsamp f => Sys2Proof.Machine.execDsamp f s
  | .dclus f => Sys2Proof.Machine.execDclus f s
  | .daccept f => Sys2Proof.Machine.execDaccept f s
  | .dargmax f => Sys2Proof.Machine.execDargmax f s
  | .fld f => Sys2Proof.Machine.execFld f s
  | .fldp f => Sys2Proof.Machine.execFldp f s
  | .fst f => Sys2Proof.Machine.execFst f s
  | .fstp f => Sys2Proof.Machine.execFstp f s
  | .ftt f => Sys2Proof.Machine.execFtt f s
  | .fttp f => Sys2Proof.Machine.execFttp f s
  | .fbb f => Sys2Proof.Machine.execFbb f s
  | .fswp f => Sys2Proof.Machine.execFswp f s
  | .fswi f => Sys2Proof.Machine.execFswi f s
  | .ffill f => Sys2Proof.Machine.execFfill f s
  | .fnear f => Sys2Proof.Machine.execFnear f s
  | .fred f => Sys2Proof.Machine.execFred f s
  | .fpbinv f => Sys2Proof.Machine.execFpbinv f s
  | .fwp f => Sys2Proof.Machine.execFwp f s
  | .gkv f => Sys2Proof.Machine.execGkv f s
  | .gapp f => Sys2Proof.Machine.execGapp f s
  | .gemb f => Sys2Proof.Machine.execGemb f s
  | .gref f => Sys2Proof.Machine.execGref f s
  | .gcow f => Sys2Proof.Machine.execGcow f s
  | .gscore f => Sys2Proof.Machine.execGscore f s
  | .gcompact f => Sys2Proof.Machine.execGcompact f s
  | .gtrunc f => Sys2Proof.Machine.execGtrunc f s
  | .glen f => Sys2Proof.Machine.execGlen f s
  | .gbminv f => Sys2Proof.Machine.execGbminv f s
  | .gfree f => Sys2Proof.Machine.execGfree f s
  | .galloc f => Sys2Proof.Machine.execGalloc f s
  | .bundleFetchDecode => Sys2Proof.Machine.execBundleFetchDecode s
  | .waitBundle => Sys2Proof.Machine.execWaitBundle s
  | .timedBundle => Sys2Proof.Machine.execTimedBundle s
  | .haltBundle => Sys2Proof.Machine.execHaltBundle s
  | .longLatencyResult => Sys2Proof.Machine.execLongLatencyResult s
  | .replyQueueEntryArrival => Sys2Proof.Machine.execReplyQueueEntryArrival s
  | .replyBufferRelease => Sys2Proof.Machine.execReplyBufferRelease s
  | .srctrVstatQueueEntry => Sys2Proof.Machine.execSrctrVstatQueueEntry s
  | .tagWaitGrant => Sys2Proof.Machine.execTagWaitGrant s
  | .tagset => Sys2Proof.Machine.execTagset s
  | .tagclr => Sys2Proof.Machine.execTagclr s
  | .flagValWrite => Sys2Proof.Machine.execFlagValWrite s
  | .flagAddWrite => Sys2Proof.Machine.execFlagAddWrite s
  | .overrunClear => Sys2Proof.Machine.execOverrunClear s
  | .xfullWrite => Sys2Proof.Machine.execXfullWrite s
  | .pageRequestMapped => Sys2Proof.Machine.execPageRequestMapped s
  | .pageRequestRefused => Sys2Proof.Machine.execPageRequestRefused s
  | .migrationBringIn => Sys2Proof.Machine.execMigrationBringIn s
  | .swapOutPage => Sys2Proof.Machine.execSwapOutPage s
  | .requantEntry => Sys2Proof.Machine.execRequantEntry s
  | .patrolScrubSector => Sys2Proof.Machine.execPatrolScrubSector s
  | .linkCalibration => Sys2Proof.Machine.execLinkCalibration s
  | .wearRefresh => Sys2Proof.Machine.execWearRefresh s
  | .selfTestComplete => Sys2Proof.Machine.execSelfTestComplete s
  | .rowSparing => Sys2Proof.Machine.execRowSparing s
  | .frameRetirement => Sys2Proof.Machine.execFrameRetirement s
  | .checkpointStart => Sys2Proof.Machine.execCheckpointStart s
  | .restoreStart => Sys2Proof.Machine.execRestoreStart s
  | .checkpointAbort => Sys2Proof.Machine.execCheckpointAbort s
  | .checkpointQuiesced => Sys2Proof.Machine.execCheckpointQuiesced s
  | .checkpointFrameWrite => Sys2Proof.Machine.execCheckpointFrameWrite s
  | .restoreFrameRecord => Sys2Proof.Machine.execRestoreFrameRecord s
  | .launchPortSubmit => Sys2Proof.Machine.execLaunchPortSubmit s
  | .launchStart => Sys2Proof.Machine.execLaunchStart s
  | .launchCompletion => Sys2Proof.Machine.execLaunchCompletion s
  | .corectlPreempt => Sys2Proof.Machine.execCorectlPreempt s
  | .corectlAbort => Sys2Proof.Machine.execCorectlAbort s
  | .preemptionTaken => Sys2Proof.Machine.execPreemptionTaken s
  | .preemptionWindowExpiry => Sys2Proof.Machine.execPreemptionWindowExpiry s
  | .phaseBMarkerPass => Sys2Proof.Machine.execPhaseBMarkerPass s
  | .phaseCommit => Sys2Proof.Machine.execPhaseCommit s
  | .mfenceJoin => Sys2Proof.Machine.execMfenceJoin s
  | .nestComplete => Sys2Proof.Machine.execNestComplete s
  | .jointJoinForm => Sys2Proof.Machine.execJointJoinForm s
  | .jointWindowExpiry => Sys2Proof.Machine.execJointWindowExpiry s
  | .handlerEntry => Sys2Proof.Machine.execHandlerEntry s
  | .read => Sys2Proof.Machine.execRead s
  | .readData => Sys2Proof.Machine.execReadData s
  | .write => Sys2Proof.Machine.execWrite s
  | .writeAck => Sys2Proof.Machine.execWriteAck s
  | .atomic => Sys2Proof.Machine.execAtomic s
  | .atomicData => Sys2Proof.Machine.execAtomicData s
  | .tileWrite => Sys2Proof.Machine.execTileWrite s
  | .msg => Sys2Proof.Machine.execMsg s
  | .nack => Sys2Proof.Machine.execNack s
  | .time => Sys2Proof.Machine.execTime s
  | .mgmt => Sys2Proof.Machine.execMgmt s
  | .flitRetransmit => Sys2Proof.Machine.execFlitRetransmit s
  | .straitLaneSelfTestTrigger => Sys2Proof.Machine.execStraitLaneSelfTestTrigger s
  | .straitChannelStop => Sys2Proof.Machine.execStraitChannelStop s
  | .timeSendInterval => Sys2Proof.Machine.execTimeSendInterval s
  | .picksyncLockLoss => Sys2Proof.Machine.execPicksyncLockLoss s
  | .picksyncStep => Sys2Proof.Machine.execPicksyncStep s
  | .routeDrainComplete => Sys2Proof.Machine.execRouteDrainComplete s
  | .routeDrainTimeout => Sys2Proof.Machine.execRouteDrainTimeout s
  | .shedWindowExpiry => Sys2Proof.Machine.execShedWindowExpiry s
  | .shedForm => Sys2Proof.Machine.execShedForm s
  | .taskFree => Sys2Proof.Machine.execTaskFree s
  | .takeWTimeout => Sys2Proof.Machine.execTakeWTimeout s
  | .joinComplete => Sys2Proof.Machine.execJoinComplete s
  | .pinReleasePush => Sys2Proof.Machine.execPinReleasePush s
  | .powerThrottle => Sys2Proof.Machine.execPowerThrottle s
  | .thermalThrottle => Sys2Proof.Machine.execThermalThrottle s
  | .thermalShutdown => Sys2Proof.Machine.execThermalShutdown s
  | .telemetryRefresh => Sys2Proof.Machine.execTelemetryRefresh s
  | .fundamentalReset => Sys2Proof.Machine.execFundamentalReset s
  | .bootStepComplete => Sys2Proof.Machine.execBootStepComplete s
  | .recgo => Sys2Proof.Machine.execRecgo s
  | .svnCommit => Sys2Proof.Machine.execSvnCommit s
  | .configurationRequest => Sys2Proof.Machine.execConfigurationRequest s
  | .hotReset => Sys2Proof.Machine.execHotReset s
  | .functionLevelReset => Sys2Proof.Machine.execFunctionLevelReset s
  | .d3hotEntry => Sys2Proof.Machine.execD3hotEntry s
  | .d0Return => Sys2Proof.Machine.execD0Return s
  | .d3coldEntry => Sys2Proof.Machine.execD3coldEntry s
  | .bar2Read => Sys2Proof.Machine.execBar2Read s
  | .bar2Write => Sys2Proof.Machine.execBar2Write s
  | .controlRegisterWrite => Sys2Proof.Machine.execControlRegisterWrite s
  | .ctrclr => Sys2Proof.Machine.execCtrclr s
  | .getVersion => Sys2Proof.Machine.execGetVersion s
  | .getCapabilities => Sys2Proof.Machine.execGetCapabilities s
  | .negotiateAlgorithms => Sys2Proof.Machine.execNegotiateAlgorithms s
  | .getDigests => Sys2Proof.Machine.execGetDigests s
  | .getCertificate => Sys2Proof.Machine.execGetCertificate s
  | .challenge => Sys2Proof.Machine.execChallenge s
  | .getMeasurements => Sys2Proof.Machine.execGetMeasurements s
  | .portDown => Sys2Proof.Machine.execPortDown s
  | .portUp => Sys2Proof.Machine.execPortUp s
  | .completionTimeout => Sys2Proof.Machine.execCompletionTimeout s
  | .cxlCacheSnoop => Sys2Proof.Machine.execCxlCacheSnoop s
  | .coreDisable => Sys2Proof.Machine.execCoreDisable s

end Sys2Proof.Machine
end

