-- ==== Sys2Proof/Machine/Arrays.lean ====
section
/-! DEFINITION. The on-chip arrays (spec 18_faults_reliability R403, R405): what an error that a read of an array meets does,
whom a self-test of an array holds; and the turns of the world outside that are no events of the opcode table. -/

namespace Sys2Proof.Machine

/-! ### Detection (R403, R405) -/

/-- The die of an array error. -/
def ArrayError.home (e : ArrayError) : Nat := if e.unit == 6 || e.unit == 7 || e.unit == 8 then e.die % 4 else dieOfCore e.core % 4

/-- LOCATION of an array error's subarray (Table 18.9): 4 KiB of the near map; none in arrays that the near map does not hold (log
entry 64). -/
def ArrayError.location (e : ArrayError) : Nat :=
  if e.unit == 6 || e.unit == 7 || e.unit == 8 then e.home * 2 ^ 38
  else e.core * 2 ^ 30 + (if e.unit ≤ 3 then e.at' / 4096 * 4096 else 0)

/-- Every detection starts the self-test of its array; a failing cell makes it LASTING (R405). -/
def detectArray (e : ArrayError) (s : State) : State :=
  let p := (e.unit, e.location)
  let s := if e.cell && !s.failing.contains p then { s with failing := s.failing ++ [p] } else s
  startTest e.unit e.location e.home [e.at'] (s.failing.contains p) s

/-- A detection in an array whose words SEC-DED protects, counted as corrected or uncorrectable (Table 18.7). -/
def detectWord (e : ArrayError) (s : State) : State := detectArray e (addCounter e.home (if e.uncorrectable then 7 else 6) 1 s)

/-! ### Uncorrectable outcomes (Table 18.6) -/

/-- The opcode of an engine command. -/
def opcodeOf (i : Instr) : Nat := ((encode i).headD 0).toNat / 2 ^ 24

/-- The fault of a command that meets an uncorrectable word: word 4 holds the unit and the location as Table 18.9 places them
(log entry 64). -/
def sramFault (e : ArrayError) (c : FaultCode) (q : Queue) (opc : Nat) (s : State) : FaultInfo :=
  { code := c, engine := engineOf q, opc := opc, action := .hold q,
    addr := if e.unit ≤ 3 then BitVec.ofNat 64 (e.core * 2 ^ 20 + e.at' % 2 ^ 20) else 0,
    w4 := BitVec.ofNat 64 (e.unit * 2 ^ 56 + e.location), w5 := s.pick }

/-- SRAM_UE at the command at the head of a queue, which is held; a nest that runs outside a phase stands at its head again. -/
def sramHold (e : ArrayError) (q : Queue) (s : State) : State :=
  let c := coreOf s e.core
  let c := match q, c.mat.nest with
    | .matrix, some n => if n.joint then c else undoNest n c
    | _, _ => c
  match (c.queue q).headCmd with
  | some k => faultOn e.core (sramFault e .sramUe q (opcodeOf k.instr) s) (withCore s e.core c)
  | none => s

/-- An uncorrectable word met inside a phase cancels it as a consumed E2, and counts toward ECOUNT; at the limit the phase is
abandoned, and the detail word of MEM_E2, for which no memory error record exists, is free (R401, R403). -/
def sramCancel (e : ArrayError) (q : Queue) (s : State) : State :=
  let c := coreOf s e.core
  if c.sh.eretry.toNat ≤ c.sh.ecount.toNat then
    let opc := (((c.queue q).headCmd.or (c.mat.nest.map (·.cmd))).map (fun k => opcodeOf k.instr)).getD 0
    faultOn e.core { sramFault e .memE2 q opc s with action := .abandon, w4 := Config.freeValue 64 s.fresh } { s with fresh := s.fresh + 1 }
  else cancelPhase (.e2 [(e.unit, e.location)]) (switchTo s e.core)

/-- The engine of a queue executes a phase on a core. -/
def inPhaseOf (c : Core) (q : Queue) : Bool := c.ph.exec.any (fun e => e.has q)

/-- An entry of a queue, a TLB or a cache whose parity fails (unit 10). -/
def parityEntry (e : ArrayError) (s : State) : State :=
  let c := coreOf s e.core
  match e.sub with
  | 0 => match allQueues[e.at']? with
    | some q => if (c.queue q).headCmd.isSome then sramHold e q (detectArray e (addCounter e.home 7 1 s)) else s
    | none => s
  | 1 => detectArray e (withCore s e.core { c with tlb := c.tlb.eraseIdx e.at' })
  | 2 => detectArray e (withCore s e.core { c with stlb := c.stlb.eraseIdx e.at' })
  | 3 => detectArray e (withDie s e.home { dieOf s e.home with walk := (dieOf s e.home).walk.eraseIdx e.at' })
  | 4 => detectArray e (withCore s e.core { c with bmc := c.bmc.eraseIdx e.at' })
  | _ => detectArray e (withCore s e.core { c with pbc := c.pbc.eraseIdx e.at' })

/-- An error that a read of an on-chip array meets (R403). -/
def arrayError (e : ArrayError) (s : State) : State :=
  let c := coreOf s e.core
  match e.unit with
  | 1 =>
    if 0x40000 ≤ e.at' then s
    else
      let s := detectWord e s
      if !e.uncorrectable then s
      else
        let mk : Marks := { c.tiles.mark (e.at' / 64) with poison := true, log := Config.freeValue 64 s.fresh, found := s.pick }
        withCore { s with fresh := s.fresh + 1 } e.core
          { c with tiles := { c.tiles with marks := mset {} c.tiles.marks (e.at' / 64) mk } }
  | 2 =>
    if e.at' < 0x40000 || 0x80000 ≤ e.at' then s
    else if !e.uncorrectable then detectWord e s
    else if inPhaseOf c .matrix && e.at' < 0x52000 then sramCancel e .matrix (detectWord e s)
    else sramHold e .matrix (detectWord e s)
  | 3 =>
    if e.at' < 0x80000 || 0x90000 ≤ e.at' then s
    else if !e.uncorrectable then detectWord e s
    else if inPhaseOf c .vector then sramCancel e .vector (detectWord e s)
    else sramHold e .vector (detectWord e s)
  | 4 =>
    if c.l1d.any (fun x => x.key == e.at') then
      detectArray e (addCounter e.home 4 1 (withCore s e.core { c with l1d := c.l1d.filter (fun x => x.key != e.at') }))
    else s
  | 5 =>
    if c.l1i.any (fun x => x.key == e.at') then
      detectArray e (addCounter e.home 4 1 (withCore s e.core { c with l1i := c.l1i.filter (fun x => x.key != e.at') }))
    else s
  | 6 => match homeLine s e.at' with
    | some l =>
      let flips := if e.uncorrectable then [e.sub % 512, e.sub % 512 / 64 * 64 + (e.sub + 1) % 64] else [e.sub % 512]
      let p := (6, homeDie (64 * e.at') * 2 ^ 38)
      let s := if e.cell && !s.failing.contains p then { s with failing := s.failing ++ [p] } else s
      { s with l2 := mset none s.l2 e.at' (some { l with flips := (l.flips ++ flips).eraseDups }) }
    | none => s
  | 7 =>
    let s := detectWord e s
    if e.uncorrectable then withDie s e.home { dieOf s e.home with nodesOff := mset false (dieOf s e.home).nodesOff e.at' true } else s
  | 8 =>
    let s := detectWord e s
    if e.uncorrectable then withDie s e.home { dieOf s e.home with slotsOff := mset false (dieOf s e.home).slotsOff e.at' true } else s
  | 10 => parityEntry e s
  | _ => s

/-! ### Whom the self-test of an array holds (Table 18.8) -/

/-- A self-test of a core's array runs, from the tick after its detection on. -/
def arrayTested (s : State) (n unit : Nat) : Bool :=
  s.selfTests.any (fun t => t.since != s.pick && t.unit == unit && t.location / 2 ^ 30 == n)

/-- The engine of a queue owns an array under test: the scratchpad and the queues are every engine's (log entry 64). -/
def arraysTested (s : State) (n : Nat) (q : Queue) : Bool :=
  arrayTested s n 1 || arrayTested s n 10 || (q == .matrix && arrayTested s n 2) || (q == .vector && arrayTested s n 3)

/-- The Shuttle owns an array under test: its caches and its TLB. -/
def shuttleTested (s : State) (n : Nat) : Bool := arrayTested s n 4 || arrayTested s n 5 || arrayTested s n 10

/-! ### The world outside -/

/-- A number in a list, or out of it. -/
def toggle (n : Nat) (l : List Nat) : List Nat := if l.contains n then l.erase n else l ++ [n]

/-- A bit of a sector that HBM stores flips, for good where its cell fails. -/
def flipBit (sec bit : Nat) (cell : Bool) (s : State) : State :=
  let m := mget {} s.sectors sec
  if m.code.isNone || memEnd ≤ 64 * sec then s
  else
    let m' : SectorMeta := if cell then { m with cells := (m.cells ++ [bit]).eraseDups } else { m with flips := toggle bit m.flips }
    { s with sectors := mset {} s.sectors sec m' }

/-- What the world outside does beside the events of the opcode table. -/
def outsideEffect (u : Outside) (s : State) : State :=
  match u with
  | .flip sec bit cell => flipBit sec bit cell s
  | .array e => if e.core < 768 then arrayError e s else s
  | .prefetch b => describeBlock b s

end Sys2Proof.Machine
end

