-- ==== Sys2Proof/Machine/Schedule.lean ====
section
/-! DEFINITION. Whose turn it is (the model's own order, which the spec leaves open; log entry 2), and what a turn leaves
after its instruction: the next lane, the next bundle, the popped queue entry (spec 02_bundles_and_encodings R25 to R28,
16_execution_scheduling R354). -/

namespace Sys2Proof.Machine

/-! ### The Shuttle's turn -/

/-- The lane that the Shuttle takes next in its decoded bundle. -/
def nextSlot (h : Shuttle) : Option Slot := (bufferOf h).slots.find? (fun x => h.lane ≤ x.lane)

/-- What the Shuttle does at its decoded bundle: a condition or the halt (an event), a lane of its own, a push, or
nothing. -/
inductive ShuttleAct where
  | gate (i : Instr)
  | lane (i : Instr)
  | push (q : Queue) (i : Instr)
  | none
deriving DecidableEq, Repr

/-- The next act at a decoded bundle (R21 to R25). -/
def shuttleAct (h : Shuttle) : ShuttleAct :=
  let b := bufferOf h
  if b.kind == 3 then .gate .haltBundle
  else if h.lane < 2 && !h.ready && b.kind == 1 then .gate .waitBundle
  else if h.lane < 2 && !h.ready && b.kind == 2 then .gate .timedBundle
  else match nextSlot h with
    | some x => match x.queue with
      | some q => .push q x.instr
      | Option.none => .lane x.instr
    | Option.none => .none

/-- The first lane after a slot and its literals. -/
def laneAfter (h : Shuttle) : Nat :=
  match nextSlot h with
  | some x => x.lane + (encode x.instr).length
  | none => h.lane

/-- Lane 7 has been taken: the branch target, or the next bundle (R26). -/
def endBundle (h : Shuttle) : Shuttle :=
  { h with pc := h.target.getD (h.pc + 32), lane := 0, buf := none, ready := false, target := none }

/-- Move past lanes that hold nothing more to take. -/
def settleBundle (h : Shuttle) : Shuttle :=
  if (nextSlot h).isNone && h.buf.any (fun b => b.kind == 0 || (b.kind != 3 && (h.ready || 2 ≤ h.lane))) then endBundle h else h

/-- After a lane or a push: the next lane, when it completed and the Shuttle still stands at its bundle; `before` is the
Shuttle as it was. -/
def afterLane (before : Shuttle) (c : Core) : Core :=
  if c.ended == .done && c.sh.buf.isSome && c.run == .running then
    { c with sh := settleBundle { c.sh with lane := laneAfter { c.sh with lane := before.lane } } }
  else c

/-- After a fetch or a condition. -/
def afterGate (c : Core) : Core :=
  if c.ended == .done && c.run == .running then { c with sh := settleBundle c.sh } else c

/-! ### An engine's turn -/

/-- The command is set aside at its head inside a phase (R160, R181). -/
def setsAside (q : Queue) (i : Instr) : Bool :=
  match q, i with
  | .ferryStore, _ => true
  | .gather, .gkv _ => false
  | .gather, .gemb _ => false
  | .gather, .glen _ => false
  | .gather, .gbminv _ => false
  | .gather, _ => true
  | _, _ => false

/-- Pop the head of a queue whose command has completed: inside the executing phase the entry is kept (R354), and the
stream position rises for each command executed (R28). -/
def popHead (q : Queue) (c : Core) : Core :=
  let v := c.queue q
  match v.entries with
  | .cmd k :: rest =>
    if k.orphan then c.setQueue q { v with entries := rest } else
    let inside := c.ph.exec.any (fun e => e.has q) && !k.deferred
    let counts := if inside then !setsAside q k.instr else !(k.deferred && q == .vector)
    settleFlags (c.setQueue q { v with
      entries := rest
      kept := if inside then v.kept ++ [.cmd k] else v.kept
      pos := if counts then v.pos + 1 else v.pos })
  | _ => c

/-- After an engine command. -/
def afterEngine (q : Queue) (c : Core) : Core := if c.ended == .done then popHead q c else c

/-! ### Candidates -/

/-- An event about a core. -/
def coreTurn (i : Instr) (n : Nat) : Turn := .event i { core := n }

/-- An engine may not go on with the head of its queue: held by a fault (Table 18.5), behind a cancel that has still to rewind (R402), with
a self-test of its arrays (Table 18.8), or on a core that a pre-emption request stops, but for a gather command past its head (R182,
R364). -/
def engineStopped (s : State) (n : Nat) (q : Queue) : Bool :=
  let c := coreOf s n
  let past := (c.queue q).headCmd.any (fun k => k.orphan || (q == .gather && k.past))
  (c.queue q).held || arraysTested s n q
    || (!past && (c.ph.exec.any (fun e => (e.rewind || e.parked) && e.has q) || (c.preempt.isSome && phaseless c)))

/-- The turn that the head of an engine queue asks for, if any. -/
def engineTurn (s : State) (n : Nat) (c : Core) (q : Queue) : List Turn :=
  if !(c.queue q).ending.isEmpty then [.engine n q]
  else if engineStopped s n q then []
  else match (c.queue q).entries with
    | .cmd _ :: _ => [.engine n q]
    | .phaseB id :: _ => if earlierGone c id then [.event .phaseBMarkerPass { core := n, queue := q }] else []
    | .srd _ _ :: _ => [.event .srctrVstatQueueEntry { core := n }]
    | .swr _ _ :: _ => [.event .srctrVstatQueueEntry { core := n }]
    | _ => []

/-- A pending result that can be delivered, or an access that can be performed again. -/
def resultTurns (n : Nat) (c : Core) : List Turn :=
  (List.range c.sh.pending.length).filterMap (fun i => match c.sh.pending[i]? with
    | some p => if (p.ready && p.fault.isNone) || (!p.ready && p.redo.isSome && !p.phase.any (phaseWaits c)) then
        some (.event .longLatencyResult { core := n, n := i }) else none
    | none => none)

/-- The turns of one core. -/
def coreTurns (s : State) (n : Nat) : List Turn :=
  let c := coreOf s n
  let live := c.run == .running || c.run == .haltedFault
  (if c.run == .running && c.preempt.isNone then [.shuttle n] else [])
    ++ (if live then allQueues.flatMap (engineTurn s n c) else [])
    ++ (if live then resultTurns n c else [])
    ++ (if c.sh.heldReplies.isEmpty then [] else [coreTurn .replyQueueEntryArrival n])
    ++ (if c.outbuf.any (fun r => !r.2) then [coreTurn .replyBufferRelease n] else [])
    ++ (if c.mat.nest.isSome && !c.mq.held then [coreTurn .nestComplete n] else [])
    ++ (if c.mat.arrival.isSome then [coreTurn .jointJoinForm n, coreTurn .jointWindowExpiry n]
        else if c.mat.nest.any (·.joint) then [coreTurn .jointWindowExpiry n] else [])
    ++ (if c.ph.exec.any (·.atC.isSome) then [coreTurn .jointWindowExpiry n] else [])
    ++ (if readyToCommit c then [coreTurn .phaseCommit n] else [])
    ++ (if fenceReady c then [coreTurn .mfenceJoin n] else [])
    ++ (if c.preempt.isSome || !c.saver.isEmpty then [coreTurn .preemptionTaken n, coreTurn .preemptionWindowExpiry n] else [])

/-- The turns of launches. -/
def launchTurns (s : State) : List Turn :=
  s.host.launches.flatMap (fun l =>
    if !l.started then [.event .launchStart { n := l.number }]
    else if l.leaves.all (fun x => x.2.isSome) then [.event .launchCompletion { n := l.number }] else [])

/-- The turns of memory: self-tests, bring-ins, requantisations, swaps and the replay of logged writes. -/
def memoryTurns (s : State) : List Turn :=
  (List.range s.selfTests.length).map (fun i => .event .selfTestComplete { n := i })
    ++ (nextBringIns s).map (fun i => .event .migrationBringIn { n := i })
    ++ (if s.rq.head != s.rq.tail || s.copies.any (fun c => c.kind == 0) then [.event .requantEntry {}] else [])
    ++ ((List.range 4).filter (swapDue s)).map (fun d => .event .swapOutPage { die := BitVec.ofNat 2 d })
    ++ ((coreNumbers s).filter (· < 768)).flatMap (fun n => (replayDue s n).map (fun p =>
        .event .pageRequestMapped { core := n, value := BitVec.ofNat 64 (p.2 * 2 ^ 16 + p.1 * 2 ^ 4) }))

/-- The turns of the Loom and the Heddle. -/
def loomTurns (s : State) : List Turn :=
  let dies := (List.range 4).flatMap (fun d =>
    let x := dieOf s d
    let at' := fun (i : Instr) (k : Nat) => Turn.event i { die := BitVec.ofNat 2 d, n := k }
    (x.sheds.map (·.1)).flatMap (fun k => [at' .shedWindowExpiry k, at' .shedForm k])
      ++ (x.tasks.filter (fun t => t.2.state == 6 || t.2.state == 7)).map (fun t => at' .taskFree t.1)
      ++ (List.range x.pinned.length).map (fun k => at' .pinReleasePush k))
  dies ++ (List.range s.takes.length).map (fun i => .event .takeWTimeout { n := i })
    ++ (List.range s.joins.length).map (fun i => .event .joinComplete { n := i })

/-- The turns of the Strait: requests that failed at this island, and an ending drain. -/
def straitTurns (s : State) : List Turn :=
  (s.strait.waiting.filter (fun r => r.done && r.fail.isSome && r.delivered)).map
      (fun r => .event .nack { flit := { tag := BitVec.ofNat 32 r.tag } })
    ++ (s.loomWaits.filter (fun w => w.fail.isSome)).map (fun w => .event .nack { flit := { tag := BitVec.ofNat 32 w.tag } })
    ++ (if s.strait.routing == .draining then [.event .routeDrainComplete {}, .event .routeDrainTimeout {}] else [])
    ++ (if s.strait.lastSend + 65536 ≤ s.pick.toNat then [.event .timeSendInterval {}] else [])
    ++ (if s.strait.pickLocked then [.event .picksyncLockLoss {}] else [])

/-- The turns of the host side: bring-up and a checkpoint or restore in progress. -/
def hostTurns (s : State) : List Turn :=
  let ck := s.host.ck.status % 16
  (if 1 ≤ s.host.boot && s.host.boot < 8 then [.event .bootStepComplete { n := s.host.minSvn }] else [])
    ++ (if ck == 1 then [.event .checkpointQuiesced {}] else [])
    ++ (if ck == 2 then [.event .checkpointFrameWrite {}] else [])
    ++ (if ck == 3 then [.event .restoreFrameRecord { n := 0 }, .event .restoreFrameRecord { n := 1 }] else [])

/-- Every turn that something in the state asks for. -/
def candidates (s : State) : List Turn :=
  ((coreNumbers s).filter (· < 768)).flatMap (coreTurns s) ++ launchTurns s ++ memoryTurns s ++ loomTurns s ++ straitTurns s
    ++ hostTurns s

/-- A turn's place in the rotation: its kind, then its core or die, then what else tells it apart. -/
def turnKey : Turn → Nat
  | .shuttle n => n
  | .engine n q => 2 ^ 16 + 8 * n + q.ctorIdx
  | .event i inp => (i.ctorIdx + 2) * 2 ^ 160 + (4 * inp.core + inp.die.toNat) * 2 ^ 128 + inp.value.toNat * 2 ^ 64
      + inp.flit.tag.toNat + 8 * inp.n + inp.queue.ctorIdx
  | .outside _ => 2 ^ 17

/-- The turn of the lowest key. -/
def lowestTurn (cs : List Turn) : Option Turn :=
  cs.foldl (fun a t => match a with
    | none => some t
    | some x => if turnKey t < turnKey x then some t else some x) none

/-- The next turn: the agenda's head, else the candidates in rotation, so that none of them is passed over (log entry 2). -/
def nextTurn (s : State) : Option (Turn × State) :=
  match s.agenda with
  | t :: rest => some (t, { s with agenda := rest })
  | [] =>
    let cs := candidates s
    match (lowestTurn (cs.filter (fun t => s.rr ≤ turnKey t))).or (lowestTurn cs) with
    | some t => some (t, { s with rr := turnKey t + 1 })
    | none => none

/-- The pick clock after one step (R14, log entry 2); it slews towards the master's by 0 or 2 on one tick in 256 (R319). -/
def tick (s : State) : State :=
  let st := s.strait
  let off := st.slew.toInt
  if st.pickMaster || off == 0 || s.pick.toNat < st.slewAt then { s with pick := s.pick + 1 }
  else
    let next := if off < 0 then s.pick + 2 else s.pick
    { s with
      pick := next
      strait := { st with slew := BitVec.ofInt 16 (if off < 0 then off + 1 else off - 1), slewAt := next.toNat + 256 } }

/-- What one turn asks `step` to do: an instruction with what follows it on the core whose turn it is; a push; nothing. -/
inductive Work where
  | fetch (s : State)
  | gate (i : Instr) (s : State)
  | lane (i : Instr) (s : State)
  | push (q : Queue) (i : Instr) (s : State)
  | engine (q : Queue) (i : Instr) (s : State)
  | event (i : Instr) (s : State)
  | rest (s : State)
deriving DecidableEq, Repr

/-- The Shuttle stands at the lane that it takes next (R28): lanes with no instruction are passed. -/
def atLane (s : State) : State :=
  { s with core := { s.core with sh := { s.core.sh with lane := ((nextSlot s.core.sh).map (·.lane)).getD s.core.sh.lane } } }

/-- The work at a decoded bundle. -/
def bundleWork (s : State) : Work :=
  match shuttleAct s.core.sh with
  | .gate i => .gate i s
  | .lane i => .lane i (atLane s)
  | .push q i => .push q i (atLane s)
  | .none => .rest { s with core := { s.core with sh := settleBundle s.core.sh, ended := .done } }

/-- The work of a turn. -/
def workOf (t : Turn) (s : State) : Work :=
  match t with
  | .shuttle n =>
    let s := switchTo s n
    if s.core.run != .running || s.core.preempt.isSome || shuttleTested s n then .rest { s with core := { s.core with ended := .idle } }
    else if s.core.sh.buf.isNone then .fetch s else bundleWork s
  | .engine n q =>
    let s := switchTo s n
    let s := settleEnding q (s.core.queue q).ending.length s
    match (s.core.queue q).headCmd with
    | some c => if engineStopped s n q then .rest { s with core := { s.core with ended := .stalled .held } } else .engine q c.instr s
    | none => .rest { s with core := { s.core with ended := .idle } }
  | .event i inp => .event i { s with input := inp }
  | .outside u => .rest (outsideEffect u s)

/-- Change the core of a next state. -/
def onNext (f : Core → Core) : Host.Outcome State Fault Refusal → Host.Outcome State Fault Refusal
  | .next s => .next { s with core := f s.core }
  | o => o

/-- Only a fundamental reset acts without power (R422). -/
def needsPower : Turn → Bool
  | .event .fundamentalReset _ => false
  | .outside _ => false
  | _ => true

/-! ### Placing an instruction for the next step -/

/-- The tables of the placed program: level 3 at 0x8000, level 2 at 0x10000, one 256 MiB leaf of code 0 with R, W, X, A
and D at virtual and physical address 0 (R104, R105). -/
def placedTables (s : State) : State :=
  devWrite 16 0x10000 (leBytes 8 0x00000000000000FD) (devWrite 16 0x8000 (leBytes 8 0x0000000000010001) s)

/-- A launch's attributes with every right. -/
def placedAttrs : Attrs := { launch := 1, tbase := 0x8000, rights := 0x3F }

/-- A bundle of kind 0 whose lane 1 holds a word under a tag. -/
def placedBundle (tag : Nat) (w : LaneWord) : List Byte := leBytes 4 (16 * tag) ++ leBytes 4 w.toNat ++ List.replicate 24 0

/-- The state with a Shuttle lane as the next bundle of core 0. -/
def placeShuttle (w : LaneWord) (s : State) : State :=
  let s := switchTo s 0
  let s := devWrite 0 0x20000 (placedBundle 1 w) (placedTables s)
  { s with
    core := { s.core with run := .running, attrs := placedAttrs, sh := { s.core.sh with pc := 0x20000, lane := 0, buf := none } }
    agenda := [.shuttle 0] }

/-- The state with an engine lane as the head of its queue on core 0. -/
def placeEngine (q : Queue) (i : Instr) (s : State) : State :=
  let s := placedTables (switchTo s 0)
  let c := { s.core with run := .running, attrs := placedAttrs }
  { s with core := c.setQueue q { entries := [.cmd { instr := i }] }, agenda := [.engine 0 q] }

end Sys2Proof.Machine
end

