-- ==== Sys2Proof/Machine/Step.lean ====
section
/-! DEFINITION. One step of the island, and the placing of one instruction for the next step. -/

namespace Sys2Proof.Machine

/-- Do the work of a turn. -/
def doWork : Work → Host.Outcome State Fault Refusal
  | .fetch s =>
    match exec .bundleFetchDecode s with
    | .next s' =>
      if s'.core.sh.buf.isNone then .next s'
      else match bundleWork s' with
        | .gate i t => onNext afterGate (exec i t)
        | .lane i t => onNext (afterLane t.core.sh) (exec i t)
        | .push q i t => onNext (afterLane t.core.sh) (runM (pushLane q i) t)
        | .rest t => .next t
        | _ => .next s'
    | o => o
  | .gate i s => onNext afterGate (exec i s)
  | .lane i s => onNext (afterLane s.core.sh) (exec i s)
  | .push q i s => onNext (afterLane s.core.sh) (runM (pushLane q i) s)
  | .engine q i s => onNext (afterEngine q) (exec i s)
  | .event i s => exec i s
  | .rest s => .next s

/-- One step: the pick clock advances, and one turn is taken. -/
def step (s : State) : Host.Outcome State Fault Refusal :=
  match nextTurn s with
  | none => .next (tick s)
  | some (t, s) => if !s.host.power && needsPower t then .fault .noPower else doWork (workOf t (tick s))

/-- The state with one instruction placed where `step` takes its next one: a Shuttle lane in the next bundle of core 0, an
engine lane at the head of its queue. -/
def State.withFetchWord (s : State) (nbits w : Nat) : State :=
  if nbits == 32 then
    match decodeAny (BitVec.ofNat 32 w) with
    | some (e, i) => match queueOfEng e with
      | none => placeShuttle (BitVec.ofNat 32 w) s
      | some q => placeEngine q i s
    | none => placeShuttle (BitVec.ofNat 32 w) s
  else s

end Sys2Proof.Machine
end

