-- ==== Sys2Proof/Safety.lean ====
section
/-! DEFINITION. What counts as a safe state and a safe step. -/

namespace Sys2Proof.Machine

/-- Device memory, host memory and every core's window are in canonical form. -/
def State.MemWf (s : State) : Prop := s.hbm.wf ∧ s.hostMem.wf ∧ s.core.win.wf ∧ ∀ p ∈ s.others, p.2.win.wf

/-- A step answers a next state. -/
def Proceeds (s : State) : Prop := ∃ t, step s = .next t

end Sys2Proof.Machine
end

