-- ==== Sys2Proof/Certificates/Slice0/Obligations.lean ====
section
/-! DEFINITION. The statements for the provers, from the spec's numbered rules. -/

namespace Sys2Proof.Claims
open Sys2Proof.Machine

/-! ### Vocabulary -/

/-- Reading source register r of a Shuttle `h` gives `v` and leaves `h'` (R195, R197, R199): x62 pops the oldest entry of the
reply queue, x0 reads zero, a FULL register keeps its value. -/
def Reads (r : BitVec 6) (h h' : Shuttle) (v : Word) : Prop :=
  (r = 62 ∧ ∃ e, h.replies = e :: h'.replies ∧ v = e.value ∧ h' = { h with replies := h'.replies }) ∨
  (r = 0 ∧ v = 0 ∧ h' = h) ∨
  (r ≠ 62 ∧ r ≠ 0 ∧ bit h.empty r.toNat = false ∧ v = mget 0 h.x r.toNat ∧ h' = h)

/-- A destination that does not stall (R197): x0, or a FULL register. -/
def Free (r : BitVec 6) (h : Shuttle) : Prop := r = 0 ∨ bit h.empty r.toNat = false

/-- The lane completed, and of the whole state only the Shuttle changed. -/
def onlySh (s : State) (h : Shuttle) : State := { s with core := { s.core with sh := h, ended := .done } }

/-- Register d takes v and becomes FULL; x0 discards it (R195, R196). -/
def put (h : Shuttle) (d : BitVec 6) (v : Word) : Shuttle :=
  if d = 0 then h else { h with x := mset 0 h.x d.toNat v, empty := setBit h.empty d.toNat false }

/-- A result becomes outstanding for its destination, which is EMPTY until it arrives; with x0 nothing is marked (R196). -/
def outstanding (h : Shuttle) (p : Pending) : Shuttle :=
  { h with
    empty := if p.d = 0 then h.empty else setBit h.empty p.d.toNat true
    pending := h.pending ++ [{ p with bundle := h.pc, lane := h.lane }] }

/-- The outstanding result of a long-latency instruction that needs no answer from elsewhere. -/
def putLater (h : Shuttle) (d : BitVec 6) (v : Word) : Shuttle := outstanding h { d := d, value := v }

/-- Predicate d takes b. -/
def putP (h : Shuttle) (d : BitVec 6) (b : Bool) : Shuttle := { h with p := setBit h.p d.toNat b }

/-- FSTAT takes more sticky flags (R200). -/
def sticky (h : Shuttle) (fl : FFlags) : Shuttle := { h with fstat := h.fstat ||| fl.bits.setWidth 5 }

/-- The 64-bit form, or with w = 1 the 32-bit form sign-extended (R203). -/
def forms (w : Bool) (r64 : Word) (r32 : BitVec 32) : Word := if w then r32.signExtend 64 else r64

/-- A lane that waits for its destination, reads a and then b, and leaves the Shuttle that `after` gives. -/
def TwoSources (i : Instr) (d a b : BitVec 6) (after : Shuttle → Word → Word → Shuttle) : Prop :=
  ∀ (s : State) (h1 h2 : Shuttle) (x y : Word), Free d s.core.sh → Reads a s.core.sh h1 x → Reads b h1 h2 y →
    exec i s = .next (onlySh s (after h2 x y))

/-- A lane that waits for its destination and reads a only. -/
def OneSource (i : Instr) (d a : BitVec 6) (after : Shuttle → Word → Shuttle) : Prop :=
  ∀ (s : State) (h1 : Shuttle) (x : Word), Free d s.core.sh → Reads a s.core.sh h1 x → exec i s = .next (onlySh s (after h1 x))

/-- A lane that reads a and then b and writes no x register. -/
def TwoReads (i : Instr) (a b : BitVec 6) (after : Shuttle → Word → Word → Shuttle) : Prop :=
  ∀ (s : State) (h1 h2 : Shuttle) (x y : Word), Reads a s.core.sh h1 x → Reads b h1 h2 y → exec i s = .next (onlySh s (after h2 x y))

/-- A lane that reads a only and writes no x register. -/
def OneRead (i : Instr) (a : BitVec 6) (after : Shuttle → Word → Shuttle) : Prop :=
  ∀ (s : State) (h1 : Shuttle) (x : Word), Reads a s.core.sh h1 x → exec i s = .next (onlySh s (after h1 x))

/-- The lane's word, with its guard fields legal, raises ILLEGAL_OP at its decode (R24). -/
def IllegalField (e : Eng) (i : Instr) : Prop :=
  i.guardOk = true → decodeLane e (encodeWord i) (litsOf i) = .error .illegalOp

/-- Leading zeros of a value. -/
def leading (n : Nat) (v : BitVec n) : Nat := ((List.range n).takeWhile (fun i => !v.getLsbD (n - 1 - i))).length
/-- Set bits of a value. -/
def ones (n : Nat) (v : BitVec n) : Nat := ((List.range n).filter (fun i => v.getLsbD i)).length

/-- The immediate of an SI or SL lane: the field sign-extended, or the literal, one lane sign-extended or two (R19, R206). -/
def immediate {n : Nat} (own : BitVec n) : Lit → Word
  | .none => own.signExtend 64
  | .one l => l.signExtend 64
  | .two v => v

/-- The guard of a lane is true (R201): the predicate, p0 reading 1, xor the negate bit. -/
def Guard (h : Shuttle) (p : BitVec 3) (n : Bool) : Bool := (p == 0 || h.p.getLsbD p.toNat) ^^ n

/-- A predicate as a source: p0 reads 1 (R195). -/
def predicate (h : Shuttle) (a : BitVec 6) : Bool := a == 0 || h.p.getLsbD a.toNat

end Sys2Proof.Claims

open Sys2Proof Sys2Proof.Machine Sys2Proof.Claims

/-! ### The Shuttle's integer lanes -/

/-- R203, R204: each SA integer instruction of Table 10.6 but the divisions writes its result, in the 64-bit or the 32-bit form,
to xd, and changes nothing else but the reply queue entries that a source x62 pops. -/
def Sys2Proof.Claims.IntegerResults : Prop := ∀ f : SA,
  TwoSources (.add f) f.d f.a f.b (fun h x y => put h f.d (forms f.w (x + y) (x.setWidth 32 + y.setWidth 32))) ∧
  TwoSources (.sub f) f.d f.a f.b (fun h x y => put h f.d (forms f.w (x - y) (x.setWidth 32 - y.setWidth 32))) ∧
  TwoSources (.mul f) f.d f.a f.b (fun h x y => put h f.d (forms f.w (x * y) (x.setWidth 32 * y.setWidth 32))) ∧
  TwoSources (.mulh f) f.d f.a f.b (fun h x y => put h f.d (forms f.w ((x.signExtend 128 * y.signExtend 128).extractLsb' 64 64)
    (((x.setWidth 32).signExtend 64 * (y.setWidth 32).signExtend 64).extractLsb' 32 32))) ∧
  TwoSources (.and f) f.d f.a f.b (fun h x y => put h f.d (forms f.w (x &&& y) (x.setWidth 32 &&& y.setWidth 32))) ∧
  TwoSources (.or f) f.d f.a f.b (fun h x y => put h f.d (forms f.w (x ||| y) (x.setWidth 32 ||| y.setWidth 32))) ∧
  TwoSources (.xor f) f.d f.a f.b (fun h x y => put h f.d (forms f.w (x ^^^ y) (x.setWidth 32 ^^^ y.setWidth 32))) ∧
  TwoSources (.shl f) f.d f.a f.b (fun h x y =>
    put h f.d (forms f.w (x <<< (y.toNat % 64)) (x.setWidth 32 <<< (y.toNat % 32)))) ∧
  TwoSources (.shr f) f.d f.a f.b (fun h x y =>
    put h f.d (forms f.w (x >>> (y.toNat % 64)) (x.setWidth 32 >>> (y.toNat % 32)))) ∧
  TwoSources (.sar f) f.d f.a f.b (fun h x y =>
    put h f.d (forms f.w (x.sshiftRight (y.toNat % 64)) ((x.setWidth 32).sshiftRight (y.toNat % 32)))) ∧
  TwoSources (.min f) f.d f.a f.b (fun h x y => put h f.d (forms f.w (if x.toInt ≤ y.toInt then x else y)
    (if (x.setWidth 32).toInt ≤ (y.setWidth 32).toInt then x.setWidth 32 else y.setWidth 32))) ∧
  TwoSources (.max f) f.d f.a f.b (fun h x y => put h f.d (forms f.w (if x.toInt ≤ y.toInt then y else x)
    (if (x.setWidth 32).toInt ≤ (y.setWidth 32).toInt then y.setWidth 32 else x.setWidth 32))) ∧
  OneSource (.clz f) f.d f.a (fun h x => put h f.d (if f.w then BitVec.ofNat 64 (leading 32 (x.setWidth 32))
    else BitVec.ofNat 64 (leading 64 x))) ∧
  OneSource (.popc f) f.d f.a (fun h x => put h f.d (if f.w then BitVec.ofNat 64 (ones 32 (x.setWidth 32))
    else BitVec.ofNat 64 (ones 64 x))) ∧
  TwoSources (.sel f) f.d f.a f.b (fun h x y => put h f.d (if Guard h f.p f.n then x else y))

/-- R196, R205: a division is long-latency: it marks xd EMPTY, and the result outstanding for it truncates toward zero, is all
ones for a division by zero and the dividend for its remainder; the most negative value divided by −1 is itself. -/
def Sys2Proof.Claims.DivisionResults : Prop := ∀ f : SA,
  TwoSources (.div f) f.d f.a f.b (fun h x y => putLater h f.d (forms f.w
    (if y = 0 then BitVec.allOnes 64 else x.sdiv y)
    (if y.setWidth 32 = 0#32 then BitVec.allOnes 32 else (x.setWidth 32).sdiv (y.setWidth 32)))) ∧
  TwoSources (.divu f) f.d f.a f.b (fun h x y => putLater h f.d (forms f.w
    (if y = 0 then BitVec.allOnes 64 else x.udiv y)
    (if y.setWidth 32 = 0#32 then BitVec.allOnes 32 else (x.setWidth 32).udiv (y.setWidth 32)))) ∧
  TwoSources (.rem f) f.d f.a f.b (fun h x y => putLater h f.d (forms f.w
    (if y = 0 then x else x.srem y)
    (if y.setWidth 32 = 0#32 then x.setWidth 32 else (x.setWidth 32).srem (y.setWidth 32))))

/-- R206, R207: the SI instructions compute on xa and the immediate or literal; LI writes it and ADDPC adds it to the address of
the bundle. -/
def Sys2Proof.Claims.ImmediateResults : Prop :=
  (∀ f : SI,
    OneSource (.addi f) f.d f.a (fun h x => put h f.d (x + immediate f.imm f.lit)) ∧
    OneSource (.andi f) f.d f.a (fun h x => put h f.d (x &&& immediate f.imm f.lit)) ∧
    OneSource (.ori f) f.d f.a (fun h x => put h f.d (x ||| immediate f.imm f.lit)) ∧
    OneSource (.xori f) f.d f.a (fun h x => put h f.d (x ^^^ immediate f.imm f.lit)) ∧
    OneSource (.shli f) f.d f.a (fun h x => put h f.d (x <<< (immediate f.imm f.lit).toNat)) ∧
    OneSource (.shri f) f.d f.a (fun h x => put h f.d (x >>> (immediate f.imm f.lit).toNat)) ∧
    OneSource (.sari f) f.d f.a (fun h x => put h f.d (x.sshiftRight (immediate f.imm f.lit).toNat))) ∧
  (∀ (f : SL) (s : State), Free f.d s.core.sh →
    exec (.li f) s = .next (onlySh s (put s.core.sh f.d (immediate f.imm f.lit))) ∧
    exec (.addpc f) s = .next (onlySh s (put s.core.sh f.d (s.core.sh.pc + immediate f.imm f.lit))))

/-- R208, R209: the compares and the predicate instructions write their predicate, and MOVP its register, and nothing else; a
64-bit compare or, with w = 1, one of the low 32 bits; a compare's pd outside 1 to 7 raises ILLEGAL_OP at decode. -/
def Sys2Proof.Claims.CompareAndPredicateResults : Prop :=
  (∀ f : SA,
    TwoReads (.ceq f) f.a f.b (fun h x y => putP h f.d (if f.w then x.setWidth 32 == y.setWidth 32 else x == y)) ∧
    TwoReads (.clt f) f.a f.b (fun h x y =>
      putP h f.d (if f.w then (x.setWidth 32).toInt < (y.setWidth 32).toInt else x.toInt < y.toInt)) ∧
    TwoReads (.cltu f) f.a f.b (fun h x y =>
      putP h f.d (if f.w then x.toNat % 2 ^ 32 < y.toNat % 2 ^ 32 else x.toNat < y.toNat)) ∧
    OneRead (.pset f) f.a (fun h x => putP h f.d (x != 0)) ∧
    (∀ s : State, exec (.pand f) s = .next (onlySh s (putP s.core.sh f.d (predicate s.core.sh f.a && predicate s.core.sh f.b))) ∧
      exec (.por f) s = .next (onlySh s (putP s.core.sh f.d (predicate s.core.sh f.a || predicate s.core.sh f.b))) ∧
      exec (.pxor f) s = .next (onlySh s (putP s.core.sh f.d (predicate s.core.sh f.a ^^ predicate s.core.sh f.b))) ∧
      (Free f.d s.core.sh →
        exec (.movp f) s = .next (onlySh s (put s.core.sh f.d (if predicate s.core.sh f.a then 1 else 0)))))) ∧
  (∀ f : SI,
    OneRead (.ceqi f) f.a (fun h x => putP h f.d (x == immediate f.imm f.lit)) ∧
    OneRead (.clti f) f.a (fun h x => putP h f.d (x.toInt < (immediate f.imm f.lit).toInt))) ∧
  (∀ f : SA, f.d = 0 ∨ 8 ≤ f.d.toNat → ∀ i ∈ [Instr.ceq f, .clt f, .cltu f], IllegalField .shuttle i) ∧
  (∀ f : SI, f.d = 0 ∨ 8 ≤ f.d.toNat → ∀ i ∈ [Instr.ceqi f, .clti f], IllegalField .shuttle i)

/-! ### The Shuttle's FP32 lanes -/

/-- R210 to R214: the FP32 lanes round in the mode of FRM, write a zero-extended result to xd and add their flags to FSTAT; FDIV and
FSQRT are long-latency; FMA reads xd first. The arithmetic is that of the model's FP32 operations.
Completion, exec answering a next state under conditions on the state and the operands alone, is stated for: FADD, FSUB, FMUL,
FDIV, FSQRT, FMA, FMIN, FMAX, FCEQ, FCLT, FCVTI, FCVTF, FKEY. -/
def Obligations.FloatResults : Prop := ∀ f : SA,
  TwoSources (.fadd f) f.d f.a f.b (fun h x y =>
    let r := fp32.add h.frm.toNat false (fp32Of x) (fp32Of y); sticky (put h f.d (BitVec.ofNat 64 r.1)) r.2) ∧
  TwoSources (.fsub f) f.d f.a f.b (fun h x y =>
    let r := fp32.sub h.frm.toNat false (fp32Of x) (fp32Of y); sticky (put h f.d (BitVec.ofNat 64 r.1)) r.2) ∧
  TwoSources (.fmul f) f.d f.a f.b (fun h x y =>
    let r := fp32.mul h.frm.toNat false (fp32Of x) (fp32Of y); sticky (put h f.d (BitVec.ofNat 64 r.1)) r.2) ∧
  TwoSources (.fdiv f) f.d f.a f.b (fun h x y =>
    let r := fp32.div h.frm.toNat false (fp32Of x) (fp32Of y); sticky (putLater h f.d (BitVec.ofNat 64 r.1)) r.2) ∧
  OneSource (.fsqrt f) f.d f.a (fun h x =>
    let r := fp32.sqrt h.frm.toNat (fp32Of x); sticky (putLater h f.d (BitVec.ofNat 64 r.1)) r.2) ∧
  TwoSources (.fmin f) f.d f.a f.b (fun h x y =>
    let r := fp32.minmax false (x.toNat % 2 ^ 32) (y.toNat % 2 ^ 32) (fp32Of x) (fp32Of y)
    sticky (put h f.d (BitVec.ofNat 64 r.1)) r.2) ∧
  TwoSources (.fmax f) f.d f.a f.b (fun h x y =>
    let r := fp32.minmax true (x.toNat % 2 ^ 32) (y.toNat % 2 ^ 32) (fp32Of x) (fp32Of y)
    sticky (put h f.d (BitVec.ofNat 64 r.1)) r.2) ∧
  TwoReads (.fceq f) f.a f.b (fun h x y =>
    sticky (putP h f.d (numEq (fp32Of x) (fp32Of y))) { inv := (fp32Of x).isSnan || (fp32Of y).isSnan }) ∧
  TwoReads (.fclt f) f.a f.b (fun h x y =>
    sticky (putP h f.d (!(fp32Of x).isNan && !(fp32Of y).isNan && numLt (fp32Of x) (fp32Of y)))
      { inv := (fp32Of x).isNan || (fp32Of y).isNan }) ∧
  OneSource (.fcvti f) f.d f.a (fun h x =>
    let n := if f.w then 31 else 63
    let r := convFI h.frm.toNat (-(2 ^ n)) (2 ^ n - 1) (fp32Of x); sticky (put h f.d (BitVec.ofInt 64 r.1)) r.2) ∧
  OneSource (.fcvtf f) f.d f.a (fun h x =>
    let r := convIF fp32 h.frm.toNat false (if f.w then (x.setWidth 32).toInt else x.toInt)
    sticky (put h f.d (BitVec.ofNat 64 r.1)) r.2) ∧
  OneSource (.fkey f) f.d f.a (fun h x => put h f.d (BitVec.ofNat 64
    (if x.getLsbD 31 then 2 ^ 32 - 1 - x.toNat % 2 ^ 32 else x.toNat % 2 ^ 32 + 2 ^ 31))) ∧
  (∀ (s : State) (h1 h2 h3 : Shuttle) (c x y : Word), Reads f.d s.core.sh h1 c → Reads f.a h1 h2 x → Reads f.b h2 h3 y →
    exec (.fma f) s = .next (onlySh s
      (let r := fp32.fma h3.frm.toNat false (fp32Of x) (fp32Of y) (fp32Of c); sticky (put h3 f.d (BitVec.ofNat 64 r.1)) r.2)))

/-! ### Control flow -/

/-- R215, R216: a branch whose guard is true sets the bundle that follows lane 7; a call writes the address of the next bundle to
x63 at its lane; a register jump with a target that is not a multiple of 32 raises MISALIGNED, else goes there; a guard that is
false does neither; LOOP decrements and branches while the result is not zero, waits while its counter is EMPTY, and raises ILLEGAL_OP
at decode for x0, x62 or a literal that is not a multiple of 32. -/
def Sys2Proof.Claims.BranchResults : Prop :=
  (∀ (f : SB) (s : State),
    exec (.br f) s = .next (onlySh s (if Guard s.core.sh f.p f.n then
      { s.core.sh with target := some (s.core.sh.pc + 32 * f.disp.signExtend 64) } else s.core.sh)) ∧
    (Free 63 s.core.sh → exec (.call f) s = .next (onlySh s (if Guard s.core.sh f.p f.n then
      { put s.core.sh 63 (s.core.sh.pc + 32) with target := some (s.core.sh.pc + 32 * f.disp.signExtend 64) } else s.core.sh)))) ∧
  (∀ (f : SA) (s : State) (h : Shuttle) (x : Word), (Guard s.core.sh f.p f.n = true → x.toNat % 32 = 0) →
    (Reads f.a s.core.sh h x →
      exec (.jr f) s = .next (onlySh s (if Guard s.core.sh f.p f.n then { h with target := some x } else h))) ∧
    (Reads 63 s.core.sh h x →
      exec (.ret f) s = .next (onlySh s (if Guard s.core.sh f.p f.n then { h with target := some x } else h))) ∧
    (Free 63 s.core.sh → Reads f.a s.core.sh h x →
      exec (.callr f) s = .next (onlySh s (if Guard s.core.sh f.p f.n then
        { put h 63 (h.pc + 32) with target := some x } else h)))) ∧
  (∀ (f : SL) (s : State) (h : Shuttle) (x : Word), Reads f.d s.core.sh h x →
    exec (.loop f) s = .next (onlySh s (let h := put h f.d (x - 1)
      if x = 1 then h else { h with target := some (h.pc + (match f.lit with
        | .none => 32 * f.imm.signExtend 64
        | l => immediate f.imm l)) }))) ∧
  (∀ (f : SL) (s : State), f.d ≠ 0 → f.d ≠ 62 → bit s.core.sh.empty f.d.toNat = true → (∀ p ∈ s.core.sh.pending, p.d = f.d → p.fault = none) →
    ∃ r, exec (.loop f) s = .next { s with core := { s.core with ended := .stalled r } }) ∧
  (∀ f : SL, f.d = 0 ∨ f.d = 62 ∨ (f.lit ≠ .none ∧ (immediate f.imm f.lit).toNat % 32 ≠ 0) → IllegalField .shuttle (.loop f))

/-- R215: a register jump whose guard is true and whose target is not a multiple of 32 raises MISALIGNED with the target as its
address, and the core changes in nothing but what taking that fault does. -/
def Sys2Proof.Claims.MisalignedJumpFaults : Prop :=
  ∀ (f : SA) (s : State) (h : Shuttle) (x : Word), Guard s.core.sh f.p f.n = true → x.toNat % 32 ≠ 0 →
    (Reads f.a s.core.sh h x → exec (.jr f) s = .next (faultOn s.cur { code := .misaligned, engine := 1, addr := x } s)) ∧
    (Reads 63 s.core.sh h x → exec (.ret f) s = .next (faultOn s.cur { code := .misaligned, engine := 1, addr := x } s)) ∧
    (Free 63 s.core.sh → Reads f.a s.core.sh h x →
      exec (.callr f) s = .next (faultOn s.cur { code := .misaligned, engine := 1, addr := x } s))

namespace Sys2Proof.Claims

/-- The Shuttle's own access at a virtual address: its translation (R103 to R111) is the place l and leaves s1. -/
def Maps (s : State) (va : Word) (k : Kind) (l : Loc) (s1 : State) : Prop := translate (coreReq s shData) va.toNat k s = .ok l s1

/-- An access of the core at its home point is free to go (R323, R325, Table 18.8): injection is not held, no fenced part stands
in its way, no self-test of the place's row runs. -/
def Untested (s : State) (l : Loc) : Prop :=
  trafficHeld s.strait s.cur = false ∧
    coreReaches s.strait s.cur (if l.host then l.addr / 2 ^ 52 else homeDie l.addr) (192 + slicePort (l.addr / 64)) = true ∧
    (l.host = true ∨ rowTested s (l.addr / 64) = false)

/-- A write of the core is free to go: beside that, no copy of the frame holds its writers (R97, R99, R125). -/
def Unheld (s : State) (l : Loc) : Prop := Untested s l ∧ (l.host = true ∨ copyHolds s (l.addr / 64) = false)

/-- Bytes off to off + n of a sector as a register value, extended (R141). -/
def loaded (data : BitVec 512) (off n : Nat) (signed : Bool) : Word :=
  let v := data.extractLsb' (8 * off) (8 * n)
  if signed then v.signExtend 64 else v.setWidth 64

/-- The loads with their sizes and extensions (R141). -/
def loads (f : SI) : List (Instr × Nat × Bool) :=
  [(.ldb f, 1, true), (.ldbu f, 1, false), (.ldh f, 2, true), (.ldhu f, 2, false), (.ldw f, 4, true), (.ldwu f, 4, false),
    (.ldd f, 8, false)]

/-- The stores with their sizes (R142). -/
def stores (f : SS) : List (Instr × Nat) := [(.stb f, 1), (.sth f, 2), (.stw f, 4), (.std f, 8)]

/-- The byte offset of a store: off7 scaled by the size, or the literal unscaled (R142). -/
def storeOffset (f : SS) (n : Nat) : Word :=
  match f.lit with
  | .none => f.off.signExtend 64 * BitVec.ofNat 64 n
  | l => immediate f.off l

/-- A sector whose stored bits show no error, that is not retired and that no armed injection names; a line of it in its home slice
shows no error either and holds what HBM holds. -/
def Sound (s : State) (sec : Nat) : Prop :=
  (mget {} s.sectors sec).flipped = [] ∧ retiredSector s sec = false ∧ injector s sec = none ∧
    ∀ l, homeLine s sec = some l → l.flips = [] ∧ l.data = sectorData s sec ∧ l.marks = (mget {} s.sectors sec).marks ∧
      l.code = (mget {} s.sectors sec).code

/-- A read under code c finds no mismatch: the sector is unwritten or stored under c (R78). -/
def Agrees (s : State) (sec c : Nat) : Prop := ∀ k, homeCode s sec = some k → k = c

/-- A near-map address that the core may access (R126 to R128). -/
def NearOk (s : State) (na : Word) : Prop :=
  let n := na.toNat / 2 ^ 20
  n < 768 ∧ (coreOf s n).run ≠ .disabled ∧
    (n = s.cur ∨ ((coreOf s n).run ≠ .free ∧ (coreOf s n).attrs.launch = s.core.attrs.launch ∧ s.core.attrs.launch ≠ 0) ∨
      bit s.core.attrs.rights 1 = true) ∧
    ¬(haltedOnly (na.toNat % 2 ^ 20) = true ∧ (coreOf s n).run = .running)

end Sys2Proof.Claims

/-! ### The Shuttle's memory lanes -/

/-- R141: an aligned load of a mapped address: a hit in the L1 data cache writes the bytes, extended, at once; a miss fills the line,
marks xd EMPTY and leaves the value outstanding. -/
def Sys2Proof.Claims.LoadResults : Prop :=
  ∀ (f : SI) (i : Instr) (n : Nat) (signed : Bool), (i, n, signed) ∈ loads f →
  ∀ (s : State) (h : Shuttle) (a : Word) (l : Loc) (s1 : State), Free f.d s.core.sh → Reads f.a s.core.sh h a →
  let va := a + immediate f.imm f.lit
  va.toNat % n = 0 → va.toNat < 2 ^ 52 → Maps { s with core := { s.core with sh := h } } va .read l s1 →
  (∀ x, l1Find s1.core l = some x → bad s1 x.marks = false →
    exec i s = .next (onlySh s1 (put s1.core.sh f.d (loaded x.data (va.toNat % 64) n signed)))) ∧
  (∀ (r : SecRead) (s2 : State), l1Find s1.core l = none → Untested s1 l → locRead true 0 l s1 = (r, s2) → r.e3 = false →
    bad s2 r.marks = false →
    let s3 := { s2 with core := l1Fill l r s2.core }
    exec i s = .next (onlySh s3 (outstanding s3.core.sh
      { d := f.d, value := loaded r.data (va.toNat % 64) n signed, phase := s2.core.ph.openId })))

/-- R142, R202: a store reads its data and then its base; guarded off it does nothing else; else an aligned store of a mapped address
writes its bytes at the place and in the L1 line that holds it, and nothing else. -/
def Sys2Proof.Claims.StoreResults : Prop :=
  ∀ (f : SS) (i : Instr) (n : Nat), (i, n) ∈ stores f →
  ∀ (s : State) (h1 h2 : Shuttle) (v b : Word), Reads f.data s.core.sh h1 v → Reads f.base h1 h2 b →
  (Guard s.core.sh f.p f.n = false → exec i s = .next (onlySh s h2)) ∧
  (∀ (l : Loc) (s1 : State), Guard s.core.sh f.p f.n = true →
    let va := b + storeOffset f n
    va.toNat % n = 0 → va.toNat < 2 ^ 52 → Maps { s with core := { s.core with sh := h2 } } va .write l s1 → Unheld s1 l →
    let mask := maskOf (va.toNat % 64) n
    let bytes := placeBytes (va.toNat % 64) (leBytes n v.toNat)
    let s2 := locWrite l mask bytes {} s1
    exec i s = .next { s2 with core := { l1Store l mask bytes s2.core with ended := .done } })

/-- R83, R2: a write of n bytes within a sector of device memory that shows no error stores exactly those bytes, little-endian, and
leaves every other byte of memory; a read of the sector then delivers the merged bytes. -/
def Obligations.SectorWriteThenRead : Prop :=
  ∀ (s : State) (a n nlc : Nat) (v : Word), Sound s (a / 64) → Agrees s (a / 64) nlc → a % 64 + n ≤ 64 → n ≤ 8 →
  let l : Loc := ⟨false, a, nlc⟩
  let t := locWrite l (maskOf (a % 64) n) (placeBytes (a % 64) (leBytes n v.toNat)) {} s
  (∀ x, t.hbm.read x = if a ≤ x ∧ x < a + n then BitVec.ofNat 8 (v.toNat / 2 ^ (8 * (x - a))) else s.hbm.read x) ∧
  (locRead true 0 l t).1.data.extractLsb' (8 * (a % 64)) (8 * n) = v.setWidth (8 * n) ∧ (locRead true 0 l t).2 = t

/-- R144, R136: LDN reads the word of the near map, long-latency; STN writes it, in the scratchpad as an arrival; neither changes
anything else, and a false guard leaves STN without effect. -/
def Sys2Proof.Claims.NearMapAccessResults : Prop :=
  (∀ (f : SI) (s s1 : State) (h : Shuttle) (a w : Word) (mk : Marks), Free f.d s.core.sh → Reads f.a s.core.sh h a →
    s1 = { s with core := { s.core with sh := h } } →
    let na := a + immediate f.imm f.lit
    na.toNat % 8 = 0 → NearOk s1 na → (coreOf s1 (na.toNat / 2 ^ 20)).nearRead (na.toNat % 2 ^ 20) = (w, mk) → bad s1 mk = false →
    exec (.ldn f) s = .next (onlySh s (outstanding h { d := f.d, value := w, phase := s.core.ph.openId }))) ∧
  (∀ (f : SS) (s s1 : State) (h1 h2 : Shuttle) (v b : Word), Reads f.data s.core.sh h1 v → Reads f.base h1 h2 b →
    s1 = { s with core := { s.core with sh := h2 } } →
    let na := b + storeOffset f 8
    (Guard s.core.sh f.p f.n = false → exec (.stn f) s = .next (onlySh s h2)) ∧
    (Guard s.core.sh f.p f.n = true → na.toNat % 8 = 0 → NearOk s1 na →
      let s2 := nearWriteAt (na.toNat / 2 ^ 20) (na.toNat % 2 ^ 20) (leBytes 8 v.toNat) {} none s1
      exec (.stn f) s = .next { s2 with core := { s2.core with ended := .done } }))

/-- R145: PREF completes on every state whose base register can be read, whatever the address, and writes no register, no byte of
the window and none of host memory; a sound line of a page that the TLB maps for reading is in its home slice afterwards, with
level 0 in the L1 data cache too, and device memory is unchanged. R146: LDBLK of a mapped range of device memory brings
its lines into their home slice, makes them one block and leaves the count of its marked sectors outstanding, with its flag; of
a range of host memory without poison the count is 0. -/
def Sys2Proof.Claims.PrefetchAndBlockLoad : Prop :=
  (∀ (f : SI) (s : State) (h : Shuttle) (a : Word), Reads f.a s.core.sh h a →
    ∃ t, exec (.pref f) s = .next t ∧ t.core.ended = .done ∧ t.core.sh = { h with errinj := t.core.sh.errinj } ∧
      t.core.win = s.core.win ∧ t.hostMem = s.hostMem ∧
      (∀ (e : TlbEntry), let va := a + immediate f.imm f.lit
        let l := leafLoc e.pte.toNat e.big va.toNat
        va.toNat < 2 ^ 52 → tlbFind s.core (coreReq s shData) va.toNat = some e → permits e.pte.toNat .read = true →
        l.host = false → l.addr < memEnd → Untested s l → Sound s (l.addr / 64) → Agrees s (l.addr / 64) l.nlc →
        t.hbm = s.hbm ∧ (l1Find s.core l = none → (homeLine t (l.addr / 64)).isSome = true) ∧
        (f.d = 0 → (l1Find t.core l).isSome = true))) ∧
  (∀ (f : SA) (s : State) (h1 h2 : Shuttle) (va c : Word) (l : Loc) (s1 : State), Free f.d s.core.sh → Reads f.a s.core.sh h1 va →
    Reads f.b h1 h2 c →
    let n := c.toNat % 128
    let sec := l.addr / 64
    c.toNat < 2 ^ 13 → c.toNat / 128 % 2 = 0 → 1 ≤ n → n ≤ 64 → 8 ≤ c.toNat / 256 → va.toNat % 64 = 0 → va.toNat < 2 ^ 52 →
    va.toNat / 64 % 64 + n ≤ 64 → Maps { s with core := { s.core with sh := h2 } } va .read l s1 → l.addr % 64 = 0 →
    (∀ k, k < n → Untested s1 { l with addr := l.addr + 64 * k }) →
    (l.host = false → (∀ k, k < n → Sound s1 (sec + k) ∧ Agrees s1 (sec + k) l.nlc) →
      let count := ((List.range n).filter (fun k => (mget {} s1.sectors (sec + k)).marks.poison ||
        (mget {} s1.sectors (sec + k)).marks.e1)).length
      let s2 := (List.range n).foldl (fun t k => bringLine (sec + k) t) s1
      let s3 := { s2 with blocks := s2.blocks.filter (fun b => b.1 + b.2 ≤ sec || sec + n ≤ b.1) ++ [(sec, n)] }
      exec (.ldblk f) s = .next (onlySh s3 (outstanding s3.core.sh
        { d := f.d, value := BitVec.ofNat 64 count, flag := c.toNat / 256 }))) ∧
    (l.host = true → (∀ k, k < n → mget false s1.hostPoison (sec + k) = false) →
      let s2 := (List.range n).foldl (fun t k => cacheHostLine (sec + k) t) s1
      let b := 2 ^ 60 + sec
      let s3 := { s2 with blocks := s2.blocks.filter (fun x => x.1 + x.2 ≤ b || b + n ≤ x.1) ++ [(b, n)] }
      exec (.ldblk f) s = .next (onlySh s3 (outstanding s3.core.sh { d := f.d, value := 0, flag := c.toNat / 256 }))))

namespace Sys2Proof.Claims

/-- n bytes as a signed number. -/
def signedOf (n x : Nat) : Int := (BitVec.ofNat (8 * n) x).toInt

/-- The atomics with the value that each stores (Table 7.7); none where nothing is stored. -/
def atomics (f : SA) : List (Instr × (Nat → Nat → Nat → Nat → Option Nat)) :=
  [(.aadd f, fun n old v _ => some ((old + v) % 2 ^ (8 * n))), (.aand f, fun _ old v _ => some (old &&& v)),
    (.aor f, fun _ old v _ => some (old ||| v)), (.axor f, fun _ old v _ => some (old ^^^ v)),
    (.amin f, fun n old v _ => some (if signedOf n v < signedOf n old then v else old)),
    (.amax f, fun n old v _ => some (if signedOf n old < signedOf n v then v else old)),
    (.aswap f, fun _ _ v _ => some v), (.acas f, fun _ old v c => if old = c then some v else none)]

end Sys2Proof.Claims

/-- R147: an atomic on a mapped, unmarked place drops the L1 line, stores the operation's result at the home point and leaves the old
value, sign-extended, outstanding for xd; ACAS reads xd as its comparand first and stores only on equality; AFADD adds FP32
values to nearest even and sets FSTAT; a false guard leaves memory and xd as they are.
Completion, exec answering a next state under conditions on the state and the operands alone, is stated for: AADD, AAND, AOR,
AXOR, AMIN, AMAX, ASWAP, ACAS, AFADD. -/
def Obligations.AtomicResults : Prop := ∀ (f : SA) (s : State) (h0 h1 h2 : Shuttle) (c a v : Word), Free f.d s.core.sh →
  Reads f.a h0 h1 a → Reads f.b h1 h2 v →
  let n := if f.w then 4 else 8
  (∀ p ∈ atomics f, (p.1 = .acas f → Reads f.d s.core.sh h0 c) → (p.1 ≠ .acas f → h0 = s.core.sh) →
    (Guard s.core.sh f.p f.n = false → exec p.1 s = .next (onlySh s h2)) ∧
    (∀ (l : Loc) (s1 s2 : State) (r : SecRead), Guard s.core.sh f.p f.n = true → a.toNat % n = 0 → a.toNat < 2 ^ 52 →
      Maps { s with core := { s.core with sh := h2 } } a .atomic l s1 → Unheld s1 l →
      locRead true 0 l { s1 with core := l1Drop l s1.core } = (r, s2) → r.e3 = false → bad s2 r.marks = false →
      let old := (r.data.extractLsb' (8 * (a.toNat % 64)) (8 * n)).toNat
      let s3 := match p.2 n old (v.toNat % 2 ^ (8 * n)) (c.toNat % 2 ^ (8 * n)) with
        | some w => locUpdate l (maskOf (a.toNat % 64) n) (placeBytes (a.toNat % 64) (leBytes n w)) r s2
        | none => s2
      exec p.1 s = .next (onlySh s3 (outstanding s3.core.sh
        { d := f.d, value := BitVec.ofInt 64 (signedOf n old), phase := s3.core.ph.openId })))) ∧
  (h0 = s.core.sh → f.w = true →
    (Guard s.core.sh f.p f.n = false → exec (.afadd f) s = .next (onlySh s h2)) ∧
    (∀ (l : Loc) (s1 s2 : State) (r : SecRead), Guard s.core.sh f.p f.n = true → a.toNat % 4 = 0 → a.toNat < 2 ^ 52 →
      Maps { s with core := { s.core with sh := h2 } } a .atomic l s1 → Unheld s1 l →
      locRead true 0 l { s1 with core := l1Drop l s1.core } = (r, s2) → r.e3 = false → bad s2 r.marks = false →
      let old := (r.data.extractLsb' (8 * (a.toNat % 64)) 32).toNat
      let w := fp32.add 0 false (fp32.decode old) (fp32.decode (v.toNat % 2 ^ 32))
      let s3 := locUpdate l (maskOf (a.toNat % 64) 4) (placeBytes (a.toNat % 64) (leBytes 4 w.1)) r s2
      exec (.afadd f) s = .next (onlySh s3 (outstanding (sticky s3.core.sh w.2)
        { d := f.d, value := BitVec.ofInt 64 (signedOf 4 old), phase := s3.core.ph.openId }))))

namespace Sys2Proof.Claims

/-- The difference of two n-byte values, as a signed number, is not negative (R334). -/
def reached (n v c : Nat) : Prop := 0 ≤ signedOf n (v + (2 ^ (8 * n) - c % 2 ^ (8 * n)))

/-- An entry pushed into a queue. -/
def pushed (v : EngQueue) (e : Entry) : EngQueue := { v with entries := v.entries ++ [e] }

/-- An entry pushed into each of the five queues. -/
def pushedAll (c : Core) (e : Entry) : Core :=
  { c with vq := pushed c.vq e, mq := pushed c.mq e, lq := pushed c.lq e, sq := pushed c.sq e, gq := pushed c.gq e }

/-- An entry pushed into the vector queue. -/
def pushedV (c : Core) (e : Entry) : Core := { c with vq := pushed c.vq e }

/-- The vector queue takes one more entry, and the open phase does not hold all of it (R25, R354). -/
def VectorRoom (c : Core) : Prop := c.vq.used < 64 ∧ ∀ id, c.ph.openId = some id → phaseHeld c id .vector < 64

/-- A late fault waits at the core (R198). -/
def LateFault (c : Core) : Prop := ∃ p ∈ c.sh.pending, p.ready = true ∧ p.fault.isSome = true

end Sys2Proof.Claims

/-! ### Bindings, acquire, release, fences, flags -/

/-- R332, R333: BIND with legal operands writes its binding register, valid, and nothing else; UNBIND clears VALID of one binding
register or of all, and nothing else. -/
def Sys2Proof.Claims.BindingResults : Prop :=
  (∀ (f : SA) (s : State) (h1 h2 h3 : Shuttle) (sync base c : Word), Reads f.d s.core.sh h1 sync → Reads f.a h1 h2 base →
    Reads f.b h2 h3 c →
    let len := c.toNat / 2 ^ 16
    c.toNat / 256 % 256 = 0 → c.toNat / 32 % 8 ≤ 4 → len ≠ 0 → len % 64 = 0 → base.toNat % 64 = 0 → base.toNat + len ≤ 2 ^ 52 →
    sync.toNat % 4 = 0 → (sync.toNat < 2 ^ 52 ∨ (sync.toNat / 2 ^ 63 = 1 ∧ sync.toNat / 2 ^ 39 % 2 ^ 14 = 0)) →
    let b : Binding :=
      { sync := sync, len := BitVec.ofNat 48 len, scope := BitVec.ofNat 3 (c.toNat / 32), valid := true, base := base.setWidth 52 }
    exec (.bind f) s = .next (onlySh { s with core := { s.core with binds := mset {} s.core.binds (c.toNat % 32) b } } h3)) ∧
  (∀ (f : SI) (s : State), ∃ t, exec (.unbind f) s = .next t ∧
    t = { s with core := { s.core with binds := t.core.binds, ended := .done } } ∧
    ∀ i, i < 32 → mget {} t.core.binds i = if bit f.imm 5 = true ∨ f.imm.toNat % 32 = i then
      { mget {} s.core.binds i with valid := false } else mget {} s.core.binds i)

/-- R334, R335: ACQ of a mapped object that has reached its comparand drops the lines and parameter blocks bound to it and writes the
object's value to xd, and one that has not waits; REL with nothing to drain drops the parameter blocks, adds to the object at
its home point and writes the old value to xd. -/
def Sys2Proof.Claims.AcquireReleaseResults : Prop := ∀ (f : SA) (s : State) (h1 h2 : Shuttle) (a c : Word), Free f.d s.core.sh →
  Reads f.a s.core.sh h1 a → Reads f.b h1 h2 c →
  let n := if f.w then 4 else 8
  a.toNat % n = 0 → a.toNat < 2 ^ 52 →
  (∀ (l : Loc) (s1 s2 : State) (r : SecRead), Maps { s with core := { s.core with sh := h2 } } a .read l s1 → Untested s1 l →
    locRead true 0 l s1 = (r, s2) → r.e3 = false → bad s2 r.marks = false →
    let v := (r.data.extractLsb' (8 * (a.toNat % 64)) (8 * n)).toNat
    (reached n v c.toNat →
      let k := (bindsTo s2.core a).foldl (fun k b => dropBlocks b (dropRegion s2 b k)) s2.core
      exec (.acq f) s = .next { s2 with core := { k with
        sh := put s2.core.sh f.d (BitVec.ofInt 64 (signedOf n v)), ended := .done } }) ∧
    (¬reached n v c.toNat → exec (.acq f) s = .next { s2 with core := { s.core with
      sh := { s.core.sh with errinj := s2.core.sh.errinj }
      tlb := s2.core.tlb, stlb := s2.core.stlb
      ended := .stalled .condition } })) ∧
  (∀ (k : Core) (l : Loc) (s1 s2 : State) (r : SecRead), loggedIn s.core (bindsTo s.core a) = false → atomicsOwed s.core.sh = false →
    (scopeOf s.core a = 4 → unacked s s.cur (· == 1) = false) →
    k = (bindsTo s.core a).foldl (fun k b => dropBlocks b k) { s.core with sh := h2 } →
    Maps { s with core := k } a .atomic l s1 → Unheld s1 l →
    locRead true 0 l { s1 with core := l1Drop l s1.core } = (r, s2) → r.e3 = false → bad s2 r.marks = false →
    let old := (r.data.extractLsb' (8 * (a.toNat % 64)) (8 * n)).toNat
    let s3 := locUpdate l (maskOf (a.toNat % 64) n) (placeBytes (a.toNat % 64) (leBytes n ((old + c.toNat) % 2 ^ (8 * n)))) r s2
    exec (.rel f) s = .next (onlySh s3 (put s3.core.sh f.d (BitVec.ofInt 64 (signedOf n old)))))

/-- R334: what ACQ drops for one binding: no L1 data line stays that holds a byte of the bound region, as the tables place it, and
no parameter block of it; a line that holds no byte of it stays. -/
def Sys2Proof.Claims.BoundRegionIsDropped : Prop := ∀ (s : State) (b : Binding) (c : Core) (x : Line), b.len ≠ 0 →
  let asn := s.core.attrs.asn.toNat
  let tb := s.core.attrs.tbase
  (x ∈ (dropRegion s b c).l1d ↔ x ∈ c.l1d ∧
    ∀ p l, b.base.toNat ≤ p → p < b.base.toNat + b.len.toNat → peekPlace s asn tb p = some l → l.key ≠ x.key) ∧
  (∀ e, e ∈ (dropBlocks b c).pbc ↔ e ∈ c.pbc ∧ ¬(e.asn = c.attrs.asn.toNat ∧
    ∃ p, b.base.toNat ≤ p ∧ p < b.base.toNat + b.len.toNat ∧ e.va ≤ p ∧ p < e.va + 64))

/-- R336: ACQ.ALL, with no object or with one that has reached its comparand, drops every L1 line and parameter block; REL.ALL with
nothing to drain drops every parameter block and adds to its object, if it names one. -/
def Sys2Proof.Claims.AcquireReleaseAllResults : Prop := ∀ (f : SI) (s : State) (h1 h2 : Shuttle) (c a : Word), Reads f.d s.core.sh h1 c →
  Reads f.a h1 h2 a →
  let n := if bit f.imm 3 then 4 else 8
  let s0 := { s with core := { s.core with sh := h2 } }
  (f.a = 0 → exec (.acqAll f) s = .next (onlySh { s with core := { s.core with l1d := [], l1i := [], pbc := [] } } h2)) ∧
  (∀ (l : Loc) (s1 s2 : State) (r : SecRead), f.a ≠ 0 → a.toNat % n = 0 → a.toNat < 2 ^ 52 → Maps s0 a .read l s1 → Untested s1 l →
    locRead true 0 l s1 = (r, s2) → r.e3 = false → bad s2 r.marks = false →
    reached n (r.data.extractLsb' (8 * (a.toNat % 64)) (8 * n)).toNat c.toNat →
    exec (.acqAll f) s = .next { s2 with core := { s2.core with l1d := [], l1i := [], pbc := [], ended := .done } }) ∧
  (s.core.sdl = [] → atomicsOwed s.core.sh = false → (f.imm.toNat % 8 = 4 → unacked s s.cur (· == 1) = false) →
    (f.a = 0 → exec (.relAll f) s = .next (onlySh { s with core := { s.core with pbc := [] } } h2)) ∧
    (∀ (l : Loc) (s1 s2 : State) (r : SecRead), f.a ≠ 0 → a.toNat % n = 0 → a.toNat < 2 ^ 52 →
      Maps { s0 with core := { s0.core with pbc := [] } } a .atomic l s1 → Unheld s1 l →
      locRead true 0 l { s1 with core := l1Drop l s1.core } = (r, s2) → r.e3 = false → bad s2 r.marks = false →
      let old := (r.data.extractLsb' (8 * (a.toNat % 64)) (8 * n)).toNat
      let s3 := locUpdate l (maskOf (a.toNat % 64) n)
        (placeBytes (a.toNat % 64) (leBytes n ((old + c.toNat) % 2 ^ (8 * n)))) r s2
      exec (.relAll f) s = .next { s3 with core := { s3.core with ended := .done } }))

/-- R339: outside a phase an MFENCE whose named queues all have room pushes one marker into each and waits; the join, once every
marker is at its head behind no running nest and no logged write, takes the markers and lets it go on; MFENCE then
completes. -/
def Sys2Proof.Claims.FenceResults : Prop :=
  (∀ (f : SI) (s : State), s.core.ph.openId = none →
    (s.core.sh.fence = .joined → exec (.mfence f) s = .next (onlySh s { s.core.sh with fence := .none })) ∧
    (s.core.sh.fence = .none → (∀ q ∈ maskQueues (f.imm.setWidth 5), (s.core.queue q).used < depthOf q) →
      ∃ t, exec (.mfence f) s = .next t ∧ t.core.ended = .stalled .join ∧
        t.core.sh = { s.core.sh with fence := .waiting (f.imm.setWidth 5) } ∧
        ∀ q, t.core.queue q = if q ∈ maskQueues (f.imm.setWidth 5) then pushed (s.core.queue q) .fence else s.core.queue q)) ∧
  (∀ (s : State) (m : BitVec 5), s.input.core = s.cur → s.core.sh.fence = .waiting m →
    (∀ k, s.core.sh.savedFence ≠ .waiting k) →
    (∀ q ∈ maskQueues m, (s.core.queue q).ending = [] ∧ (s.core.queue q).entries.head? = some .fence ∧ (q = .matrix → s.core.mat.nest = none) ∧
      s.core.sdl.all (fun e => e.engine != (if q == .ferryLoad then 5 else engineOf q)) = true) →
    ∃ t, exec .mfenceJoin s = .next t ∧ t.core.ended = .done ∧ t.core.sh = { s.core.sh with fence := .joined } ∧
      ∀ q, t.core.queue q = if q ∈ maskQueues m then { s.core.queue q with entries := (s.core.queue q).entries.tail }
        else s.core.queue q)

/-- R341, R342: FLAGW and FLAGADD set or raise a flag of this core or, through a window address that it may access, of another;
FLAGR reads one, zero-extended; nothing else changes. -/
def Sys2Proof.Claims.FlagResults : Prop :=
  (∀ (f : SA) (s s1 : State) (h1 h2 : Shuttle) (w v : Word), Reads f.a s.core.sh h1 w → Reads f.b h1 h2 v →
    8 ≤ f.d.toNat → f.d.toNat ≤ 31 → s1 = { s with core := { s.core with sh := h2 } } →
    let old := mget 0 s.core.flags f.d.toNat
    (f.a = 0 →
      exec (.flagw f) s = .next (onlySh { s with core := { s.core with flags := mset 0 s.core.flags f.d.toNat (v.setWidth 32) } } h2) ∧
      exec (.flagadd f) s =
        .next (onlySh { s with core := { s.core with flags := mset 0 s.core.flags f.d.toNat (old + v.setWidth 32) } } h2)) ∧
    (f.a ≠ 0 → w.toNat % 2 ^ 20 = 0 → NearOk s1 w →
      let c := coreOf s1 (w.toNat / 2 ^ 20)
      let set := fun (x : BitVec 32) =>
        let t := withCore s1 (w.toNat / 2 ^ 20) { c with flags := mset 0 c.flags f.d.toNat x }
        { t with core := { t.core with ended := .done } }
      exec (.flagw f) s = .next (set (v.setWidth 32)) ∧
      exec (.flagadd f) s = .next (set (mget 0 c.flags f.d.toNat + v.setWidth 32)))) ∧
  (∀ (f : SI) (s : State), Free f.d s.core.sh →
    exec (.flagr f) s = .next (onlySh s (put s.core.sh f.d ((mget 0 s.core.flags (f.imm.toNat % 32)).setWidth 64)))) ∧
  (∀ f : SI, f.a ≠ 0 ∨ 32 ≤ f.imm.toNat ∨ f.lit ≠ .none → IllegalField .shuttle (.flagr f))

/-! ### System registers, PICK, translation invalidation -/

/-- R200, R398, R362: SRD of a register of the Shuttle writes it to xd at once; of FSTAT, of a counter or of SRCTR and VSTAT, which pass
through the vector queue, it comes later; PICK writes the pick value. -/
def Sys2Proof.Claims.SystemRegisterReads : Prop :=
  (∀ (f : SI) (s : State), Free f.d s.core.sh →
    let h := s.core.sh
    (f.imm = 0 → exec (.srd f) s = .next (onlySh s (put h f.d (BitVec.ofNat 64 (s.host.island.toNat * 2 ^ 30 +
      s.core.attrs.stage.toNat * 2 ^ 24 + s.cur / 192 * 2 ^ 20 + quadOf s.cur * 2 ^ 14 + qcOf s.cur * 2 ^ 12 +
      s.cur % 192 / 16 * 2 ^ 8 + s.cur % 16 * 2 ^ 4))))) ∧
    (f.imm = 1 → exec (.srd f) s = .next (onlySh s (outstanding h { d := f.d, value := h.fstat.setWidth 64, ready := false, redo := some .fstat }))) ∧
    (f.imm = 2 → exec (.srd f) s = .next (onlySh s (put h f.d (h.frm.setWidth 64)))) ∧
    (f.imm = 4 → exec (.srd f) s = .next (onlySh s (put h f.d (match h.replies with
      | [] => 0
      | e :: _ => BitVec.ofNat 64 (e.src.toNat * 256 + h.replies.length))))) ∧
    (f.imm = 0x100 → exec (.srd f) s = .next (onlySh s (put h f.d h.tvec))) ∧
    (f.imm = 0x101 → exec (.srd f) s = .next (onlySh s (put h f.d h.epc))) ∧
    (f.imm = 0x102 → exec (.srd f) s = .next (onlySh s (put h f.d (BitVec.ofNat 64 (h.ecount.toNat * 2 ^ 12 +
      h.eretry.toNat * 2 ^ 8 + (if h.more then 2 else 0) + (if h.hmode then 1 else 0)))))) ∧
    (f.imm = 0x103 → exec (.srd f) s = .next (onlySh s (put h f.d h.errinj))) ∧
    (∀ k, k < 8 → f.imm.toNat = 0x110 + k → exec (.srd f) s = .next (onlySh s (put h f.d (h.frec.getD k 0)))) ∧
    (∀ k, k < 16 → f.imm.toNat = 0x180 + k → exec (.srd f) s = .next (onlySh s (outstanding h
      { d := f.d, value := BitVec.ofNat 64 (mget 0 (dieOf s (s.cur / 192)).counters k) }))) ∧
    (∀ r, (r = 3 ∨ r = 5) → f.imm.toNat = r → VectorRoom s.core →
      exec (.srd f) s = .next (onlySh { s with core := pushedV s.core (.srd r (h.nextTicket + 1)) }
        (outstanding { h with nextTicket := h.nextTicket + 1 } { d := f.d, ready := false, ticket := h.nextTicket + 1 })))) ∧
  (∀ (f : SA) (s : State), Free f.d s.core.sh → exec (.pick f) s = .next (onlySh s (put s.core.sh f.d s.pick)))

/-- R200, R65, R398, R404: SWR writes the fields of its register that software may write, and nothing else; SRCTR and VSTAT pass through
the vector queue, whose entry writes or reads them in its turn. -/
def Sys2Proof.Claims.SystemRegisterWrites : Prop :=
  (∀ (f : SI) (s : State) (h : Shuttle) (v : Word), Reads f.a s.core.sh h v →
    (f.imm = 1 → exec (.swr f) s = .next (onlySh s { h with fstat := v.setWidth 5 })) ∧
    (f.imm = 2 → exec (.swr f) s = .next (onlySh s { h with frm := v.setWidth 2 })) ∧
    (∀ r, (r = 3 ∨ r = 5) → f.imm.toNat = r → VectorRoom s.core →
      exec (.swr f) s = .next (onlySh { s with core := pushedV s.core (.swr r v) } h)) ∧
    (f.imm = 0x100 → exec (.swr f) s = .next (onlySh s { h with tvec := BitVec.ofNat 64 (v.toNat % 2 ^ 52 / 32 * 32) })) ∧
    (f.imm = 0x101 → exec (.swr f) s = .next (onlySh s { h with
      epc := BitVec.ofNat 64 (v.toNat % 2 ^ 52 / 32 * 32 + v.toNat % 8) })) ∧
    (f.imm = 0x102 → exec (.swr f) s = .next (onlySh s { h with eretry := v.extractLsb' 8 3 })) ∧
    (f.imm = 0x103 → bit s.core.attrs.rights 5 = true → v.toNat / 2 ^ 52 = 0 → v.toNat % 64 < 4 →
      exec (.swr f) s = .next (onlySh s { h with errinj := v }))) ∧
  (∀ (s : State) (rest : List Entry) (r : Nat) (v : Word), s.input.core = s.cur → s.core.vq.held = false → s.core.vq.entries = .swr r v :: rest → s.core.ph.exec = none →
    exec .srctrVstatQueueEntry s = .next { s with core := { s.core with
      vec := if r = 3 then { s.core.vec with srctr := v } else { s.core.vec with vstat := v.setWidth 6 }
      vq := { s.core.vq with entries := rest }, ended := .done } }) ∧
  (∀ (s : State) (rest : List Entry) (r tk : Nat) (p : Pending), s.input.core = s.cur → s.core.vq.held = false → s.core.vq.entries = .srd r tk :: rest → s.core.ph.exec = none →
    s.core.sh.pending = [p] → p.ticket = tk → p.ready = false → p.redo = none →
    exec .srctrVstatQueueEntry s = .next { s with core := { s.core with
      sh := { s.core.sh with pending := [{ p with
        value := if r = 3 then s.core.vec.srctr else s.core.vec.vstat.setWidth 64, ready := true }] }
      vq := { s.core.vq with entries := rest }, ended := .done } })

/-- R112 to R114: TLBINV with the TRANSLATE right and a legal range drops exactly the translations of its address space that overlap the
range, from every TLB, stream TLB and walk cache of the island; TLBINVA those of its address space, or with 1 all; each answers
zero later.
Completion, exec answering a next state under conditions on the state and the operands alone, is stated for: TLBINV, TLBINVA. -/
def Obligations.TranslationInvalidation : Prop :=
  ∀ (s : State), mwf {} s.others → mwf {} s.dies → bit s.core.attrs.rights 0 = true →
  (∀ (f : SA) (h1 h2 : Shuttle) (base n : Word), Free f.d s.core.sh → Reads f.a s.core.sh h1 base → Reads f.b h1 h2 n →
    base.toNat % 65536 = 0 → base.toNat + n.toNat * 65536 ≤ 2 ^ 52 → base.toNat < 2 ^ 52 →
    ∃ t, exec (.tlbinv f) s = .next t ∧ t.core.ended = .done ∧ t.core.sh = putLater h2 f.d 0 ∧ t.hbm = s.hbm ∧
      (∀ k e, (e ∈ (coreOf t k).tlb ↔ e ∈ (coreOf s k).tlb ∧ ¬(e.asn = s.core.attrs.asn.toNat ∧
        ∃ p, base.toNat ≤ p ∧ p < base.toNat + n.toNat * 65536 ∧ e.base ≤ p ∧ p < e.base + (if e.big then 2 ^ 28 else 65536)))) ∧
      (∀ d w, (w ∈ (dieOf t d).walk ↔ w ∈ (dieOf s d).walk ∧ ¬(w.asn = s.core.attrs.asn.toNat ∧
        ∃ p, base.toNat ≤ p ∧ p < base.toNat + n.toNat * 65536 ∧ p / (if w.level == 3 then 2 ^ 40 else 2 ^ 28) = w.base)))) ∧
  (∀ (f : SI), Free f.d s.core.sh →
    ∃ t, exec (.tlbinva f) s = .next t ∧ t.core.ended = .done ∧ t.core.sh = putLater s.core.sh f.d 0 ∧ t.hbm = s.hbm ∧
      (∀ k e, (e ∈ (coreOf t k).tlb ↔ e ∈ (coreOf s k).tlb ∧ immediate f.imm f.lit ≠ 1 ∧ e.asn ≠ s.core.attrs.asn.toNat)) ∧
      (∀ d w, (w ∈ (dieOf t d).walk ↔ w ∈ (dieOf s d).walk ∧ immediate f.imm f.lit ≠ 1 ∧ w.asn ≠ s.core.attrs.asn.toNat)))

/-! ### Phases at the Shuttle, the return from a handler -/

/-- R352, R353, R361: PHASE.B outside a phase opens the next one and pushes its marker into the five queues; PHASE.C closes it and
keeps its flag; PHASE.X abandons the newest closed phase and writes 0; it writes 1 when there is none, or when that phase commits
with it. -/
def Sys2Proof.Claims.PhaseInstructions : Prop :=
  (∀ (f : SI) (s : State), ¬LateFault s.core → s.core.ph.openId = none → (∀ q, (s.core.queue q).markers < 4) →
    exec (.phaseB f) s = .next { s with core := { pushedAll s.core (.phaseB s.core.ph.next) with
      ph := { s.core.ph with next := s.core.ph.next + 1, openId := some s.core.ph.next }, ended := .done } }) ∧
  (∀ (f : SI) (s : State) (id : Nat), s.core.ph.openId = some id → (∀ q, (s.core.queue q).markers < 4) →
    exec (.phaseC f) s = .next { s with core := { pushedAll s.core (.phaseC id) with
      ph := { s.core.ph with openId := none, closed := s.core.ph.closed ++ [(id, f.imm.toNat % 32)] }, ended := .done } }) ∧
  (∀ (f : SI) (s : State), Free f.d s.core.sh → s.core.ph.openId = none →
    (s.core.ph.closed = [] → exec (.phaseX f) s = .next (onlySh s (put s.core.sh f.d 1))) ∧
    (∀ p rest, s.core.ph.closed = rest ++ [p] → (∃ e, s.core.ph.exec = some e ∧ e.id = p.1) → canCommit s = true →
      let t := (commitMembers s).foldl (fun t n => withCore t n (commitCore (coreOf t n))) s
      exec (.phaseX f) s = .next (onlySh t (put t.core.sh f.d 1))) ∧
    (∀ p rest, s.core.ph.closed = rest ++ [p] → ¬((∃ e, s.core.ph.exec = some e ∧ e.id = p.1) ∧ canCommit s = true) →
      ∃ t, exec (.phaseX f) s = .next t ∧ t.core.ended = .done ∧
      t.core.sh.get f.d = 0 ∧ (∀ q ∈ t.core.ph.closed, q.1 ≠ p.1) ∧ (∀ q ∈ rest, q.1 ≠ p.1 → q ∈ t.core.ph.closed) ∧
      (t.core.ph.exec = if s.core.ph.exec.any (fun e => e.id == p.1) then none else s.core.ph.exec) ∧ t.hbm = s.hbm))

/-- R400, R399: RTE in handler mode clears HMODE, FREC and MORE; mode 0 resumes at EPC with every held queue released to retry its head,
mode 2 with the command at which it is held removed, with the repeats of a REP partner, a taken branch and an MFENCE that waits
going on where EPC is still the point of entry; mode 1 aborts the launch on the core. Outside handler mode it raises BAD_OPERAND. -/
def Sys2Proof.Claims.HandlerReturn : Prop := ∀ (f : SI) (s : State),
  (s.core.sh.hmode = false → exec (.rte f) s = .next (faultOn s.cur { code := .badOperand, engine := 1 } s)) ∧
  (s.core.sh.hmode = true → f.imm ≠ 1 →
    let back := { s.core.sh with
      hmode := false, frec := [0, 0, 0, 0, 0, 0, 0, 0], frecHeld := false, more := false
      pc := BitVec.ofNat 64 (s.core.sh.epc.toNat % 2 ^ 52 / 32 * 32), lane := s.core.sh.epc.toNat % 8
      buf := none, ready := false
      target := if s.core.sh.epc = s.core.sh.savedAt then s.core.sh.savedTarget else none
      savedTarget := none
      fence := if s.core.sh.epc = s.core.sh.savedAt then s.core.sh.savedFence else .none
      savedFence := if s.core.sh.epc = s.core.sh.savedAt then .none else match s.core.sh.savedFence with
        | .waiting m => .waiting m
        | _ => .none }
    let drop := f.imm == 2
    exec (.rte f) s = .next { s with core := { allQueues.foldl (releaseHold drop) s.core with sh := back, ended := .done } } ∧
    ((∀ q, (s.core.queue q).held = true → grantsOf s.core q = []) →
      ∀ q t, exec (.rte f) s = .next t → t.core.queue q = if (s.core.queue q).held then
        { s.core.queue q with held := false, heldAt := 0, entries := if drop then (s.core.queue q).entries.eraseIdx (s.core.queue q).heldAt
            else match (s.core.queue q).entries with
              | .cmd k :: r => .cmd { k.fresh with deferred := k.deferred } :: r
              | es => es }
        else s.core.queue q) ∧
    (drop = true → s.core.vq.held = true → s.core.vq.heldAt = 0 → ∀ t, exec (.rte f) s = .next t → t.core.rep = none)) ∧
  (s.core.sh.hmode = true → f.imm = 1 → ∃ t, exec (.rte f) s = .next t ∧ t.core.run = .haltedDone ∧ t.core.sh.hmode = false ∧
    t.core.ended = .done ∧ (∀ q, (t.core.queue q).entries = [] ∧ (t.core.queue q).held = false) ∧ t.core.ph.openId = none ∧
    t.core.ph.closed = [] ∧ t.core.ph.exec = none ∧ t.hbm = s.hbm ∧
    ∀ l ∈ s.host.launches, l.number = s.core.attrs.launch → l.leaves = [(s.cur, none)] →
      ∃ l' ∈ t.host.launches, l'.number = l.number ∧ l'.leaves = [(s.cur, some true)])

namespace Sys2Proof.Claims

/-- Element k of size z of a vector register by its architectural name (R220, R223). -/
def elem (c : Core) (r z k : Nat) : Nat := leNat (c.win.readN (vregOff (physReg c.vec.vbase r) + k * z) z)

/-- The command of the vector queue's turn belongs to the executing phase. -/
def InPhaseV (i : Instr) (s : State) : Prop := inPhase s (headOr s .vector i) = true

/-- No repeat is pending; and inside the executing phase a register that the command writes is not one that the phase inherits,
before the command or by its own reads (R232). -/
def VectorReady (i : Instr) (srcs dsts : List Nat) (s : State) : Prop :=
  s.core.rep = none ∧ (InPhaseV i s → ∀ e, s.core.ph.exec = some e → ∀ d ∈ dsts,
    bit e.inherited (physReg s.core.vec.vbase d) = false ∧
      (bit e.vwritten (physReg s.core.vec.vbase d) = true ∨
        ∀ r ∈ srcs, physReg s.core.vec.vbase r ≠ physReg s.core.vec.vbase d))

/-- The command completed and changed nothing but the window, the vector engine's registers and, inside a phase, what the phase
notes of them. -/
def VectorDone (i : Instr) (s t : State) : Prop :=
  exec i s = .next t ∧ (¬InPhaseV i s → t.core.ph = s.core.ph) ∧
    t = { s with core := { s.core with win := t.core.win, vec := t.core.vec, ph := t.core.ph, ended := .done } }

/-- The bytes of a register from its start to `len`; every other byte of the window is unchanged. -/
def OnlyBytes (s t : State) (r len : Nat) : Prop :=
  let off := vregOff (physReg s.core.vec.vbase r)
  ∀ x, x < off ∨ off + len ≤ x → t.core.win.read x = s.core.win.read x

/-- The flags of the positions written, added to VSTAT (R63, R236). -/
def flagsAdded (s : State) (rs : List (Option Res)) : VecState :=
  { s.core.vec with vstat := s.core.vec.vstat ||| (orFlags (rs.filterMap (·.map (·.2)))).bits }

/-- A command that reads `srcs` and writes the first positions of size z of register d: position k takes its result, or keeps its
element; the flags of the results are added to VSTAT; nothing else changes. -/
def Positions (i : Instr) (srcs : List Nat) (d z : Nat) (pre : State → Prop) (count : State → Nat)
    (val : State → Nat → Option Res) : Prop :=
  ∀ s, VectorReady i srcs [d] s → pre s → ∃ t, VectorDone i s t ∧ OnlyBytes s t d (count s * z) ∧
    (∀ k, k < count s → elem t.core d z k = match val s k with
      | some r => r.1 % 2 ^ (8 * z)
      | none => elem s.core d z k) ∧
    t.core.vec = flagsAdded s ((List.range (count s)).map (val s))

/-- Element positions of a type (R220). -/
def places (ty : BitVec 3) (s : State) : Nat := s.core.vec.rows * s.core.vec.rowb / tySize ty
/-- Columns of a type (R220). -/
def columns (ty : BitVec 3) (s : State) : Nat := s.core.vec.rowb / tySize ty

/-- Position k is selected by mask register m; m0 selects every position (R221). -/
def chosen (s : State) (m : BitVec 3) (k : Nat) : Bool := m == 0 || (mget 0 s.core.vec.m m.toNat).getLsbD k

/-- An element-wise instruction (R236): at each selected position the result of the old elements of va, vb and vd. -/
def Elementwise (i : Instr) (f : VA) (srcs : List Nat) (op : Nat → Nat → Nat → Res) : Prop :=
  let z := tySize f.ty
  Positions i srcs f.vd.toNat z (fun _ => True) (places f.ty) (fun s k =>
    if chosen s f.m k then
      some (op (elem s.core f.va.toNat z k) (elem s.core f.vb.toNat z k) (elem s.core f.vd.toNat z k)) else none)

/-- An element-wise instruction whose second operand is a scalar register, taken at the type's width (R222). -/
def ScalarWise (i : Instr) (f : VA) (srcs : List Nat) (op : Nat → Nat → Nat → Res) : Prop :=
  let z := tySize f.ty
  Positions i srcs f.vd.toNat z (fun _ => True) (places f.ty) (fun s k =>
    if chosen s f.m k then
      some (op (elem s.core f.va.toNat z k) ((mget 0 s.core.vec.s (f.vb.toNat % 8)).toNat % 2 ^ (8 * z))
        (elem s.core f.vd.toNat z k)) else none)

/-- A pattern of w bits as a signed integer. -/
def sgn (w v : Nat) : Int := (BitVec.ofNat w v).toInt

/-- An exact integer in w bits: it wraps, or with the saturate bit clamps, and SAT says that it did (R55). -/
def intResult (w : Nat) (sat : Bool) (i : Int) : Res :=
  let c := max (-(2 ^ (w - 1))) (min (2 ^ (w - 1) - 1) i)
  if sat then ((BitVec.ofInt w c).toNat, { sat := c != i }) else ((BitVec.ofInt w i).toNat, {})

/-- The float operation of an F type, in the mode of v, or the exact integer operation of an I type (R236). -/
def typed (f : VA) (fl : Fmt → Nat → Bool → Machine.Num → Machine.Num → Machine.Num → Res) (it : Int → Int → Int → Int) (a b d : Nat) : Res :=
  match tyFmt f.ty with
  | some t => fl t f.v.toNat f.sat (t.decode a) (t.decode b) (t.decode d)
  | none =>
    let w := 8 * tySize f.ty
    intResult w f.sat (it (sgn w a) (sgn w b) (sgn w d))

/-- The greater or lesser of two elements (R62, Table 11.4). -/
def extreme (f : VA) (isMax : Bool) (a b : Nat) : Res :=
  match tyFmt f.ty with
  | some t => t.minmax isMax a b (t.decode a) (t.decode b)
  | none =>
    let w := 8 * tySize f.ty
    ((BitVec.ofInt w ((if isMax then max else min) (sgn w a) (sgn w b))).toNat, {})

/-- The value of a VC lane (R19, R27): its literal, or its operand, which the engine has captured or takes from a register or the
reply queue. -/
def VcOperand (f : VC) (s s1 : State) (v : Word) : Prop :=
  (f.lit ≠ .none ∧ v = immediate (0 : BitVec 6) f.lit ∧ s1 = s) ∨ (f.lit = .none ∧ engOperand .vector false f.xs s = .ok v s1)

end Sys2Proof.Claims

/-! ### Engine operands -/

/-- R27: an operand of an engine command is the value captured at its push; a field of 62 pops the reply queue once, at the head, and
the popped value stays with the command; while the reply queue is empty the command waits. -/
def Sys2Proof.Claims.EngineOperands : Prop := ∀ (q : Queue) (s : State) (k : Cmd) (r : BitVec 6), (s.core.queue q).headCmd = some k →
  (∀ v, k.opa = some v → engOperand q false r s = .ok v s) ∧ (∀ v, k.opb = some v → engOperand q true r s = .ok v s) ∧
  (k.opa = none → r = 62 →
    (s.core.sh.replies = [] → engOperand q false r s = .error (.wait .replyQueue false) s) ∧
    (∀ e rest, s.core.sh.replies = e :: rest → ∃ t, engOperand q false r s = .ok e.value t ∧ t.core.sh.replies = rest ∧
      (t.core.queue q).headCmd = some { k with opa := some e.value } ∧ engOperand q false r t = .ok e.value t))

/-! ### The vector engine -/

/-- R224, R228, R235: VSHAPE, VROT, VADV, VSETS and REP set their registers; VCNT raises f0, inside the executing phase at its
commit; nothing else changes. -/
def Sys2Proof.Claims.VectorControlResults : Prop := ∀ (f : VC) (s : State),
  let vec := fun (s : State) (v : VecState) => { s with core := { s.core with vec := v, ended := .done } }
  exec (.vshape f) s = .next (vec s { s.core.vec with rows := f.c1.toNat + 1, rowb := 32 * (f.c2.toNat + 1) }) ∧
  exec (.vrot f) s = .next (vec s { s.core.vec with vbase := f.c1.toNat % 16 }) ∧
  exec (.vadv f) s = .next (vec s { s.core.vec with vbase := (s.core.vec.vbase + f.c1.toNat) % 16 }) ∧
  (∀ s1 v, VcOperand f s s1 v →
    exec (.vsets f) s = .next (vec s1 { s1.core.vec with s := mset 0 s1.core.vec.s f.c1.toNat v })) ∧
  (f.c3 = 0 → exec (.rep f) s = .next { s with core := { s.core with
    rep := some ⟨f.c1.toNat + 1, f.c2, 0⟩, ended := .done } }) ∧
  (∀ s1 v, f.c3 ≠ 0 → VcOperand f s s1 v → v.toNat ≤ 64 → exec (.rep f) s = .next { s1 with core := { s1.core with
    rep := some ⟨v.toNat, f.c2, 0⟩, ended := .done } }) ∧
  (¬InPhaseV (.vcnt f) s → exec (.vcnt f) s = .next { s with core := { s.core with
    flags := mset 0 s.core.flags 0 (mget 0 s.core.flags 0 + 1), ended := .done } }) ∧
  (∀ e, InPhaseV (.vcnt f) s → s.core.ph.exec = some e → exec (.vcnt f) s = .next { s with core := { s.core with
    ph := { s.core.ph with exec := some { e with counts := e.counts ++ [(0, 1)] } }, ended := .done } })

/-- R236, R237: the element-wise arithmetic writes the selected positions of vd alone: in an F type the operation of Chapter 4 in the
mode of v, in an I type the exact result, wrapped or with the saturate bit clamped; the flags of the selected positions join VSTAT. -/
def Sys2Proof.Claims.VectorArithmeticResults : Prop := ∀ f : VA,
  let a := f.va.toNat
  let b := f.vb.toNat
  let d := f.vd.toNat
  Elementwise (.vadd f) f [a, b] (typed f (fun t m s x y _ => t.add m s x y) (fun x y _ => x + y)) ∧
  Elementwise (.vsub f) f [a, b] (typed f (fun t m s x y _ => t.sub m s x y) (fun x y _ => x - y)) ∧
  Elementwise (.vmul f) f [a, b] (typed f (fun t m s x y _ => t.mul m s x y) (fun x y _ => x * y)) ∧
  Elementwise (.vfma f) f [a, b, d] (typed f (fun t m s x y z => t.fma m s x y z) (fun x y z => x * y + z)) ∧
  Elementwise (.vdiv f) f [a, b] (typed f (fun t m s x y _ => t.div m s x y) (fun x y _ => if y = 0 then -1 else x.tdiv y)) ∧
  Elementwise (.vmin f) f [a, b] (fun x y _ => extreme f false x y) ∧
  Elementwise (.vmax f) f [a, b] (fun x y _ => extreme f true x y) ∧
  Elementwise (.vabs f) f [a] (fun x _ _ => match tyFmt f.ty with
    | some t => vSign t x false
    | none => intResult (8 * tySize f.ty) f.sat (sgn (8 * tySize f.ty) x).natAbs) ∧
  Elementwise (.vneg f) f [a] (fun x _ _ => match tyFmt f.ty with
    | some t => vSign t x (!(t.decode x).neg)
    | none => intResult (8 * tySize f.ty) f.sat (-sgn (8 * tySize f.ty) x)) ∧
  ScalarWise (.vadds f) f [a] (typed f (fun t m s x y _ => t.add m s x y) (fun x y _ => x + y)) ∧
  ScalarWise (.vmuls f) f [a] (typed f (fun t m s x y _ => t.mul m s x y) (fun x y _ => x * y)) ∧
  ScalarWise (.vfmas f) f [a, d] (typed f (fun t m s x y z => t.fma m s x y z) (fun x y z => x * y + z))

/-- R236, R239, R253 to R257: the bitwise instructions, the shifts by the low bits of B, VSEL, VPERM, VTRANS, VBCAST, VGATH and VMOV
write the elements that their entries give, and no flag.
Completion, exec answering a next state under conditions on the state and the operands alone, is stated for: VAND, VOR, VXOR,
VSHL, VSHR, VSAR, VSEL, VPERM, VTRANS, VBCAST, VGATH, VMOV. -/
def Obligations.VectorLogicAndMoveResults : Prop := ∀ f : VA,
  let z := tySize f.ty
  let w := 8 * z
  let a := f.va.toNat
  let b := f.vb.toNat
  let d := f.vd.toNat
  let el := fun (s : State) (r k : Nat) => elem s.core r z k
  Elementwise (.vand f) f [a, b] (fun x y _ => (x &&& y, {})) ∧
  Elementwise (.vor f) f [a, b] (fun x y _ => (x ||| y, {})) ∧
  Elementwise (.vxor f) f [a, b] (fun x y _ => (x ^^^ y, {})) ∧
  Elementwise (.vshl f) f [a, b] (fun x y _ => ((BitVec.ofNat w x <<< (y % w)).toNat, {})) ∧
  Elementwise (.vshr f) f [a, b] (fun x y _ => ((BitVec.ofNat w x >>> (y % w)).toNat, {})) ∧
  Elementwise (.vsar f) f [a, b] (fun x y _ => (((BitVec.ofNat w x).sshiftRight (y % w)).toNat, {})) ∧
  Positions (.vsel f) [a, b] d z (fun _ => True) (places f.ty) (fun s k =>
    some (if chosen s f.m k then el s a k else el s b k, {})) ∧
  (f.m = 0 → IllegalField .vector (.vsel f)) ∧
  Positions (.vperm f) [a, b] d z (fun s => z ∣ s.core.vec.rowb) (places f.ty) (fun s k => if chosen s f.m k then
    some (el s a (k / columns f.ty s * columns f.ty s + el s b k % columns f.ty s), {}) else none) ∧
  Positions (.vtrans f) [a] d z (fun s => 0 < s.core.vec.rows ∧ z ∣ s.core.vec.rowb) (places f.ty) (fun s k =>
    some (el s a (k % s.core.vec.rows * columns f.ty s + k / s.core.vec.rows), {})) ∧
  (f.v ≠ 3 → Positions (.vbcast f) [a] d z (fun s => z ∣ s.core.vec.rowb) (places f.ty) (fun s k => if chosen s f.m k then
    some (el s a (if f.v = 0 then k % columns f.ty s else if f.v = 1 then k / columns f.ty s * columns f.ty s else 0), {})
    else none)) ∧
  (f.v = 3 → Positions (.vbcast f) [] d z (fun _ => True) (places f.ty) (fun s k => if chosen s f.m k then
    some ((mget 0 s.core.vec.s (b % 8)).toNat % 2 ^ w, {}) else none)) ∧
  Positions (.vgath f) [a, b] d 1 (fun s => 0 < s.core.vec.rows) (fun s => s.core.vec.rows * s.core.vec.rowb) (fun s k =>
    some (elem s.core a 1 (el s b (k / s.core.vec.rowb) % s.core.vec.rows * s.core.vec.rowb + k % s.core.vec.rowb), {})) ∧
  (f.v = 0 → Positions (.vmov f) [a] d z (fun _ => True) (places f.ty) (fun s k =>
    if chosen s f.m k then some (el s a k, {}) else none)) ∧
  (f.v = 1 → Positions (.vmov f) [] d 1 (fun _ => True) (fun _ => 256) (fun s k =>
    some ((if a = 0 then 255 else (mget 0 s.core.vec.m a).toNat / 2 ^ (8 * k)), {}))) ∧
  (f.v = 2 → f.vd ≠ 0 → ∀ s, VectorReady (.vmov f) [a] [] s → ∃ t, VectorDone (.vmov f) s t ∧ t.core.win = s.core.win ∧
    t.core.vec = { s.core.vec with m := t.core.vec.m } ∧
    (∀ k, k < 2048 → bit (mget 0 t.core.vec.m d) k = (elem s.core a 1 (k / 8)).testBit (k % 8)) ∧
    ∀ j, j ≠ d → mget 0 t.core.vec.m j = mget 0 s.core.vec.m j)

namespace Sys2Proof.Claims

/-- A compare (R238): mask vd takes the comparison at the selected positions and zero at every other; INV joins VSTAT where a selected
position raises it; no vector register changes. -/
def Compares (i : Instr) (f : VA) (test : Nat → Nat → Bool × Bool) : Prop :=
  ∀ s, VectorReady i [] [] s → f.vd ≠ 0 → ∃ t, VectorDone i s t ∧ t.core.win = s.core.win ∧
    (∀ k, k < 2048 → (bit (mget 0 t.core.vec.m f.vd.toNat) k = true ↔ k < places f.ty s ∧ chosen s f.m k = true ∧
      (test (elem s.core f.va.toNat (tySize f.ty) k) (elem s.core f.vb.toNat (tySize f.ty) k)).1 = true)) ∧
    (∀ j, j ≠ f.vd.toNat → mget 0 t.core.vec.m j = mget 0 s.core.vec.m j) ∧
    (∀ j, j < 6 → (bit t.core.vec.vstat j = true ↔ bit s.core.vec.vstat j = true ∨ (j = 0 ∧ ∃ k, k < places f.ty s ∧ chosen s f.m k = true ∧
      (test (elem s.core f.va.toNat (tySize f.ty) k) (elem s.core f.vb.toNat (tySize f.ty) k)).2 = true))) ∧
    t.core.vec = { s.core.vec with m := t.core.vec.m, vstat := t.core.vec.vstat }

/-- A comparison of two elements with whether it raises INV: of exact values in an F type, of signed integers in an I type. -/
def comparison (f : VA) (fl : Machine.Num → Machine.Num → Bool) (quiet : Bool) (it : Int → Int → Bool) (a b : Nat) : Bool × Bool :=
  match tyFmt f.ty with
  | some t =>
    let x := t.decode a
    let y := t.decode b
    (!x.isNan && !y.isNan && fl x y, if quiet then x.isSnan || y.isSnan else x.isNan || y.isNan)
  | none => (it (sgn (8 * tySize f.ty) a) (sgn (8 * tySize f.ty) b), false)

/-- The positions of group g of a reduction, ascending (R241): row g, column g, or the whole register. -/
def groupOf (v : BitVec 2) (rows cols g : Nat) : List Nat :=
  if v = 0 then (List.range cols).map (fun c => g * cols + c)
  else if v = 1 then (List.range rows).map (fun r => r * cols + g) else List.range (rows * cols)

/-- The number of groups (R241). -/
def groups (f : VA) (s : State) : Nat := if f.v = 0 then s.core.vec.rows else if f.v = 1 then columns f.ty s else 1

/-- The selected positions of a group, ascending. -/
def memberPlaces (f : VA) (s : State) (g : Nat) : List Nat :=
  (groupOf f.v s.core.vec.rows (columns f.ty s) g).filter (fun k => chosen s f.m k)

/-- The selected elements of a group of va, in their order. -/
def members (f : VA) (s : State) (g : Nat) : List Nat :=
  (memberPlaces f s g).map (elem s.core f.va.toNat (tySize f.ty))

/-- A reduction writes result g at position g of vd (R241). -/
def Reduces (i : Instr) (f : VA) (op : List Nat → Res) : Prop :=
  Positions i [f.va.toNat] f.vd.toNat (tySize f.ty) (fun s => tySize f.ty ∣ s.core.vec.rowb) (groups f)
    (fun s g => some (op (members f s g)))

/-- Sum of signed elements (R242). -/
def total (w : Nat) (es : List Nat) : Int := (es.map (sgn w)).sum

/-- `p` holds the greatest key of a list of places, the first of equals (R244, R245). -/
def FirstBest (key : Nat → Int) (ps : List Nat) (p : Nat) : Prop :=
  p ∈ ps ∧ ∀ q ∈ ps, key q < key p ∨ (key q = key p ∧ p ≤ q)

/-- Element k of the run of registers from r (R246): it goes on in the next register after 2 KiB. -/
def runElem (c : Core) (r z k : Nat) : Nat := elem c (r + k * z / 2048) z (k % (2048 / z))

end Sys2Proof.Claims

/-- R238: the compares write the mask register named by vd, one bit to a selected position; VCMPEQ raises INV for a signalling NaN alone,
VCMPLT and VCMPLE for any NaN, of a selected position. -/
def Sys2Proof.Claims.VectorCompareResults : Prop := ∀ f : VA,
  Compares (.vcmpeq f) f (comparison f numEq true (fun a b => a == b)) ∧
  Compares (.vcmplt f) f (comparison f numLt false (fun a b => a < b)) ∧
  Compares (.vcmple f) f (comparison f (fun a b => numLt a b || numEq a b) false (fun a b => a ≤ b)) ∧
  (f.vd = 0 ∨ 8 ≤ f.vd.toNat → ∀ i ∈ [Instr.vcmpeq f, .vcmplt f, .vcmple f], IllegalField .vector i)

/-- R240, R73, R74: a special function is computed on the element widened to FP32 and rounded once more with RNE for a narrow type; of its
flags only INV, DZ and OVF join VSTAT. -/
def Sys2Proof.Claims.VectorSpecialFunctionResults : Prop := ∀ f : VA, isF f.ty = true →
  let through := fun (fn : Machine.Num → Res) (a : Nat) (_ _ : Nat) =>
    let t := (tyFmt f.ty).getD fp32
    let wide : Res := if f.ty = 0 then (a, {}) else convFF t fp32 0 false (t.decode a)
    let y := fn (fp32.decode wide.1)
    let back : Res := if f.ty = 0 then (y.1, {}) else convFF fp32 t 0 false (fp32.decode y.1)
    let fl := (wide.2.or y.2).or back.2
    ((back.1, { inv := fl.inv, dz := fl.dz, ovf := fl.ovf }) : Res)
  let a := f.va.toNat
  Elementwise (.vexp2 f) f [a] (through fexp2) ∧ Elementwise (.vlog2 f) f [a] (through flog2) ∧
  Elementwise (.vrcp f) f [a] (through frcp) ∧ Elementwise (.vrsqrt f) f [a] (through frsqrt) ∧
  Elementwise (.vtanh f) f [a] (through ftanh) ∧ Elementwise (.vsinpi f) f [a] (through (fsincos false)) ∧
  Elementwise (.vcospi f) f [a] (through (fsincos true))

/-- R241 to R245: the reductions, VSCAN, VTOPK and VARGMAX. An integer sum is exact over the selected members, then wrapped or clamped; a
float sum adds them in ascending order; the extremes fold; VARGMAX gives the first place of the greatest key, all ones for
an empty group; VTOPK gives k places of greatest keys, lower places first among equals. -/
def Sys2Proof.Claims.VectorReductionResults : Prop := ∀ f : VA,
  let z := tySize f.ty
  let w := 8 * z
  let a := f.va.toNat
  Reduces (.vrsum f) f (fun es => match tyFmt f.ty with
    | some _ => sumGroup f es
    | none => intResult w f.sat (total w es)) ∧
  Reduces (.vrmax f) f (fun es => extremeGroup f true es) ∧
  Reduces (.vrmin f) f (fun es => extremeGroup f false es) ∧
  Positions (.vscan f) [a] f.vd.toNat z (fun s => z ∣ s.core.vec.rowb) (places f.ty) (fun s k => if chosen s f.m k then
    let row := groupOf 0 s.core.vec.rows (columns f.ty s) (k / columns f.ty s)
    ((scanRow f none ((row.filter (fun i => chosen s f.m i)).map (fun i => (i, elem s.core a z i)))).find?
      (fun r => r.1 == k)).map (·.2) else none) ∧
  (∀ s, VectorReady (.vargmax f) [a] [f.vd.toNat] s → z ∣ s.core.vec.rowb → ∃ t, VectorDone (.vargmax f) s t ∧
    t.core.vec = s.core.vec ∧ OnlyBytes s t f.vd.toNat (4 * min (groups f s) 512) ∧ ∀ g, g < groups f s → g < 512 →
      (memberPlaces f s g = [] → elem t.core f.vd.toNat 4 g = 0xFFFFFFFF) ∧
      (memberPlaces f s g ≠ [] → ∃ i, i < (groupOf f.v s.core.vec.rows (columns f.ty s) g).length ∧
        elem t.core f.vd.toNat 4 g = i ∧ FirstBest (fun p => keyOf f.ty (elem s.core a z p)) (memberPlaces f s g)
          ((groupOf f.v s.core.vec.rows (columns f.ty s) g).getD i 0))) ∧
  (∀ s, VectorReady (.vtopk f) [a] [f.vd.toNat] s →
    let sk := mget 0 s.core.vec.s (f.vb.toNat % 8)
    let k := sk.toNat % 2 ^ 16
    let bias := sk.toNat / 2 ^ 32
    let all := (List.range (places f.ty s)).filter (fun p => chosen s f.m p)
    let key := fun p => keyOf f.ty (elem s.core a z p)
    sk.toNat / 2 ^ 16 % 2 ^ 16 = 0 → 0 < k → k ≤ 512 → k ≤ places f.ty s → ∃ (t : State) (best : List Nat),
      VectorDone (.vtopk f) s t ∧ t.core.vec = s.core.vec ∧ OnlyBytes s t f.vd.toNat (4 * k) ∧ best.Nodup ∧
      best.length = min k all.length ∧ (∀ p ∈ best, p ∈ all) ∧
      (∀ p ∈ best, ∀ q ∈ all, q ∉ best → key q < key p ∨ (key q = key p ∧ p < q)) ∧
      (if f.v = 0 then best.Pairwise (· < ·) else best.Pairwise (fun p q => key q < key p ∨ (key q = key p ∧ p < q))) ∧
      (∀ j, j < best.length → elem t.core f.vd.toNat 4 j = (best.getD j 0 + bias) % 2 ^ 32) ∧
      ∀ j, best.length ≤ j → j < k → elem t.core f.vd.toNat 4 j = 0xFFFFFFFF)

/-- R246 to R249: VCVT and VCVTSR write the converted elements into the run of registers from vd, VCVTSR advancing SRCTR by the number of
positions; VQMX writes packed elements to vd and their scales to the next register, VDQMX the values that they stand for.
Completion, exec answering a next state under conditions on the state and the operands alone, is stated for: VCVT, VCVTSR, VQMX,
VDQMX. -/
def Obligations.VectorConversionResults : Prop := ∀ f : VA,
  let z := tySize f.ty
  let dt : BitVec 3 := f.vb.setWidth 3
  let zd := tySize dt
  let a := f.va.toNat
  let d := f.vd.toNat
  let regs := fun (s : State) => (List.range ((places f.ty s * zd + 2047) / 2048)).map (fun i => d + i)
  let outside := fun (s t : State) => ∀ x, (∀ r ∈ regs s, x < vregOff (physReg s.core.vec.vbase r) ∨
    vregOff (physReg s.core.vec.vbase r) + 2048 ≤ x) → t.core.win.read x = s.core.win.read x
  (∀ s, VectorReady (.vcvt f) [a] (regs s) s → d + (places f.ty s * zd + 2047) / 2048 ≤ 32 → places f.ty s ≤ 2048 →
    let val := fun k => if chosen s f.m k then some (convElem f.ty dt (bit f.vb 3) f.v.toNat f.sat (elem s.core a z k)) else none
    ∃ t, VectorDone (.vcvt f) s t ∧ outside s t ∧ t.core.vec = flagsAdded s ((List.range (places f.ty s)).map val) ∧
      ∀ k, k < places f.ty s → runElem t.core d zd k = match val k with
        | some r => r.1 % 2 ^ (8 * zd)
        | none => runElem s.core d zd k) ∧
  (∀ s, VectorReady (.vcvtsr f) [a] (regs s) s → d + (places f.ty s * zd + 2047) / 2048 ≤ 32 → places f.ty s ≤ 2048 →
    let val := fun k => if chosen s f.m k then
      some (srElem ((tyFmt f.ty).getD fp32) ((tyFmt dt).getD fp32) f.sat (s.core.vec.srctr + BitVec.ofNat 64 k) (elem s.core a z k))
      else none
    ∃ t, VectorDone (.vcvtsr f) s t ∧ outside s t ∧ t.core.vec = { flagsAdded s ((List.range (places f.ty s)).map val) with
        srctr := s.core.vec.srctr + BitVec.ofNat 64 (places f.ty s) } ∧
      ∀ k, k < places f.ty s → runElem t.core d zd k = match val k with
        | some r => r.1 % 2 ^ (8 * zd)
        | none => runElem s.core d zd k) ∧
  (∀ s, VectorReady (.vqmx f) [a] [d, d + 1] s → d < 31 → 32 ∣ places f.ty s → places f.ty s ≤ 2048 →
    let mf := mxFmt f.vb.toNat
    let t0 := (tyFmt f.ty).getD fp32
    let blk := fun b => quantBlock mf f.v.toNat ((List.range 32).map (fun j => t0.decode (elem s.core a z (32 * b + j))))
    ∃ t, VectorDone (.vqmx f) s t ∧
      t.core.vec = flagsAdded s ((List.range (places f.ty s / 32)).map (fun b => some (0, (blk b).2.2))) ∧
      (∀ b, b < places f.ty s / 32 → elem t.core (d + 1) 1 b = (blk b).1 % 256) ∧
      (∀ x, (∀ r ∈ [d, d + 1], x < vregOff (physReg s.core.vec.vbase r) ∨
        vregOff (physReg s.core.vec.vbase r) + 2048 ≤ x) → t.core.win.read x = s.core.win.read x) ∧
      ∀ b j, b < places f.ty s / 32 → j < 32 →
        (∀ c, c < places f.ty s / 32 → (blk c).2.1.length = 32 ∧ ∀ e ∈ (blk c).2.1, e < 2 ^ mf.width) →
        leNat (regBytes t.core d 0 2048) / 2 ^ (mf.width * (32 * b + j)) % 2 ^ mf.width = (blk b).2.1.getD j 0) ∧
  (Positions (.vdqmx f) [a, a + 1] d z (fun s => a < 31 ∧ 32 ∣ places f.ty s) (places f.ty) (fun s k =>
    if chosen s f.m k then
      let mf := mxFmt f.vb.toNat
      let packed := leNat (regBytes s.core a 0 (places f.ty s * mf.width / 8))
      some (dqElem mf ((tyFmt f.ty).getD fp32) f.v.toNat f.sat (elem s.core (a + 1) 1 (k / 32))
        (packed / 2 ^ (mf.width * k) % 2 ^ mf.width))
    else none))

namespace Sys2Proof.Claims

/-- The tile offset of a VT variant (R250). -/
def vtOffset (f : VT) (s : State) : Nat :=
  if f.v = 0 then 0 else if f.v = 1 then 2048 else (mget 0 s.core.vec.s 0).toNat % 4096

/-- The tile and the bytes of a VT in tile form: the offset is legal, and no sector that it touches is consumed under a mark. -/
def TileReady (f : VT) (s : State) (o size : Nat) : Prop :=
  f.v ≠ 3 ∧ o = vtOffset f s ∧ size = s.core.vec.rows * s.core.vec.rowb ∧ o % 64 = 0 ∧ o + size ≤ 4096

end Sys2Proof.Claims

/-- R250 to R252: VLDT copies a tile's bytes, or those of mapped memory, into vd; VSTT copies va's bytes into the tile, or to mapped memory at
once outside a phase and at the commit inside one; a plain tag action empties the tile read, or fills the tile written.
Completion, exec answering a next state under conditions on the state and the operands alone, is stated for: VLDT, VSTT. -/
def Obligations.VectorTileAndMemoryResults : Prop := ∀ (f : VT) (s : State) (o size : Nat),
  (∀ k, k < size → ∀ mk, mk = s.core.tiles.mark ((4096 * f.tile.toNat + o + k) / 64) → bad s mk = false) →
  (VectorReady (.vldt f) [] [f.vd.toNat] s → TileReady f s o size → ¬InPhaseV (.vldt f) s → f.tag = 0 →
    ∃ t, VectorDone (.vldt f) s t ∧ t.core.vec = s.core.vec ∧ OnlyBytes s t f.vd.toNat size ∧
      ∀ k, k < size → elem t.core f.vd.toNat 1 k = (s.core.win.read (4096 * f.tile.toNat + o + k)).toNat) ∧
  (VectorReady (.vldt f) [] [f.vd.toNat] s → TileReady f s o size → ¬InPhaseV (.vldt f) s → f.tag = 2 → grantsOf s.core .vector = [] →
    openFor s.core false f.tile.toNat = true → firstWaiter s.core .vector f.tile.toNat = true →
    (∀ q, sourceWaiter s.core f.tile.toNat (· == 1) q = false) → mget 0 s.core.tiles.readers f.tile.toNat = 0 →
    ∃ t, exec (.vldt f) s = .next t ∧ t.core.ended = .done ∧ t.core.vec = s.core.vec ∧ bit t.core.tiles.tag f.tile.toNat = false ∧
      (∀ j, j < 64 → j ≠ f.tile.toNat → bit t.core.tiles.tag j = bit s.core.tiles.tag j) ∧
      ∀ k, k < size → elem t.core f.vd.toNat 1 k = (s.core.win.read (4096 * f.tile.toNat + o + k)).toNat) ∧
  (s.core.rep = none → (headOr s .vector (.vstt f)).deferred = false → TileReady f s o size → ¬InPhaseV (.vstt f) s → bit f.vd 4 = false →
    f.tag = 0 ∨ f.tag = 1 ∧ bit s.core.tiles.tag f.tile.toNat = false ∧ grantsOf s.core .vector = [] →
    ∃ t, exec (.vstt f) s = .next t ∧ t.core.ended = .done ∧ t.core.vec = s.core.vec ∧ t.hbm = s.hbm ∧
      (∀ x, x < 0x40000 → t.core.win.read x = if 4096 * f.tile.toNat + o ≤ x ∧ x < 4096 * f.tile.toNat + o + size then
        BitVec.ofNat 8 (elem s.core f.va.toNat 1 (x - (4096 * f.tile.toNat + o))) else s.core.win.read x) ∧
      bit t.core.tiles.tag f.tile.toNat = (if f.tag = 0 then bit s.core.tiles.tag f.tile.toNat else true)) ∧
  (∀ (s1 : State) (bs : List Byte) (va : Nat), f.v = 3 → size = s.core.vec.rows * s.core.vec.rowb →
    va = (mget 0 s.core.vec.s (f.tile.toNat % 8)).toNat → va % 64 = 0 → va < 2 ^ 52 →
    VectorReady (.vldt f) [] [f.vd.toNat] s → ¬InPhaseV (.vldt f) s → engBytes (vFault 0x70 0) false va size s = .ok bs s1 →
    s1.core.vec = s.core.vec → s1.core.rep = none →
    ∃ t, exec (.vldt f) s = .next t ∧ t.core.ended = .done ∧ t.hbm = s1.hbm ∧ OnlyBytes s1 t f.vd.toNat bs.length ∧
      ∀ k, k < bs.length → elem t.core f.vd.toNat 1 k = (bs.getD k 0).toNat) ∧
  (∀ (l : Loc) (s1 : State) (va : Nat), f.v = 3 → s.core.vec.rows * s.core.vec.rowb = 64 →
    va = (mget 0 s.core.vec.s (f.tile.toNat % 8)).toNat → va % 64 = 0 → va < 2 ^ 52 →
    s.core.rep = none → (headOr s .vector (.vstt f)).deferred = false → ¬InPhaseV (.vstt f) s → bit f.vd 4 = false →
    (headOr s .vector (.vstt f)).logged = false → (headOr s .vector (.vstt f)).sect = 0 →
    sdlHolds s.core 2 s.core.attrs.asn.toNat (va / 65536) = false → (tlbFind s.core (coreReq s (vFault 0x71 0)) va).isSome = true →
    tryTranslate (coreReq s (vFault 0x71 0)) va .write s = .ok (.ok l) s1 → Unheld s1 l → ∃ t, exec (.vstt f) s = .next t ∧ t.core.ended = .done ∧
      t.hbm = (locWrite l (BitVec.allOnes 64) (BitVec.ofNat 512 (leNat (regBytes s.core f.va.toNat 0 64))) {} s1).hbm ∧
      t.core.win = s.core.win)

/-- R224 to R226: under a pending repeat of n, repeat j of a three-register instruction does what the instruction does whose stepped
fields have risen by j, and all repeats but the last leave the next repeat index; a repeat of 0 does nothing and completes. -/
def Sys2Proof.Claims.RepeatStepsFields : Prop := ∀ (f : VA) (s : State) (r : RepState), s.core.rep = some r →
  let step := fun k (v : BitVec 5) => if bit r.step k then v + BitVec.ofNat 5 r.j else v
  let g := { f with vd := step 0 f.vd, va := step 1 f.va, vb := step 2 f.vb }
  ∀ i : VA → Instr, i ∈ [Instr.vadd, .vsub, .vmul, .vmin, .vmax, .vand, .vor, .vxor, .vshl, .vshr, .vsar, .vsel, .vperm] →
    let last := r.n ≤ r.j + 1
    let head := { headOr s .vector (i f) with grants := [], waits := none, tags := false }
    (r.n ≤ r.j → exec (i f) s = .next { s with core := { s.core with rep := none, ended := .done } }) ∧
    (∀ t, r.j < r.n → exec (i g) { s with core := { s.core with rep := none } } = .next t → t.core.ended = .done →
      exec (i f) s = .next { t with core := { t.core with
        rep := if last then none else some { r with j := r.j + 1 }
        vq := if last then s.core.vq else s.core.vq.setHead head
        ended := if last then .done else .again } })

namespace Sys2Proof.Claims

/-- The lanes that wait for xd, read a and then b, and change only the Shuttle. -/
def twoSourceLanes (f : SA) : List Instr :=
  [.add f, .sub f, .mul f, .mulh f, .and f, .or f, .xor f, .shl f, .shr f, .sar f, .min f, .max f, .sel f, .div f, .divu f, .rem f,
    .fadd f, .fsub f, .fmul f, .fdiv f, .fmin f, .fmax f]

/-- A register that blocks a read: an EMPTY one, or x62 with an empty reply queue (R30, R199). -/
def Blocks (r : BitVec 6) (h : Shuttle) : Prop := (r = 62 ∧ h.replies = []) ∨ (r ≠ 62 ∧ r ≠ 0 ∧ bit h.empty r.toNat = true)

/-- No producer of a register has a fault to deliver (R198). -/
def NoLateFault (r : BitVec 6) (h : Shuttle) : Prop := ∀ p ∈ h.pending, p.d = r → p.ready = true → p.fault = none

/-- Words 0 to 3 of a fault record of a Shuttle lane (Table 18.2). -/
def laneRecord (s : State) (code : Nat) (addr w4 w5 : Word) : List Word :=
  [BitVec.ofNat 64 (code * 2 ^ 56 + (if code < 0x20 then 0 else if code < 0x30 then 1 else if code < 0x40 then 2 else
      if code < 0x50 then 3 else 4) * 2 ^ 53 + 1 * 2 ^ 49 + 2 ^ 48 + (if s.core.ph.exec.isSome then 2 ^ 47 else 0) +
      (if s.core.sh.hmode then 2 ^ 46 else 0) + s.core.sh.lane),
    BitVec.ofNat 64 (s.core.sh.pc.toNat % 2 ^ 52), 0, addr, w4, w5, 0, 0]

/-- FREC takes the record unless it holds one; then MORE is set (R396). -/
def recorded (h : Shuttle) (rec : List Word) : Shuttle :=
  if h.frecHeld then { h with more := true } else { h with frec := rec, frecHeld := true }

/-- The Shuttle at its handler, with a resume point in EPC (R399); a taken branch and an MFENCE that waits are set aside for the return
to that point (log entry 17). -/
def inHandler (h : Shuttle) (pc : Word) (lane : Nat) : Shuttle :=
  let at' : Word := BitVec.ofNat 64 (pc.toNat % 2 ^ 52 / 32 * 32 + lane)
  { h with
    epc := at', savedAt := at', savedTarget := h.target, savedFence := h.fence
    hmode := true, pc := h.tvec, lane := 0, buf := none, ready := false, target := none, fence := .none }

/-- The condition of a wait word on bits 24:0 of its flag (Table 2.4): at least, equal, or all bits set. -/
def WaitCondition (w : BitVec 32) (flags : SMap (BitVec 32)) : Bool :=
  let fl := (mget 0 flags (w.toNat / 2 ^ 27)).toNat % 2 ^ 25
  let v := w.toNat % 2 ^ 25
  if w.toNat / 2 ^ 25 % 4 = 0 then decide ((fl + 2 ^ 25 - v) % 2 ^ 25 < 2 ^ 24)
  else if w.toNat / 2 ^ 25 % 4 = 1 then fl == v
  else (fl &&& v) == v

/-- A fault record is appended to the fault ring: 64 bytes at the slot of HEAD, where that is a sector that can be written, and HEAD
rises; a full ring drops it (R396). -/
def Appended (s t : State) (rec : List Word) : Prop :=
  (s.frq.full = true → t.hbm = s.hbm ∧ t.frq = s.frq) ∧
  (s.frq.full = false → t.frq = { s.frq with head := s.frq.head + 1 } ∧
    let at' := s.frq.base.toNat + 64 * (s.frq.head.toNat % s.frq.size.toNat)
    at' % 64 = 0 → retiredSector s (at' / 64) = false → ∀ a, t.hbm.read a = if at' ≤ a ∧ a < at' + 64 then
      BitVec.ofNat 8 ((rec.getD ((a - at') / 8) 0).toNat / 2 ^ (8 * ((a - at') % 8))) else s.hbm.read a)

end Sys2Proof.Claims

/-! ### Blocking reads, faults and the handler -/

/-- R30, R197, R198, R199: a lane whose first source is EMPTY has no effect: with t = 0 it waits, with t = 1 it raises EMPTY_TRAP; so it
waits for an EMPTY destination; a fault that a producer of the source has left is raised instead. -/
def Sys2Proof.Claims.EmptyRegisterRules : Prop := ∀ (f : SA) (s : State), ∀ i ∈ twoSourceLanes f,
  (Free f.d s.core.sh → Blocks f.a s.core.sh → NoLateFault f.a s.core.sh →
    (f.t = false → ∃ r, exec i s = .next { s with core := { s.core with ended := .stalled r } }) ∧
    (f.t = true → exec i s = .next (faultOn s.cur { code := .emptyTrap, engine := 1 } s))) ∧
  (¬Free f.d s.core.sh → NoLateFault f.d s.core.sh →
    exec i s = .next { s with core := { s.core with ended := .stalled .emptyDestination } }) ∧
  (∀ (p : Pending) (e : FaultInfo) (rest : List Pending), Free f.d s.core.sh → f.a ≠ 62 → f.a ≠ 0 → bit s.core.sh.empty f.a.toNat = true →
    s.core.sh.pending = p :: rest → p.d = f.a → p.ready = true → p.fault = some e → exec i s = .next (faultOn s.cur e s))

/-- R217, R395, R396, R399: TRAP on a running core that takes part in no joint operation raises TRAP with its code and X[a] in the
record: into FREC if that is free, else MORE, and to the fault ring; with a handler and outside it the core goes to TVEC with the next
lane in EPC, else it halts there; nothing else of the core changes. -/
def Sys2Proof.Claims.TrapTakesItsFault : Prop :=
  ∀ (f : SI) (s : State) (h : Shuttle) (v : Word), Reads f.a s.core.sh h v → s.core.run = .running → s.core.attrs.joint = false →
  let code : Word := match f.lit with
    | .none => f.imm.setWidth 64
    | l => immediate f.imm l
  let rec8 := laneRecord s 0x10 0 code v
  let next := if s.core.sh.lane < 7 then (s.core.sh.pc, s.core.sh.lane + 1) else (s.core.sh.pc + 32, 0)
  ∃ t, exec (.trap f) s = .next t ∧ Appended s t rec8 ∧ t.core.ended = .faulted .trap ∧
    (s.core.sh.tvec ≠ 0 → s.core.sh.hmode = false →
      t.core = { s.core with sh := inHandler (recorded s.core.sh rec8) next.1 next.2, ended := .faulted .trap }) ∧
    (s.core.sh.tvec = 0 ∨ s.core.sh.hmode = true →
      t.core.run = .haltedFault ∧ t.core.sh.pc = next.1 ∧ t.core.sh.lane = next.2 ∧ t.core.sh.frec = (recorded s.core.sh rec8).frec ∧
      t.core.sh.x = s.core.sh.x ∧ t.core.win = s.core.win ∧ ∀ q, t.core.queue q = s.core.queue q)

/-- R396, R397, R399: any precise fault of a lane, raised with nothing kept, leaves its record and takes the core to its handler with
the lane at fault as the resume point: registers, predicates, queues, tiles, flags, window and every byte outside the ring's entry
stay. -/
def Sys2Proof.Claims.LaneFaultEntersHandler : Prop := ∀ (s : State) (c : FaultCode) (addr : Word), s.core.run = .running →
  s.core.attrs.joint = false → s.core.sh.tvec ≠ 0 → s.core.sh.hmode = false → s.core.sh.lane < 8 → c ≠ .pageFault →
  let rec8 := laneRecord s c.code addr 0 0
  let t := faultOn s.cur { code := c, engine := 1, addr := addr } s
  Appended s t rec8 ∧
    t.core = { s.core with sh := inHandler (recorded s.core.sh rec8) s.core.sh.pc s.core.sh.lane, ended := .faulted c }

/-- R399: a core that stopped at a fault goes to its handler once TVEC names one, outside handler mode; any other core keeps its
state. -/
def Sys2Proof.Claims.HandlerEntryEvent : Prop := ∀ s : State, s.input.core = s.cur →
  (s.core.run = .haltedFault → s.core.sh.tvec ≠ 0 → s.core.sh.hmode = false → s.core.sh.lane < 8 →
    exec .handlerEntry s = .next { s with core := { s.core with
      run := .running, sh := inHandler s.core.sh s.core.sh.pc s.core.sh.lane, ended := .done } }) ∧
  ((s.core.run ≠ .haltedFault ∨ s.core.sh.tvec = 0 ∨ s.core.sh.hmode = true) →
    exec .handlerEntry s = .next { s with core := { s.core with ended := .done } })

/-! ### Bundles -/

/-- R16, R24, R133: the Shuttle's fetch of a mapped bundle in a line of the L1 instruction cache, or of memory, holds the decoded bundle;
one that does not decode raises the decode's fault at its lane, and an address off 32 bytes MISALIGNED at lane 0. -/
def Sys2Proof.Claims.FetchAndDecode : Prop :=
  (∀ s : State, s.core.sh.pc.toNat % 32 ≠ 0 → exec .bundleFetchDecode s =
    .next (faultOn s.cur { code := .misaligned, engine := 0, addr := s.core.sh.pc, producer := some (s.core.sh.pc, 0) } s)) ∧
  ∀ (s s1 s2 : State) (l : Loc) (x : Line), s.core.sh.pc.toNat < 2 ^ 52 → s.core.sh.pc.toNat % 32 = 0 →
  s.core.attrs.joint = false → translate (coreReq s fetchFault) s.core.sh.pc.toNat .exec s = .ok l s1 →
  (s1.core.l1i.find? (fun y => y.key == l.key) = some x ∧ s2 = s1) ∨
    (s1.core.l1i.find? (fun y => y.key == l.key) = none ∧ Untested s1 l ∧
      ∃ (r : SecRead) (s3 : State), locRead true 0 l s1 = (r, s3) ∧ r.e3 = false ∧ x = ⟨l.key, r.data, r.marks⟩ ∧
        s2 = { s3 with core := { s3.core with l1i := (x :: s3.core.l1i).take 1024 } }) →
  bad s x.marks = false →
  let ws := laneWords (sliceBytes x.data (s.core.sh.pc.toNat % 64) 32)
  (∀ b, decodeBundle s.core.sh.lane s.core.sh.rep ws = .ok b →
    exec .bundleFetchDecode s = .next (onlySh s2 { s2.core.sh with buf := some b })) ∧
  (∀ n e, decodeBundle s.core.sh.lane s.core.sh.rep ws = .error (n, e) → ∃ t, exec .bundleFetchDecode s = .next t ∧
    t.core.ended = .faulted (match e with
      | .illegalLane => .illegalLane
      | .illegalOp => .illegalOp
      | .illegalGuard => .illegalGuard) ∧
    (s.core.sh.frecHeld = false → (t.core.sh.frec.getD 0 0).toNat % 8 = n % 8 ∧
      (t.core.sh.frec.getD 1 0).toNat = s2.core.sh.pc.toNat % 2 ^ 52))

/-- R21 to R23, R352, R363, R399: a wait bundle goes on when bits 24:0 of its flag meet its condition, else it waits; a timed bundle when
the low 32 bits of the pick clock have reached its time, with the timed bundles of that time on other cores, or at once when its
context was restored while it waited; a halt bundle waits until the core has drained, and then ends the launch on it with its leaf
reached; with a phase open it raises BAD_OPERAND, and in handler mode it aborts the launch on the core. -/
def Sys2Proof.Claims.WaitTimedAndHaltBundles : Prop := ∀ (s : State), ¬LateFault s.core →
  let w := (bufferOf s.core.sh).word1
  (exec .waitBundle s = .next (if WaitCondition w s.core.flags then onlySh s { s.core.sh with ready := true }
    else { s with core := { s.core with ended := .stalled .condition } })) ∧
  (exec .timedBundle s = .next (if (s.pick.toNat + 2 ^ 32 - w.toNat) % 2 ^ 32 < 2 ^ 31 then
      onlySh { s with others := s.others.map (fun p => (p.1, if timedWaits w p.2 then dispatchTimed p.2 else p.2)) }
        { s.core.sh with ready := true, timedNow := false }
    else if s.core.sh.timedNow = true then onlySh s { s.core.sh with ready := true, timedNow := false }
    else { s with core := { s.core with ended := .stalled .condition } })) ∧
  (s.core.ph.openId = none → s.core.sh.hmode = false →
    ((∀ q, (s.core.queue q).entries = [] ∧ (s.core.queue q).kept = [] ∧ (s.core.queue q).ending = []) → s.core.ph.exec = none → s.core.mat.nest = none →
      s.core.mat.arrival = none → s.core.sh.empty = 0 → s.core.sdl = [] →
      ∃ t, exec .haltBundle s = .next t ∧ t.core = { s.core with run := .haltedDone, preempt := none, ended := .done } ∧ t.hbm = s.hbm ∧
        ∀ l ∈ s.host.launches, l.number = s.core.attrs.launch → l.leaves = [(s.cur, none)] →
          ∃ l' ∈ t.host.launches, l'.number = l.number ∧ l'.leaves = [(s.cur, some false)]) ∧
    ((s.core.sh.empty ≠ 0 ∨ s.core.sdl ≠ [] ∨ s.core.mat.nest.isSome = true ∨ ∃ q, (s.core.queue q).entries ≠ []) →
      exec .haltBundle s = .next { s with core := { s.core with ended := .stalled .drain } })) ∧
  (s.core.ph.openId ≠ none → s.core.sh.hmode = false → exec .haltBundle s =
    .next (faultOn s.cur { code := .badOperand, engine := 1, producer := some (s.core.sh.pc, 0) } s)) ∧
  (s.core.sh.hmode = true → ∃ t, exec .haltBundle s = .next t ∧ t.core.run = .haltedDone ∧ t.core.sh.hmode = false ∧
    t.core.ended = .done ∧ t.core.ph.exec = none ∧ ∀ q, (t.core.queue q).entries = [])

/-! ### What comes back to the Shuttle -/

/-- R196, R140, R358: the result of a pending long-latency instruction fills its destination and raises its flag; one that has not come
back waits; a held read of FSTAT comes back once no earlier AFADD is out. -/
def Sys2Proof.Claims.LongLatencyResults : Prop := ∀ (s : State) (before after : List Pending) (p : Pending), s.input.core = s.cur →
  s.core.sh.pending = before ++ p :: after → s.input.n = before.length →
  (p.ready = true → p.fault = none →
    let h := { put s.core.sh p.d p.value with pending := before ++ after }
    exec .longLatencyResult s = .next { s with core := { s.core with
      sh := h, flags := if p.flag < 32 then mset 0 s.core.flags p.flag (mget 0 s.core.flags p.flag + 1) else s.core.flags
      ended := .done } }) ∧
  (p.ready = false → p.redo = none →
    exec .longLatencyResult s = .next { s with core := { s.core with ended := .stalled .outcome } }) ∧
  (p.ready = false → p.redo = some .fstat → (∀ q ∈ before, q.ready = true) →
    exec .longLatencyResult s = .next { s with core := { s.core with
      sh := { s.core.sh with pending := before ++ { p with ready := true, redo := none } :: after }
      ended := .done } })

/-- R199, R302: an entry that the core holds enters the reply queue when it has room, in its order, and its flag rises; the oldest entry
of the outbound buffer does so unless its phase holds it. -/
def Sys2Proof.Claims.ReplyArrivals : Prop := ∀ (s : State), s.input.core = s.cur →
  (∀ (r : Reply) (rest : List Reply), s.core.sh.heldReplies = r :: rest → r.ticket = none →
    exec .replyQueueEntryArrival s = .next (if s.core.sh.replies.length < 16 then
      { s with core := { s.core with
        flags := if r.flag < 32 then mset 0 s.core.flags r.flag (mget 0 s.core.flags r.flag + 1) else s.core.flags
        sh := { s.core.sh with heldReplies := rest, replies := s.core.sh.replies ++ [{ src := r.src, value := r.value }] }
        ended := .done } }
      else { s with core := { s.core with ended := .stalled .replyQueue } })) ∧
  (∀ (v : Word) (held : Bool) (rest : List (Word × Bool)), s.core.outbuf = (v, held) :: rest →
    exec .replyBufferRelease s = .next (if held then { s with core := { s.core with ended := .stalled .marker } }
      else if s.core.sh.replies.length < 16 then
        { s with core := { s.core with outbuf := rest
                                       sh := { s.core.sh with replies := s.core.sh.replies ++ [{ src := 0, value := v }] }
                                       ended := .done } }
      else { s with core := { s.core with ended := .stalled .replyQueue } }))

namespace Sys2Proof.Claims

/-- A state marked as that of a completed lane, command or event. -/
def completed (t : State) : State := { t with core := { t.core with ended := .done } }

/-- The event completes with this state. -/
def Completes (i : Instr) (s t : State) : Prop := exec i s = .next (completed t)

/-- The lane, command or event waits, with no effect. -/
def Waits (i : Instr) (s : State) (r : Stall) : Prop := exec i s = .next { s with core := { s.core with ended := .stalled r } }

/-- The eight bytes at a physical address, as a number. -/
def entryAt (s : State) (a : Nat) : Nat := leNat (s.hbm.readN a 8)

/-- A sector that a walk may read: sound, unwritten or stored under code 16 (R106), and not under self-test. -/
def TableSector (s : State) (a : Nat) : Prop := Sound s (a / 64) ∧ Agrees s (a / 64) 16 ∧ rowTested s (a / 64) = false

/-- A well-formed pointer entry (Table 6.1). -/
def GoodPointer (e : Nat) : Prop := e % 256 = 1 ∧ e < 2 ^ 52 ∧ e / 2 ^ 15 * 2 ^ 15 < 0x6000000000

/-- The frame address, NLC and host bits of a leaf. -/
def frameOf (e : Nat) : Nat := e / 2 ^ 16 % 2 ^ 36 * 2 ^ 16

/-- A well-formed 64 KiB leaf with V = 1 (Table 6.1, R106). -/
def GoodLeaf (e : Nat) : Prop :=
  e.testBit 0 = true ∧ e.testBit 1 = false ∧ e.testBit 5 = true ∧ e.testBit 15 = false ∧ e / 2 ^ 52 % 8 = 0 ∧ e < 2 ^ 63 ∧
    e / 2 ^ 57 ≤ 16 ∧ (e.testBit 56 = false → e.testBit 55 = false ∧ frameOf e < 0x6000000000)

/-- The permission that an access needs (Table 6.1). -/
def Permitted (e : Nat) : Kind → Prop
  | .read => e.testBit 2 = true
  | .write | .replay => e.testBit 3 = true
  | .exec => e.testBit 4 = true
  | .atomic | .combine => e.testBit 2 = true ∧ e.testBit 3 = true

/-- The three table addresses of a walk (R104). -/
def level3 (s : State) (va : Nat) : Nat := s.core.attrs.tbase + 8 * (va / 2 ^ 40)
/-- The address of the level-2 entry. -/
def level2 (e3 va : Nat) : Nat := e3 / 2 ^ 15 * 2 ^ 15 + 8 * (va / 2 ^ 28 % 4096)
/-- The address of the level-1 entry. -/
def level1 (e2 va : Nat) : Nat := e2 / 2 ^ 15 * 2 ^ 15 + 8 * (va / 2 ^ 16 % 4096)

/-- No TLB or walk cache entry, and no refused answer, bears on a Shuttle access at an address. -/
def Uncached (s : State) (va : Nat) : Prop :=
  tlbFind s.core (coreReq s shData) va = none ∧ (dieOf s (s.cur / 192 % 4)).walk = [] ∧ s.core.refused = []

/-- A walk of the Shuttle reaches the level-1 entry e1 of an address. -/
def WalksTo (s : State) (va e1 : Nat) : Prop :=
  va < 2 ^ 52 ∧ s.core.attrs.tbase % 2 ^ 15 = 0 ∧ Uncached s va ∧
    let e3 := entryAt s (level3 s va)
    let e2 := entryAt s (level2 e3 va)
    GoodPointer e3 ∧ GoodPointer e2 ∧ e1 = entryAt s (level1 e2 va) ∧
    TableSector s (level3 s va) ∧ TableSector s (level2 e3 va) ∧ TableSector s (level1 e2 va)

/-- Background work is not paused by a checkpoint or a restore (R100). -/
def Unpaused (s : State) : Prop := s.host.ck.status ≠ 2 ∧ s.host.ck.status ≠ 3

end Sys2Proof.Claims

/-! ### Memory errors -/

/-- R82, R85, R89, Table 5.2, R408: what the check bits make of flipped bits: under RAW a word with one flip is corrected and a word
with two is E3; under another code up to 3 flipped Critical bits, 6 under an E3 code, are corrected and one more is E2 or E3, and one
flipped Minor bit fails its group alone. A read that finds such an error, no injection named: class 0 delivers the bytes
corrected; class 1 marks them E1, the elements of the failing groups without their Minor and Bulk bits; classes 2 and 3 deliver
the code's poison pattern with the poison mark, class 3 as E3; the home die counts the class. A sector of a retired frame is E3 whatever
it holds. -/
def Obligations.ErrorClassDelivery : Prop :=
  (∀ (sec : Nat) (fl : List Nat) (v : BitVec 512), fl ≠ [] → fl.Nodup → (∀ i ∈ fl, i < 512) →
    ((fl.map (· / 64)).Nodup → ∃ g, decodeFlips 0 sec fl v = (v, some ⟨0, fl.length, g, false⟩)) ∧
    (∀ i j, fl = [i, j] → i / 64 = j / 64 → ((decodeFlips 0 sec fl v).2.map (·.cls)) = some 3) ∧
    (∀ code, code ≠ 0 → (∀ i ∈ fl, isCritical code sec i = true) →
      let fix := if isE3Code code then 6 else 3
      (fl.length ≤ fix → ∃ g, decodeFlips code sec fl v = (v, some ⟨0, fl.length, g, false⟩)) ∧
      (fl.length = fix + 1 → ((decodeFlips code sec fl v).2.map (·.cls)) = some (if isE3Code code then 3 else 2))) ∧
    (∀ code i w hi lo g, code ≠ 0 → code ≠ 14 → fl = [i] → minorOf code = some (w, hi, lo, g) → lo ≤ (elemOf code w sec i).2 →
      (elemOf code w sec i).2 ≤ hi → ∃ k, (decodeFlips code sec fl v).2 = some ⟨1, 0, some [k], false⟩)) ∧
  (∀ (s : State) (reader : Option Nat) (src sec code : Nat) (e : FoundErr) (raw : BitVec 512) (r : SecRead) (t : State),
    injector s sec = none → readSector true reader src sec s = (r, t) →
    let m := mget {} s.sectors sec
    let die := stackOf (64 * sec) / 2
    (retiredSector s sec = false → homeLine s sec = none → m.code = some code →
      decodeFlips code sec m.flipped (sectorData s sec) = (raw, some e) →
      (e.cls = 0 → r = ⟨raw, m.marks, false⟩) ∧
      (e.cls = 1 → r.marks.e1 = true ∧ r.marks.poison = m.marks.poison ∧ r.e3 = false ∧ r.data = zeroE1 code sec e.groups raw) ∧
      (e.cls = 2 → r.data = poisonPattern code ∧ r.marks.poison = true ∧ r.e3 = false) ∧
      (e.cls = 3 → r.data = poisonPattern code ∧ r.marks.poison = true ∧ r.e3 = true) ∧
      min (mget 0 (dieOf s die).counters e.cls + 1) (2 ^ 64 - 1) ≤ mget 0 (dieOf t die).counters e.cls ∧
      t.hostMem = s.hostMem ∧ t.core = { s.core with sh := { s.core.sh with errinj := t.core.sh.errinj } }) ∧
    (retiredSector s sec = true → r.e3 = true ∧ r.marks.poison = true))

/-! ### Translation -/

/-- R103 to R111: a Shuttle access that no TLB holds walks three levels; a good leaf that permits it gives the frame's place and NLC, and
its A bit, and for a write its D bit, are set in the entry; no other byte of memory changes, and the TLB holds the leaf. -/
def Obligations.WalkOfAMappedPage : Prop := ∀ (s : State) (va e1 : Nat) (k : Kind), WalksTo s va e1 → GoodLeaf e1 → Permitted e1 k →
  (e1.testBit 56 = true → mget false s.host.portsDown (if e1.testBit 55 then 1 else 0) = false) →
  let a1 := level1 (entryAt s (level2 (entryAt s (level3 s va)) va)) va
  let new := e1 ||| 64 ||| (if k = .write ∨ k = .atomic ∨ k = .replay ∨ k = .combine then 128 else 0)
  ∃ t, translate (coreReq s shData) va k s = .ok
      (⟨e1.testBit 56, (if e1.testBit 56 = true ∧ e1.testBit 55 = true then 2 ^ 52 else 0) + frameOf e1 + va % 2 ^ 16, e1 / 2 ^ 57⟩ : Loc) t ∧
    (∀ a, t.hbm.read a = if a1 ≤ a ∧ a < a1 + 8 then BitVec.ofNat 8 (new / 2 ^ (8 * (a - a1))) else s.hbm.read a) ∧
    t.core = { s.core with tlb := t.core.tlb } ∧
    tlbFind t.core (coreReq s shData) va = some ⟨s.core.attrs.asn.toNat, va / 2 ^ 16 * 2 ^ 16, false, BitVec.ofNat 64 new, a1⟩

/-- R115, R118, Table 6.2: a Shuttle access to a page whose level-1 entry has V = 0 and H = 0 waits with no effect on its core; a page
request for it, unless one is outstanding, enters the request ring with the page's address, KIND, ASN, CORE and ENGINE. -/
def Sys2Proof.Claims.PageMissHoldsItsRequester : Prop := ∀ (s : State) (va e1 : Nat) (k : Kind), WalksTo s va e1 → e1 % 4 = 0 →
  (e1.testBit 56 = false → frameOf e1 < 0x6000000000) → s.pageReqs = [] → s.prefetch = [] → s.prq.full = false →
  let slot := s.prq.base.toNat + 32 * (s.prq.head.toNat % s.prq.size.toNat)
  let words := va % 2 ^ 52 + k.code * 2 ^ 112 + s.core.attrs.asn.toNat * 2 ^ 116 + s.cur * 2 ^ 128 + 1 * 2 ^ 138
  ∃ t, translate (coreReq s shData) va k s = .error (.wait .pageMiss false) t ∧
    t.core = s.core ∧ t.prq = { s.prq with head := s.prq.head + 1 } ∧
    t.pageReqs.map (fun q => (q.asn, q.page, q.waiters, q.written)) =
      [(s.core.attrs.asn.toNat, va / 2 ^ 16, [(s.cur, 1)], true)] ∧
    (s.cur < 1024 → slot % 32 = 0 → Sound s (slot / 64) → Agrees s (slot / 64) 16 → ∀ a, t.hbm.read a = if slot ≤ a ∧ a < slot + 24 then BitVec.ofNat 8 (words / 2 ^ (8 * (a - slot)))
      else if slot + 24 ≤ a ∧ a < slot + 32 then BitVec.ofNat 8 (s.pick.toNat / 2 ^ (8 * (a - slot - 24))) else s.hbm.read a)

/-- R117: MAPPED closes the request that it names, so that its requesters walk again; REFUSED closes it and each waiting requester then
raises PAGE_FAULT when it tries again; with no logged writes nothing else changes. -/
def Sys2Proof.Claims.PageRequestAnswers : Prop := ∀ (s : State) (q : PageReq) (n eng : Nat), (∀ k, (coreOf s k).sdl = []) → s.pageReqs = [q] →
  q.written = true → q.waiters = [(n, eng)] → n < 768 → q.asn < 4096 → q.page < 2 ^ 36 →
  s.input.value = BitVec.ofNat 64 (q.page * 2 ^ 16 + q.asn * 2 ^ 4) →
  Completes .pageRequestMapped s { s with pageReqs := [] } ∧
  ∃ t, exec .pageRequestRefused s = .next t ∧ t.pageReqs = [] ∧ t.hbm = s.hbm ∧
    (coreOf t n).refused = (coreOf s n).refused ++ [(eng, q.asn, q.page, q.cause)] ∧
    (∀ k, k ≠ n → k ≠ s.cur → coreOf t k = coreOf s k) ∧
    (n = s.cur → eng = 1 → s.core.refused = [] → q.asn = s.core.attrs.asn.toNat → ∀ va k, va / 2 ^ 16 = q.page → va < 2 ^ 52 → ∃ u,
      translate (coreReq t shData) va k t =
        .error (.fault { shData with code := .pageFault, addr := BitVec.ofNat 64 va, cause := q.cause } false) u)

/-! ### Pages on the move, background work -/

/-- R123: a bring-in of a host-held page, its port up, with a free frame and room for the release, copies the page into the frame,
writes its entry, releases the host frame; the entry is valid, in device memory, with A and D clear and its NLC and rights kept. With
no free frame it becomes a page request.
Completion, exec answering a next state under conditions on the state and the operands alone, is stated for: MIGRATION_BRING_IN. -/
def Obligations.PageBringIn : Prop :=
  (∀ (s : State) (b : BringIn) (pte a : Nat), s.bringIns[s.input.n]? = some b →
    peekLeaf s b.asn b.tbase (65536 * b.page) = some (pte, a) → pte.testBit 0 = false → pte.testBit 1 = true → pte.testBit 56 = true →
    let port := if pte.testBit 55 then 1 else 0
    let d := b.die
    let x := dieOf s d
    mget false s.host.portsDown port = false →
    (x.ffr.head ≠ x.ffr.tail → x.released.full = false →
      let slot := x.ffr.base.toNat + 8 * (x.ffr.tail.toNat % x.ffr.size.toNat)
      let (frame, s0) := readFrameAt x.ffr s
      (slot % 8 = 0 → Sound s (slot / 64) → frame = entryAt s slot / 65536 * 65536 ∧ s0 = s) ∧
      let s1 := copyIn (2 ^ 52 * port + frameOf pte) (pte / 2 ^ 57 % 64) frame { s0 with bringIns := s.bringIns.eraseIdx s.input.n }
      let s2 := devWrite 16 a (leBytes 8 (broughtEntry pte frame)) s1
      let s3 := devWrite 16 (x.released.base.toNat + 8 * (x.released.head.toNat % x.released.size.toNat)) (leBytes 8 (frameOf pte)) s2
      Completes .migrationBringIn s (withDie s3 d { dieOf s3 d with
        ffr := { x.ffr with tail := x.ffr.tail + 1 }, released := { x.released with head := x.released.head + 1 } })) ∧
    (x.ffr.head = x.ffr.tail → ∃ t, exec .migrationBringIn s = .next t ∧ t.core.ended = .done ∧
      t.bringIns = s.bringIns.eraseIdx s.input.n ∧ ∃ q ∈ t.pageReqs, q.asn = b.asn ∧ q.page = b.page)) ∧
  (∀ pte frame : Nat, pte < 2 ^ 64 → frame % 65536 = 0 → frame < 2 ^ 52 →
    let e := broughtEntry pte frame
    (∀ i, i ≤ 63 → e.testBit i = if i = 0 ∨ i = 5 then true
      else if (2 ≤ i ∧ i ≤ 4) ∨ (8 ≤ i ∧ i ≤ 14) ∨ (57 ≤ i ∧ i ≤ 62) then pte.testBit i
      else if 16 ≤ i ∧ i ≤ 51 then frame.testBit i else false)) ∧
  (∀ (s : State) (host nlc frame : Nat), frame % 65536 = 0 → frame < memEnd → retiredSector s (frame / 64) = false →
    let t := copyIn host nlc frame s
    host % 65536 = 0 → (∀ k, k < 1024 → mget false s.hostPoison (host / 64 + k) = false) → ∀ k, k < 1024 →
      (mget {} t.sectors (frame / 64 + k)).code = some nlc ∧
      ∀ i, i < 64 → t.hbm.read (frame + 64 * k + i) = s.hostMem.read (host + 64 * k + i))

/-- R124, R125: a swap channel with something to do and no group takes the eligible group of smallest priority key and marks it busy; with
a group it copies the group's next valid page to a host frame of a port that is up, copies it again while a write has reached it,
and then moves the page: its entry, its translations, the rings.
Completion, exec answering a next state under conditions on the state and the operands alone, is stated for: SWAP_OUT_PAGE. -/
def Obligations.PageSwapOut : Prop :=
  (∀ (s : State) (g : Nat), swapDue s s.input.die.toNat = true → mget none s.swaps s.input.die.toNat = none → chooseGroup s = some g →
    Completes .swapOutPage s (setGroup g 3 (readGroup g { s with
      swaps := mset none s.swaps s.input.die.toNat (some { group := g, next := 0, active := true }) })) ∧
    g < s.host.groupCount.toNat ∧ groupState s g = 1 ∧
    ∀ j, j < s.host.groupCount.toNat → groupState s j = 1 → groupField s g 4 4 ≤ groupField s j 4 4) ∧
  (∀ (s : State) (w : Swap) (tb pte a : Nat), let d := s.input.die.toNat
    let asn := groupField s w.group 8 2 % 2 ^ 12
    let (page, s1) := devRead (groupField s w.group 16 8 + 8 * w.next) 8 s
    let va := page % 2 ^ 52 / 65536 * 65536
    let frame := frameOf pte
    swapDue s d = true → mget none s.swaps d = some w → w.next < groupField s w.group 12 4 → tableOf s1 asn = some tb →
    peekLeaf s1 asn tb va = some (pte, a) → pte.testBit 0 = true → pte.testBit 56 = false →
    (∀ port : Nat, copyOf s1 2 (frame / 65536) = none →
      (port = frame / 65536 % 2 ∨ mget false s1.host.portsDown (frame / 65536 % 2) = true ∧ port = 1 - frame / 65536 % 2) →
      mget false s1.host.portsDown port = false → (dieOf s1 port).hfr.isEmpty = false →
      let (host, s2) := readFrameAt (dieOf s1 port).hfr s1
      let s3 := withDie s2 port { dieOf s2 port with hfr := (dieOf s1 port).hfr.take }
      let s4 := copyOut frame (2 ^ 52 * port + host) s3
      let c : FrameCopy :=
        { kind := 2, old := frame / 65536, new := (2 ^ 52 * port + host) / 65536, pteAddr := a, pte := pte, asn := asn, va := va }
      Completes .swapOutPage s { s4 with copies := s4.copies ++ [c] }) ∧
    (∀ c, copyOf s1 2 (frame / 65536) = some c → mget false s1.host.portsDown (c.new / 2 ^ 36) = false →
      (c.hit = true → Completes .swapOutPage s (copyOut frame (65536 * c.new) (setCopy { c with hit := false, restarts := c.restarts + 1 } s1))) ∧
      (c.hit = false → (dieOf s1 d).ffr.full = false →
        let host := 65536 * (c.new % 2 ^ 36)
        let s2 := devWrite 16 a (leBytes 8 (swappedEntry pte (c.new / 2 ^ 36) host)) (endCopy c s1)
        let s3 := resetSpan (swapReq d asn tb) c.va (invalidatePage c.asn c.va s2)
        let f := (dieOf s3 d).ffr
        let s4 := devWrite 16 (f.slot f.head 8) (leBytes 8 (65536 * c.old)) s3
        let s5 := withDie s4 d { dieOf s4 d with ffr := { f with head := f.head + 1 } }
        let left : Swap := { w with next := w.next + 1, active := decide ((dieOf s5 d).ffr.count < s5.host.swapHigh.toNat) }
        w.next + 1 < groupField s5 w.group 12 4 → Completes .swapOutPage s { s5 with swaps := mset none s5.swaps d (some left) })))

/-- R96 to R98: with none under way, a turn at the requantisation ring answers 2 for an entry that it does not admit, 4 with no free
frame, else it copies the page into a new frame; the next turn answers 3 and frees the new frame when a write has reached the page,
else it swaps the entry; the turn after it drops the old translations and frees the old frame with answer 1, or, a write having waited,
writes the entry back, frees the new frame and answers 3. -/
def Sys2Proof.Claims.Requantisation : Prop := ∀ (s : State), Unpaused s →
  (s.copies.find? (fun c => c.kind == 0) = none → s.rq.isEmpty = false → s.host.rqCap ≠ 0 →
    let a := s.rq.slot s.rq.tail 32
    let (ptepa, s1) := devRead a 8 s
    let (tag, s2) := devRead (a + 8) 8 s1
    let (rest, s3) := devRead (a + 17) 15 s2
    let (pte, s4) := devRead ptepa 8 s3
    let old := frameOf pte
    let d := homeDie old
    let refused := ptepa % 8 ≠ 0 ∨ memEnd ≤ ptepa ∨ tag % 65536 ≠ 0 ∨ rest ≠ 0
    (refused → Completes .requantEntry s (endRequant 2 s3)) ∧
    (¬refused → requantable pte = false → Completes .requantEntry s (endRequant 2 s4)) ∧
    (¬refused → requantable pte = true → (dieOf s4 d).ffr.isEmpty = true → Completes .requantEntry s (endRequant 4 s4)) ∧
    (¬refused → requantable pte = true → (dieOf s4 d).ffr.isEmpty = false →
      let (new, s5) := readFrameAt (dieOf s4 d).ffr s4
      let s6 := requantCopy (pte / 2 ^ 57 % 64) old new (withDie s5 d { dieOf s5 d with ffr := (dieOf s5 d).ffr.take })
      let c : FrameCopy := { kind := 0, old := old / 65536, new := new / 65536, pteAddr := ptepa, pte := pte, asn := tag / 2 ^ 52,
                             va := tag % 2 ^ 52 }
      Completes .requantEntry s { s6 with copies := s6.copies ++ [c] })) ∧
  (∀ c, s.copies.find? (fun c => c.kind == 0) = some c →
    let d := homeDie (65536 * c.old)
    let (now, s1) := devRead c.pteAddr 8 s
    (c.copied = false → c.hit = true → Completes .requantEntry s (endRequant 3 (freeFrame d (65536 * c.new) (endCopy c s)))) ∧
    (c.copied = false → c.hit = false → Completes .requantEntry s (setCopy { c with copied := true, pte := now }
      (devWrite 16 c.pteAddr (leBytes 8 (14 * 2 ^ 57 + 65536 * c.new + now % 2 ^ 15)) s1))) ∧
    (c.copied = true → c.wanted = false →
      Completes .requantEntry s (endRequant 1 (freeFrame d (65536 * c.old) (invalidatePage c.asn c.va (endCopy c s))))) ∧
    (c.copied = true → c.wanted = true →
      let (now, s2) := devRead c.pteAddr 8 (invalidatePage c.asn c.va (endCopy c s))
      let s3 := devWrite 16 c.pteAddr (leBytes 8 (c.pte / 2 ^ 57 % 64 * 2 ^ 57 + 65536 * c.old + now % 2 ^ 15)) s2
      Completes .requantEntry s (endRequant 3 (freeFrame d (65536 * c.new) (invalidatePage c.asn c.va s3))))) ∧
  (∀ k, endRequant k s = { devWrite 16 (s.rq.slot s.rq.tail 32 + 16) [BitVec.ofNat 8 k] s with rq := { s.rq with tail := s.rq.tail + 1 } })

/-- R93, R94, R99, R405: while no checkpoint or restore pauses it, a patrol scrub writes a corrected sector back without its flipped
bits, and calibration and wear refresh change nothing; the end of a row's test that found no lasting fault removes it and
rewrites its sector; the sparing of a lasting row is recorded; a frame retirement copies the frame, again while a write has reached it,
and at its last turn the frame is retired and reads at E3. -/
def Sys2Proof.Claims.BackgroundMemoryWork : Prop := ∀ (s : State),
  (Unpaused s → Completes .linkCalibration s s ∧ Completes .wearRefresh s s ∧
    let sec := s.input.addr.toNat / 64
    let m := mget {} s.sectors sec
    (64 * sec < memEnd → retiredSector s sec = false →
      (m.flipped = [] → Completes .patrolScrubSector s s) ∧
      (∀ code e, m.code = some code → (decodeFlips code sec m.flipped (sectorData s sec)).2 = some e → e.cls = 0 →
        ∃ t, exec .patrolScrubSector s = .next t ∧ t.core.ended = .done ∧ (mget {} t.sectors sec).flips = [] ∧
          sectorData t sec = (decodeFlips code sec m.flipped (sectorData s sec)).1 ∧ t.hostMem = s.hostMem))) ∧
  (¬Unpaused s → Waits .linkCalibration s .hold ∧ Waits .wearRefresh s .hold ∧ Waits .patrolScrubSector s .hold) ∧
  (∀ (x : SelfTest) (sec : Nat), s.selfTests = [x] → s.input.n = 0 → x.unit = 0 → x.sectors = [sec] → x.lasting = false →
    (∀ k, (mget {} s.sectors k).cells = []) → retiredSector s sec = false → (dieOf s x.die).testLog.full = true →
    ∃ t, exec .selfTestComplete s = .next t ∧ t.core.ended = .done ∧ t.selfTests = [] ∧ t.lasting = s.lasting ∧
      mget 0 (dieOf t x.die).counters 9 = min (mget 0 (dieOf s x.die).counters 9 + 1) (2 ^ 64 - 1) ∧
      mget 0 (dieOf t x.die).counters 10 = min (mget 0 (dieOf s x.die).counters 10 + 1) (2 ^ 64 - 1) ∧
      (∀ code, (mget {} s.sectors sec).code = some code → (mget {} s.sectors sec).marks.poison = false →
        (∀ e, (decodeFlips code sec (mget {} s.sectors sec).flipped (sectorData s sec)).2 = some e → e.cls ≤ 1) →
        (mget {} t.sectors sec).flips = [])) ∧
  (let first := s.input.addr.toNat / 4096 * 64;
    s.input.ok = true → 64 * first < memEnd → (0, rowLocation first) ∈ s.lasting →
      ∃ t, exec .rowSparing s = .next t ∧ t.core.ended = .done ∧ (0, rowLocation first) ∉ t.lasting ∧
        mget false (dieOf t (homeDie (64 * first))).spared first = true) ∧
  (let old := s.input.addr.toNat / 65536;
    let new := s.input.addr2.toNat / 65536;
    (copyOf s 1 old = none → 65536 * old < memEnd → 65536 * new < memEnd → old ≠ new →
      (dieOf s (homeDie (65536 * old))).retired.length < 8192 → retiredSector s (1024 * old) = false →
      Completes .frameRetirement s { copyFrame old new s with copies := s.copies ++ [{ kind := 1, old := old, new := new }] }) ∧
    (∀ c, copyOf s 1 old = some c → c.copied = false →
      (c.hit = true → Completes .frameRetirement s (copyFrame c.old c.new (setCopy { c with hit := false, restarts := c.restarts + 1 } s))) ∧
      (c.hit = false → Completes .frameRetirement s (setCopy { c with copied := true } s))) ∧
    (∀ c, copyOf s 1 old = some c → c.copied = true → ∃ t, exec .frameRetirement s = .next t ∧ t.core = { s.core with ended := .done } ∧
      copyOf t 1 old = none ∧ ∀ sec, sec / 1024 = old → injector t sec = none → (readSector true none 0 sec t).1.e3 = true))

namespace Sys2Proof.Claims

/-- A lane ends with an outstanding result for xd, and otherwise with the state t. -/
def Leaves (i : Instr) (s t : State) (p : Pending) : Prop := exec i s = .next (onlySh t (outstanding t.core.sh p))

/-- A late fault of the lane at which the Shuttle stands, outstanding for xd (R198). -/
def lateFault (t : State) (d : BitVec 6) (c : FaultCode) : Pending :=
  { d := d, fault := some { code := c, engine := 1, producer := some (t.core.sh.pc, t.core.sh.lane) } }

/-- The launch with a number has not started, and no other has that number. -/
def Claimed (s : State) (l : Launch) : Prop := s.host.launches = [l] ∧ l.started = false

end Sys2Proof.Claims

/-! ### Launches -/

/-- R347 to R349: LAUNCH with the right, on a well-formed record whose rights the launch itself holds, answers 2 where a core is
disabled, 1 where the rectangle is not free, and else claims it and answers 0; a malformed record or an excess of rights is a late
fault. -/
def Sys2Proof.Claims.LaunchInstruction : Prop := ∀ (f : SA) (s s1 s2 : State) (h : Shuttle) (a : Word) (hd tl bs : List Byte),
  Free f.d s.core.sh → Reads f.a s.core.sh h a → bit s.core.attrs.rights 4 = true → a.toNat % 64 = 0 → a.toNat < 2 ^ 52 →
  launchBytes a.toNat 128 { s with core := { s.core with sh := h } } = .ok (.ok hd) s1 →
  launchBytes (a.toNat + 128) (if headerOk hd then recordSize hd - 128 else 0) s1 = .ok (.ok tl) s2 → bs = hd ++ tl →
  (parseRecord bs = none → Leaves (.launch f) s s2 (lateFault s2 f.d .badOperand)) ∧
  (∀ r, parseRecord bs = some r →
    (r.rights &&& ~~~s.core.attrs.rights ≠ 0 → Leaves (.launch f) s s2 (lateFault s2 f.d .noRight)) ∧
    (r.rights &&& ~~~s.core.attrs.rights = 0 →
      (placeRefused s2 r = true → Leaves (.launch f) s s2 { d := f.d, value := 2 }) ∧
      (placeRefused s2 r = false → placeBusy s2 r = true → Leaves (.launch f) s s2 { d := f.d, value := 1 }) ∧
      (placeRefused s2 r = false → placeBusy s2 r = false → Leaves (.launch f) s (claim r none s2) { d := f.d, value := 0 })))

/-- R345, R346: a record that the device accepts keeps the limits of Table 16.2: an aligned entry, a rectangle inside its die, even
sides where it is joint, an aligned table in device memory, a window of at least one tick. -/
def Sys2Proof.Claims.LaunchRecordLimits : Prop := ∀ (bs : List Byte) (r : Record), parseRecord bs = some r →
  r.entry.toNat % 32 = 0 ∧ r.die < 4 ∧ 1 ≤ r.nrows ∧ 1 ≤ r.ncols ∧ r.row0 + r.nrows ≤ 12 ∧ r.col0 + r.ncols ≤ 16 ∧
  (r.joint = true → r.row0 % 2 = 0 ∧ r.col0 % 2 = 0 ∧ r.nrows % 2 = 0 ∧ r.ncols % 2 = 0) ∧
  r.tbase % 32768 = 0 ∧ r.tbase < 0x6000000000 ∧ r.e1pol ≤ 1 ∧ 1 ≤ r.pwin ∧
  (∀ p ∈ r.inits, 1 ≤ p.1 ∧ p.1 ≤ 63 ∧ p.1 ≠ 62) ∧ (∀ p ∈ r.tlens, p.1 < 64 ∧ 64 ≤ p.2 ∧ p.2 ≤ 4096 ∧ p.2 % 64 = 0) ∧
  (∀ p ∈ r.binds, p.1 < 32 ∧ p.2.valid = true ∧ p.2.base.toNat % 64 = 0) ∧
  r.cores.length = r.nrows * r.ncols ∧ r.cores.Nodup ∧ ∀ n ∈ r.cores, n / 192 = r.die ∧ n < 768

/-- R347, R348: the start of a claimed launch starts each of its cores at the record's entry with the record's registers, the others
zero and FULL, tiles EMPTY with the record's lengths, flags and channels zero, the scratchpad as it was; other cores stay. -/
def Sys2Proof.Claims.LaunchStartsItsCores : Prop := ∀ (s : State) (l : Launch), Claimed s l → s.input.n = l.number → l.record.cores.Nodup →
  (∀ n ∈ l.record.cores, (coreOf s n).saver = []) →
  ∃ t, exec .launchStart s = .next t ∧ t.hbm = s.hbm ∧ (∃ l' ∈ t.host.launches, l' = { l with started := true }) ∧
    (∀ n ∈ l.record.cores, let c := coreOf t n
      c.run = .running ∧ c.sh.pc = l.record.entry ∧ c.sh.lane = 0 ∧ c.sh.empty = 0 ∧ c.sh.hmode = false ∧ c.sh.tvec = 0 ∧
      c.attrs.asn = l.record.asn ∧ c.attrs.rights = l.record.rights ∧ c.attrs.launch = l.number ∧
      (∀ i v, l.record.inits = [(i, v)] → mget 0 c.sh.x i = v ∧ ∀ j, j ≠ i → mget 0 c.sh.x j = 0) ∧
      c.tiles.tag = 0 ∧ c.tiles.overrun = 0 ∧ (∀ i, mget 0 c.flags i = 0) ∧ (∀ i, mget 0 c.wp i = 0) ∧
      (∀ i m, l.record.tlens = [(i, m)] → c.tiles.len i = m ∧ ∀ j, j ≠ i → c.tiles.len j = 4096) ∧
      (∀ q, c.queue q = {}) ∧ (∀ a, a < 0x40000 → c.win.read a = (coreOf s n).win.read a) ∧
      (∀ a, 0x40000 ≤ a → c.win.read a = 0)) ∧
    (∀ n, n ∉ l.record.cores → n ≠ s.cur → coreOf t n = coreOf s n)

/-- R350, R413: once every leaf is reached and every write performed, a launch with no completion address frees its cores and signals its
link; until then it waits. -/
def Sys2Proof.Claims.LaunchCompletes : Prop := ∀ (s : State) (l : Launch), s.host.launches = [l] → s.input.n = l.number →
  (l.started = true → (∀ x ∈ l.leaves, x.2.isSome = true) → writesDone s l = true → l.record.doneAddr = 0 →
    ∃ t, exec .launchCompletion s = .next t ∧ t.host.launches = [] ∧ t.hbm = s.hbm ∧
      (∀ k, l.link = some k → t.host.msix = s.host.msix ++ [(k, 0)]) ∧ (l.link = none → t.host.msix = s.host.msix) ∧
      ∀ x ∈ l.leaves, (coreOf s x.1).attrs.launch = l.number → (coreOf s x.1).run ≠ .disabled →
        (coreOf t x.1).run = .free ∧ (coreOf t x.1).attrs = {}) ∧
  ((l.started = false ∨ (∃ x ∈ l.leaves, x.2 = none)) → Waits .launchCompletion s .drain)

/-- R413: a write of 1 to LGO places the record of the link's port: LSTAT 5 for a malformed one, 4 and 3 where the rectangle is refused or
busy, 2 and a claim of the link otherwise; while a checkpoint runs it is held with LSTAT 6. -/
def Sys2Proof.Claims.LaunchPortSubmission : Prop := ∀ (s : State) (k : Nat), k = s.input.link.toNat → barOpen s k = true →
  (mget {} s.host.ports k).stat ≠ 1 → (mget {} s.host.ports k).stat ≠ 6 →
  let bs := (mget {} s.host.ports k).buf.readN 0 4096
  let s0 := hostAnswer 1 0 s
  let stat := fun (n : Nat) (t : State) => modPort k (fun p => { p with stat := n }) t
  (1 ≤ s.host.ck.status → s.host.ck.status ≤ 3 → Completes .launchPortSubmit s
    (stat 6 { s0 with host := { s0.host with heldSubmits := s.host.heldSubmits ++ [(k, bs)] } })) ∧
  ((s.host.ck.status = 0 ∨ 3 < s.host.ck.status) →
    (parseRecord bs = none → Completes .launchPortSubmit s (stat 5 s0)) ∧
    (∀ r, parseRecord bs = some r →
      (placeRefused s0 r = true → Completes .launchPortSubmit s (stat 4 s0)) ∧
      (placeRefused s0 r = false → placeBusy s0 r = true → Completes .launchPortSubmit s (stat 3 s0)) ∧
      (placeRefused s0 r = false → placeBusy s0 r = false → Completes .launchPortSubmit s (stat 2 (claim r (some k) s0)))))

/-! ### Contexts and pre-emption -/

/-- R367: CTXSAVE of a core that is free or disabled answers 1; of a core that runs or has halted, outside a joint launch and without a
request, it requests the pre-emption, and its result comes when the image has been written. CTXLOAD
onto a core that is not free answers 1; of a good image (a joint launch's onto the same place in a quad) onto a free core that no
launch claims it restores the context there with the number under which its launch counts it, empties the walk cache of the die
(R366), and answers 0. -/
def Sys2Proof.Claims.ContextSaveAndLoad : Prop := ∀ (f : SA) (s : State) (h1 h2 : Shuttle) (a va : Word), Free f.d s.core.sh →
  Reads f.a s.core.sh h1 a → Reads f.b h1 h2 va → bit s.core.attrs.rights 5 = true → a.toNat < 768 → a.toNat ≠ s.cur →
  va.toNat % 4096 = 0 → va.toNat < 2 ^ 52 →
  let n := a.toNat
  let s0 := { s with core := { s.core with sh := h2 } }
  (((coreOf s n).run = .free ∨ (coreOf s n).run = .disabled) → Leaves (.ctxsave f) s s0 { d := f.d, value := 1 }) ∧
  ((coreOf s n).preemptible = true → (coreOf s n).attrs.joint = false → (coreOf s n).preempt = none →
    let s1 := { s0 with core := { s0.core with sh := { h2 with nextTicket := h2.nextTicket + 1 } } }
    let s2 := withCore s1 n { coreOf s1 n with preempt := some s.pick.toNat, saver := (coreOf s1 n).saver ++ [(s.cur, h2.nextTicket + 1, va)] }
    Leaves (.ctxsave f) s s2 { d := f.d, ready := false, ticket := h2.nextTicket + 1 }) ∧
  (∀ (places : List Loc) (s1 s2 : State) (secs : List SecRead),
    imagePlaces (contextReq s0 s.cur) va.toNat .read s0 = .ok places s1 →
    places.foldl (fun acc l => ((locRead true 0 l acc.2).1 :: acc.1, (locRead true 0 l acc.2).2)) (([] : List SecRead), s1) = (secs, s2) →
    (∀ r ∈ secs, r.e3 = false) →
    ((coreOf s2 n).run ≠ .free → Leaves (.ctxload f) s s2 { d := f.d, value := 1 }) ∧
    (∀ id, (coreOf s2 n).run = .free → (∀ l ∈ s2.host.launches, l.started = true) →
      findImage s2 (secs.reverse.flatMap (fun r => leBytes 64 r.data.toNat)) = some id →
      let c := coreOf s2 (1024 + id)
      (c.attrs.joint = false ∨ qcOf (mget 0 s2.images (2 ^ 32 + id)) = qcOf n) →
      let s3 := withCore s2 n (restoredCore (leafReached s2 (1024 + id) c.attrs.launch) (loadMarks (secs.reverse.map (·.marks)) c))
      let s4 := withDie s3 (dieOfCore n) { dieOf s3 (dieOfCore n) with walk := [] }
      let counted := s2.host.launches.any (fun l => l.number == c.attrs.launch && l.leaves.any (fun x => x.1 == 1024 + id))
      Leaves (.ctxload f) s (if counted then renameCore (1024 + id) n s4 else s4) { d := f.d, value := 0 }))

/-- R364, R365, R414: PREEMPT marks a core that runs or has halted after its halt bundle, outside a joint launch and without a
request, with the time of the request; a core that does neither ignores it. ABORT ends the launch on a core that stopped or halted at a
fault, and another core ignores it. A core with a request and no executing phase stops at a boundary (one that halted at a fault stays so halted); at the
end of its window a core with an executing phase, which no partner shares, cancels it and, at a boundary, stops. -/
def Sys2Proof.Claims.PreemptionAndAbort : Prop := ∀ (s : State) (n : Nat), n = s.input.core →
  (barOpen s s.input.link.toNat = true → n < 768 →
    ((coreOf s n).run = .running ∨ (coreOf s n).run = .haltedDone → (coreOf s n).attrs.joint = false → (coreOf s n).preempt = none →
      Completes .corectlPreempt s (withCore (hostAnswer 1 0 s) n { coreOf s n with preempt := some s.pick.toNat })) ∧
    ((coreOf s n).run ≠ .running → (coreOf s n).run ≠ .haltedDone → Completes .corectlPreempt s (hostAnswer 1 0 s)) ∧
    (((coreOf s n).run = .haltedFault ∨ (coreOf s n).run = .stopped) → Completes .corectlAbort s (abortCore n (hostAnswer 1 0 s)) ∧
      (coreOf (abortCore n s) n).run = .haltedDone ∧ ∀ q, ((coreOf (abortCore n s) n).queue q).entries = []) ∧
    ((coreOf s n).run ≠ .haltedFault → (coreOf s n).run ≠ .stopped → Completes .corectlAbort s (hostAnswer 1 0 s))) ∧
  (n = s.cur → s.core.preemptible = true → s.core.sh.pending = [] → s.takes = [] → s.joins = [] → s.loomWaits = [] →
    (s.core.preempt.isSome = true → s.core.ph.exec = none → s.core.mat.nest = none → s.core.mat.arrival = none → s.core.gq.entries = [] →
      Completes .preemptionTaken s { s with core := { s.core with
        run := if s.core.run = .haltedFault then .haltedFault else .stopped, preempt := none } }) ∧
    (∀ t e, s.core.preempt = some t → t + s.core.attrs.pwin ≤ s.pick.toNat → s.core.ph.exec = some e → e.parked = false →
      s.core.holdsJoin = false → s.core.tiles.drain = 0 → s.core.mat.nest = none → s.core.mat.arrival = none → s.core.gq.entries = [] →
      s.core.gq.kept = [] → s.core.gq.ending = [] →
      ∃ u, exec .preemptionWindowExpiry s = .next u ∧ u.core.run = (if s.core.run = .haltedFault then .haltedFault else .stopped) ∧
        u.core.preempt = none ∧ u.core.ended = .done ∧ u.core.tiles.tag = s.core.tiles.tag &&& ~~~e.wroteTiles ∧
        ∀ q, e.has q = true → (u.core.queue q).kept = [] ∧ (u.core.queue q).pos = (s.core.queue q).posB))

/-! ### Phases at the engines -/

/-- R353, R364: an engine passes the PHASE.B marker at its head once every earlier phase is gone, and a matrix engine only without a
running nest; on a core with a pre-emption request where no phase executes none passes. The marker goes, the phase executes, its
stream position is noted. -/
def Sys2Proof.Claims.PhaseMarkerPassing : Prop := ∀ (s : State) (id : Nat) (rest : List Entry), s.input.core = s.cur →
  let q := s.input.queue
  (s.core.queue q).entries = .phaseB id :: rest → (s.core.queue q).ending = [] →
  ((earlierGone s.core id = false ∨ (q = .matrix ∧ s.core.mat.nest.isSome = true) ∨
      (s.core.preempt.isSome = true ∧ s.core.ph.exec = none)) → Waits .phaseBMarkerPass s .marker) ∧
  (earlierGone s.core id = true → (q = .matrix → s.core.mat.nest = none) → s.core.preempt = none → s.core.sh.pending = [] →
    (∀ e, s.core.ph.exec = some e → e.rewind = false) →
    ∃ t, exec .phaseBMarkerPass s = .next t ∧ t.core.ended = .done ∧ (t.core.queue q).entries = rest ∧ (t.core.queue q).kept = [] ∧
      (t.core.queue q).posB = (s.core.queue q).pos ∧ (∃ e, t.core.ph.exec = some e ∧ e.id = id ∧ e.has q = true ∧
        (s.core.ph.exec = none → e.counts = [] ∧ e.heldFull = 0 ∧ e.wroteTiles = 0)) ∧
      (∀ r, r ≠ q → t.core.queue r = s.core.queue r) ∧ t.core.tiles = s.core.tiles ∧ t.core.flags = s.core.flags ∧ t.hbm = s.hbm)

/-- R355, R356, R359: the commit of a phase whose markers are all at the heads and whose accesses are back makes its held-FULL tiles FULL
and its consume-pending tiles EMPTY, releases its counts and replies, queues its deferred commands, and raises its flag once none
is left; otherwise it waits. The phase is one without an MJOIN. -/
def Sys2Proof.Claims.PhaseCommits : Prop := ∀ (s : State) (e : PhaseExec), s.input.core = s.cur → s.core.ph.exec = some e → s.core.holdsJoin = false →
  (readyToCommit s.core = false → Waits .phaseCommit s .marker) ∧
  (readyToCommit s.core = true → s.core.preempt = none → e.deferred = [] → s.core.ph.flagDue = [] → (∀ p ∈ e.counts, p.1 < 8) →
    ∃ t, exec .phaseCommit s = .next t ∧ t.core.ended = .done ∧ t.core.ph.exec = none ∧ t.core.sh.ecount = 0 ∧ t.hbm = s.hbm ∧
      (∀ i, i < 64 → bit t.core.tiles.tag i =
        if bit e.consumePend i then false else if bit e.heldFull i then true else bit s.core.tiles.tag i) ∧
      (∀ q, (t.core.queue q).entries = (s.core.queue q).entries.tail ∧ (t.core.queue q).kept = []) ∧
      (∀ r ∈ t.core.outbuf, r.2 = false) ∧ (∀ p ∈ t.core.ph.closed, p.1 ≠ e.id) ∧
      (∀ fl, s.core.ph.closed = [(e.id, fl)] → 8 ≤ fl → fl < 32 →
        (∀ q, ∀ x ∈ (s.core.queue q).entries, ∀ k, x = .cmd k → k.deferred = false) →
        mget 0 t.core.flags fl = mget 0 s.core.flags fl + 1))

/-! ### Checkpoint and restore -/

/-- R100, R102, R411, R415: on a link whose BAR0 is served, a start command begins operation 1 or 2 unless one is in progress, and an
abort ends it with STATE 5; on another link each is answered Unsupported Request with no effect. At quiescence STATE becomes 2 or 3,
and until then the operation waits; a completion timeout ends the operation with STATE 6. -/
def Sys2Proof.Claims.CheckpointControl : Prop := ∀ (s : State),
  (barOpen s s.input.link.toNat = false → Completes .checkpointStart s (hostAnswer 2 0 s) ∧
    Completes .restoreStart s (hostAnswer 2 0 s) ∧ Completes .checkpointAbort s (hostAnswer 2 0 s)) ∧
  (barOpen s s.input.link.toNat = true → s.host.ck.status = 0 ∨ 3 < s.host.ck.status →
    (∃ t, exec .checkpointStart s = .next t ∧ t.host.ck.status = 1 ∧ t.host.ck.op = 1 ∧ t.host.ck.frames = 0 ∧ t.hbm = s.hbm) ∧
    (∃ t, exec .restoreStart s = .next t ∧ t.host.ck.status = 1 ∧ t.host.ck.op = 2 ∧ t.host.ck.crcErr = 0 ∧ t.hbm = s.hbm) ∧
    Completes .checkpointAbort s (hostAnswer 1 0 s)) ∧
  (barOpen s s.input.link.toNat = true → 1 ≤ s.host.ck.status → s.host.ck.status ≤ 3 →
    Completes .checkpointStart s (hostAnswer 1 0 s) ∧ Completes .restoreStart s (hostAnswer 1 0 s) ∧
    (s.host.heldSubmits = [] → ∃ t, exec .checkpointAbort s = .next t ∧ t.host.ck.status = 5 ∧ t.hbm = s.hbm)) ∧
  (s.host.ck.status = 1 → (quiet s = false → Waits .checkpointQuiesced s .condition) ∧
    (quiet s = true → ∃ t, exec .checkpointQuiesced s = .next t ∧ t.host.ck.status = (if s.host.ck.op = 2 then 3 else 2) ∧
      t.hbm = s.hbm)) ∧
  (s.host.ck.status = 2 ∨ s.host.ck.status = 3 → s.host.heldSubmits = [] → ∃ t, exec .completionTimeout s = .next t ∧
    t.host.ck.status = 6 ∧ t.host.ck.failPort = s.input.link.toNat / 2)

/-- R100 to R102: a checkpoint writes the record of its next frame into the ring of the frame's port when there is room, and waits
without; a restore of a ring's next record with a good CRC applies it, and with a bad one counts it and leaves the frame
unwritten; both take the record from the ring. -/
def Sys2Proof.Claims.CheckpointRecords : Prop := ∀ (s : State),
  (s.host.ck.status = 2 → s.host.ck.nextFrame < 0x600000 → mget false s.host.portsDown 0 = false →
    mget false s.host.portsDown 1 = false →
    let f := s.host.ck.nextFrame
    let r := frameRecord f s
    (ringRoom s (f % 2) r.1.length = false → ∃ t, exec .checkpointFrameWrite s = .next t ∧ t.core.ended = .stalled .bufferFull ∧ t.hbm = s.hbm) ∧
    (ringRoom s (f % 2) r.1.length = true → ∃ t, exec .checkpointFrameWrite s = .next t ∧ t.core.ended = .done ∧
      t.host.ck.nextFrame = f + 1 ∧ t.host.ck.frames = r.2.host.ck.frames + 1 ∧ t.hbm = r.2.hbm ∧
      mget 0 t.host.ck.head (f % 2) = mget 0 r.2.host.ck.head (f % 2) + BitVec.ofNat 64 r.1.length)) ∧
  (s.host.ck.status = 3 → s.input.n < 2 → mget false s.host.portsDown s.input.n = false → mget false s.host.ck.ended s.input.n = false →
    let p := s.input.n
    let held := (mget 0 s.host.ck.head p - mget 0 s.host.ck.tail p).toNat
    let head := ringGet s p 64
    let w := fieldAt head 0 8
    let f := w % 2 ^ 23
    let n := recordLength w
    let len := (n + 63) / 64 * 64
    let bs := ringGet s p n
    let good := fieldAt bs (n - 4) 4 = (crc32 (bs.take (n - 4))).toNat
    head ≠ endRecord → w / 2 ^ 23 % 2 ^ 32 = 0 → fieldAt head 8 8 = 0 → f < 0x600000 → mget 0 s.host.ck.lastFrame p ≤ f → 64 ≤ held →
    (held < len → Waits .restoreFrameRecord s .bufferFull) ∧
    (len ≤ held → ∃ t, exec .restoreFrameRecord s = .next t ∧ t.core.ended = .done ∧ t.hostMem = s.hostMem ∧
      mget 0 t.host.ck.tail p = mget 0 s.host.ck.tail p + BitVec.ofNat 64 len ∧
      (good → t.hbm = (applyRecord f w bs s).hbm ∧ t.sectors = (applyRecord f w bs s).sectors ∧ t.host.ck.crcErr = s.host.ck.crcErr) ∧
      (¬good → t.host.ck.crcErr = s.host.ck.crcErr + 1 ∧
        ∀ k, k < 1024 → retiredSector s (1024 * f + k) = false → (mget {} t.sectors (1024 * f + k)).code = none)))

namespace Sys2Proof.Claims

/-- The state with another BOOT step. -/
def atStep (s : State) (k : Nat) : State := { s with host := { s.host with boot := k } }

/-- Running cores that have no request yet, by number. -/
def toStop (s : State) : List Nat := (coreNumbers s).filter (fun n => n < 768 && (coreOf s n).run == .running && (coreOf s n).preempt.isNone)

/-- An SPDM request of a link whose configuration space answers: the responder's next transcript. -/
def Responds (i : Instr) (s : State) (k : Nat) (t : Spdm) : Prop :=
  Completes i s { s with host := { s.host with spdm := mset {} s.host.spdm k t } }

/-- A transcript with one more response. -/
def responded (t : Spdm) (code : Nat) (v : BitVec 1536) : Spdm := { t with code := code, answer := v, transcript := t.transcript + 1 }

/-- A transcript with an ERROR response. -/
def refusedWith (t : Spdm) (e : Nat) : Spdm := { t with code := 0x7F, answer := BitVec.ofNat 1536 e }

end Sys2Proof.Claims

/-! ### The host side -/

/-- R415, R416, R417, R420: a fundamental reset, and the loss of power in D3cold, leave every register at its reset value, memory unwritten
and BOOT at 1, and keep the fuses, module flash, the retired frames and the hosts' memory; the steps follow Table 19.3: step 2 refuses an
image of which a signature, the payload digest or a key's fused digest fails, whose key slots are revoked or whose SVN is below the
fused minimum or over 63, and goes on with an accepted one; step 6 disables the cores that fail; RECGO verifies the mailbox's image;
an accepted image's SVN may be fused. Which bytes of an image are its parts is the model's free value (log entry 76). -/
def Sys2Proof.Claims.ResetAndBringUp : Prop := ∀ s : State,
  (∃ t, exec .fundamentalReset s = .next t ∧ t.host.boot = 1 ∧ t.host.power = true ∧ t.hbm = [] ∧ t.sectors = [] ∧
    t.core = { ({} : Core) with ended := .done } ∧ t.others = [] ∧ t.host.launches = [] ∧ t.strait = {} ∧ t.hostMem = s.hostMem ∧
    t.host.minSvn = s.host.minSvn ∧ t.host.revoked = s.host.revoked ∧ t.host.split = s.host.split ∧ t.host.keyDigests = s.host.keyDigests ∧
    t.host.flash = s.host.flash ∧ (mwf {} s.dies → ∀ d, (dieOf t d).retired = (dieOf s d).retired)) ∧
  (∃ t, exec .d3coldEntry s = .next t ∧ t.host.power = false ∧ t.host.boot = 1 ∧ t.hbm = [] ∧ t.hostMem = s.hostMem) ∧
  (s.host.boot = 1 → Completes .bootStepComplete s (atStep s 2)) ∧
  (s.host.boot = 2 →
    let img := if s.host.fromMailbox = true then s.host.mailbox else s.host.flash
    let p := Config.imageParts img
    let header := sha384 (img.readN 0 4096)
    let payload := sha384 (img.readN 4096 p.payload)
    let accepted := s.host.revoked.getLsbD p.ecdsaSlot.toNat = false ∧ s.host.revoked.getLsbD (4 + p.lmsSlot.toNat) = false ∧
      mget [] s.host.keyDigests p.ecdsaSlot.toNat = sha384 (beBytes 48 p.ecdsaKey.1 ++ beBytes 48 p.ecdsaKey.2) ∧
      mget [] s.host.keyDigests (4 + p.lmsSlot.toNat) = sha384 p.lmsKey ∧
      ecdsaVerify p.ecdsaKey header p.ecdsaSig.1 p.ecdsaSig.2 = true ∧ lmsVerify p.lmsKey header p.lmsSig = true ∧
      payload = p.digest ∧ s.host.minSvn ≤ p.svn ∧ p.svn < 64
    Completes .bootStepComplete s (if accepted then { s with fresh := s.fresh + 1, host := { s.host with
      boot := 3, imageSvn := p.svn, measured := s.fresh + 1, debugOpened := s.input.index.getLsbD 4, headerSum := header, payloadSum := payload } }
      else atStep s 0xE0)) ∧
  (s.host.boot = 3 → Completes .bootStepComplete s { atStep s 4 with pick := 0 }) ∧
  (s.host.boot = 4 → ∃ t, exec .bootStepComplete s = .next t ∧ t.host.boot = 5 ∧ ∀ k, k < 4 → linkExists s.host k = true →
    mget false t.host.trained k = true) ∧
  (s.host.boot = 5 → Completes .bootStepComplete s { atStep s 6 with hbm := [], sectors := [], l2 := [], blocks := [] }) ∧
  (s.host.boot = 6 → ∃ t, exec .bootStepComplete s = .next t ∧ t.host.boot = 7 ∧ t.strait.mesh = [] ∧ t.strait.stages = [] ∧
    ∀ n, n < 768 → (coreOf t n).run = if Config.coreFails s.fresh n = 1 then .disabled else (coreOf s n).run) ∧
  (s.host.boot = 7 → ∃ t, exec .bootStepComplete s = .next t ∧ t.host.boot = 8 ∧ t.strait.islands = []) ∧
  Completes .recgo s (if s.host.boot = 0xE0 then { s with host := { s.host with boot := 2, fromMailbox := true } } else s) ∧
  (3 ≤ s.host.boot → s.host.boot ≤ 8 → s.host.minSvn < s.host.imageSvn →
    Completes .svnCommit s { s with host := { s.host with minSvn := s.host.imageSvn } }) ∧
  (s.host.boot ≤ 2 → Completes .svnCommit s s)

/-- R415, R420: configuration requests get Retry Status until link training has ended, and then the Vendor ID in register 0; a hot or
function-level reset clears its link's launch port and leaves cores and memory; the last function to enter D3hot stops the running
cores as under PREEMPT (the statement takes cores outside a joint launch), and the first to return to D0 lets a stopped one go on. -/
def Sys2Proof.Claims.LinkResetsAndPowerStates : Prop := ∀ (s : State) (k : Nat), k = s.input.link.toNat →
  (s.host.boot ≤ 4 → Completes .configurationRequest s (hostAnswer 3 0 s)) ∧
  (4 < s.host.boot → linkExists s.host k = true → ∃ t, exec .configurationRequest s = .next t ∧ t.core.ended = .done ∧
    t.host.reply = 1 ∧ t.hbm = s.hbm ∧ (s.input.addr = 0 → t.host.replyData.toNat % 2 ^ 16 = Config.vendorId.toNat)) ∧
  (allHot s.host = false → ∀ i, (i = .hotReset ∨ i = .functionLevelReset) → ∃ t, exec i s = .next t ∧
    t.core = { s.core with ended := .done } ∧ t.others = s.others ∧ t.hbm = s.hbm ∧ mget {} t.host.ports k = {} ∧
    mget {} t.host.spdm k = {} ∧ mget false t.host.d3hot k = false ∧ t.host.launches = s.host.launches ∧
    ∀ j, j ≠ k → mget {} t.host.ports j = mget {} s.host.ports j) ∧
  (linkExists s.host k = true → mget false s.host.d3hot k = false →
    let s1 := { s with host := { s.host with d3hot := mset false s.host.d3hot k true } }
    (allHot s1.host = false → Completes .d3hotEntry s s1) ∧
    (allHot s1.host = true → (∀ n, (coreOf s n).attrs.joint = false) → ∃ t, exec .d3hotEntry s = .next t ∧ t.host.d3stopped = toStop s ∧
      ∀ n ∈ toStop s, (coreOf t n).preempt = some s.pick.toNat)) ∧
  ((allHot s.host = false → Completes .d0Return s { s with host := { s.host with d3hot := mset false s.host.d3hot k false } }) ∧
    (∀ n, allHot s.host = true → linkExists s.host k = true → s.host.d3stopped = [n] → (coreOf s n).run = .stopped →
      leafReached s n (coreOf s n).attrs.launch = false →
      ∃ t, exec .d0Return s = .next t ∧ (coreOf t n).run = .running ∧ t.host.d3stopped = []))

/-- R411, R412: a BAR2 access reads or writes eight bytes of device memory through the window at their home point, untranslated; a
control-window write of 8 bytes reaches its register (the examples are one of each kind of register), one of DEVID or BOOT is ignored,
one of another size or alignment is an Unsupported Request; CTRCLR with 1 clears its die's counters; each answers success, or
Unsupported Request where BARs are not served. -/
def Sys2Proof.Claims.HostWindowAccesses : Prop := ∀ (s : State) (a : Nat),
  a = s.host.hbmwin.toNat + s.input.addr.toNat % 2 ^ 30 / 8 * 8 →
  (barOpen s s.input.link.toNat = false → ∀ i ∈ [Instr.bar2Read, .bar2Write, .ctrclr, .launchPortSubmit, .corectlPreempt, .corectlAbort],
    Completes i s (hostAnswer 2 0 s)) ∧
  (barOpen s s.input.link.toNat = true →
    (rowTested s (a / 64) = true → Waits .bar2Read s .selfTest ∧ Waits .bar2Write s .selfTest) ∧
    (∀ (r : SecRead) (t : State), rowTested s (a / 64) = false → readSector true none 0 (a / 64) s = (r, t) →
      Completes .bar2Read s (hostAnswer (if r.marks.poison then 4 else 1)
        ((r.data.extractLsb' (8 * (a % 64)) 64)) t)) ∧
    (rowTested s (a / 64) = false → copyHolds s (a / 64) = false → Sound s (a / 64) → s.host.hbmwin.toNat % 8 = 0 → s.input.mask = 0xFF#64 →
      ∃ t, exec .bar2Write s = .next t ∧ t.host.reply = 1 ∧
      t.core = { s.core with ended := .done } ∧ ∀ x, t.hbm.read x =
        if a ≤ x ∧ x < a + 8 then BitVec.ofNat 8 (s.input.value.toNat / 2 ^ (8 * (x - a))) else s.hbm.read x) ∧
    Completes .ctrclr s (if s.input.value = 1 then
      withDie (hostAnswer 1 0 s) s.input.die.toNat { dieOf s s.input.die.toNat with counters := [] } else hostAnswer 1 0 s) ∧
    (s.input.addr.toNat % 8 ≠ 0 ∨ (s.input.n ≠ 0 ∧ s.input.n ≠ 8) → Completes .controlRegisterWrite s (hostAnswer 2 0 s)) ∧
    ((s.input.n = 0 ∨ s.input.n = 8) →
      let v := s.input.value
      let s0 := hostAnswer 1 0 s
      let At := fun (o : Nat) (t : State) => s.input.addr.toNat = o → Completes .controlRegisterWrite s t
      At 0 s0 ∧ At 8 s0 ∧
      At 0x18 (if v.toNat / 2 ^ 30 % 2 ^ 9 ≤ 383 then
        { s0 with host := { s0.host with hbmwin := BitVec.ofNat 64 (v.toNat / 2 ^ 30 % 2 ^ 9 * 2 ^ 30) } } else s0) ∧
      At 0x8000 (flushPageReqs (if v.toNat % 65536 = 0 then { s0 with prq := { s.prq with base := v } } else { s0 with prq := s.prq })) ∧
      At 0x8118 { s0 with frq := { s.frq with tail := v } } ∧
      At 0x8810 { s0 with host := { s0.host with groupTable := v } } ∧
      At 0x1000000 (if 600 ≤ v.toNat ∧ v.toNat ≤ 1800 then { s0 with host := { s0.host with pwrcap := v.toNat } } else s0)))

/-- R421 to R423, R121, R406: the limits throttle by counting withheld issue and nothing else; at 115 °C power goes; telemetry is refreshed
with the withheld count at 0x78; a port goes down and up; a snoop takes a host line back with the bytes that the host writes; a
free core is disabled. -/
def Sys2Proof.Claims.PowerPortsAndSnoops : Prop := ∀ s : State,
  (let hot := decide (1000 * s.host.pwrcap < s.input.value.toNat);
    Completes .powerThrottle s { s with host := { s.host with
      throttled := hot, withheld := s.host.withheld + (if hot then s.input.n else 0) } }) ∧
  (let hot := decide (840 ≤ s.input.value.toNat ∨ 760 ≤ s.input.addr.toNat);
    Completes .thermalThrottle s { s with host := { s.host with
      throttled := hot, withheld := s.host.withheld + (if hot then s.input.n else 0) } }) ∧
  (s.input.value.toNat < 920 → Completes .thermalShutdown s s) ∧
  (920 ≤ s.input.value.toNat → ∃ t, exec .thermalShutdown s = .next t ∧ t.host.power = false ∧
    t.host.thermalEvents = s.host.thermalEvents + 1 ∧ t.hostMem = s.hostMem) ∧
  (∃ t, exec .telemetryRefresh s = .next t ∧ t.core = { s.core with ended := .done } ∧ t.hbm = s.hbm ∧
    mget 0 t.host.telemetry 0x78 = BitVec.ofNat 64 s.host.withheld) ∧
  (let p := s.input.link.toNat / 2;
    (∃ t, exec .portDown s = .next t ∧ t.core = { s.core with ended := .done } ∧ mget false t.host.portsDown p = true ∧
      (∀ q, q ≠ p → mget false t.host.portsDown q = mget false s.host.portsDown q) ∧ ∀ l ∈ t.hostLines, l.1 / 2 ^ 46 ≠ p) ∧
    Completes .portUp s { s with host := { s.host with portsDown := mset false s.host.portsDown p false } } ∧
    (let line := 2 ^ 46 * p + s.input.addr.toNat % 2 ^ 52 / 64;
      (s.input.ok = false → Completes .cxlCacheSnoop s s) ∧
      (s.input.ok = true → ∃ t, exec .cxlCacheSnoop s = .next t ∧ t.hbm = s.hbm ∧ mget false t.hostLines line = false ∧
        ∀ x, t.hostMem.read x = if 64 * line ≤ x ∧ x < 64 * line + 64 ∧ bit s.input.mask (x - 64 * line) = true then
          s.input.flit.data.extractLsb' (8 * (x - 64 * line)) 8 else s.hostMem.read x))) ∧
  (s.input.core < 768 → (coreOf s s.input.core).run = .free → (∀ l ∈ s.host.launches, l.started = true) →
    Completes .coreDisable s (withCore s s.input.core { coreOf s s.input.core with run := .disabled })) ∧
  ((coreOf s s.input.core).run ≠ .free → Completes .coreDisable s s)

/-- R418, R419: with configuration space up, GET_VERSION begins a transcript; each later request of the negotiation answers in order, and
one out of order with an ERROR; digests, certificates, challenges and measurements answer after the negotiation, signed over the
transcript and the nonce. The response codes are those of SPDM 1.3, which the model presumes.
Completion, exec answering a next state under conditions on the state and the operands alone, is stated for: GET_VERSION,
GET_CAPABILITIES, NEGOTIATE_ALGORITHMS, GET_DIGESTS, GET_CERTIFICATE, CHALLENGE, GET_MEASUREMENTS. -/
def Obligations.AttestationRequests : Prop := ∀ (s : State) (k : Nat), k = s.input.link.toNat → 4 < s.host.boot → linkExists s.host k = true →
  let t := mget {} s.host.spdm k
  let ready := t.version && t.caps && t.algs
  let i := s.input.index.toNat
  let sig := (Config.signature s.host.measured t.transcript s.input.nonce).setWidth 1536
  Responds .getVersion s k (responded { version := true } 0x04 0x1300) ∧
  Responds .getCapabilities s k (if t.version then responded { t with caps := true } 0x61 0x16 else refusedWith t 4) ∧
  Responds .negotiateAlgorithms s k (if t.version && t.caps then responded { t with algs := true } 0x63 0x8000000002 else refusedWith t 4) ∧
  Responds .getDigests s k (if ready then responded t 0x01 ((Config.certificateDigest s.host.measured).setWidth 1536) else refusedWith t 4) ∧
  Responds .getCertificate s k (if ready then (if i = 0 then responded t 0x02 ((Config.certificate s.host.measured s.input.addr.toNat).setWidth 1536)
    else refusedWith t 1) else refusedWith t 4) ∧
  Responds .challenge s k (if ready then (if i = 0 then responded t 0x03 sig else refusedWith t 1) else refusedWith t 4) ∧
  Responds .getMeasurements s k (if ready then (if i = 0 then responded t 0x60 (sig <<< 768 ||| 6)
    else if i ≤ 6 then responded t 0x60 (sig <<< 768 |||
      ((if i = 6 then (if s.host.debugOpened then 1 else 0) else if i = 2 then BitVec.ofNat 384 (leNat s.host.payloadSum)
        else if i = 3 then BitVec.ofNat 384 (leNat s.host.headerSum) else Config.measurement s.host.measured i) : BitVec 384).setWidth 1536)
    else refusedWith t 1) else refusedWith t 4)

namespace Sys2Proof.Claims

/-- A flit that arrives from a link is taken by this island (R321, R323). -/
def Taken (s : State) : Prop :=
  s.strait.routing = .normal ∧ s.host.ck.status ≠ 2 ∧ s.host.ck.status ≠ 3 ∧ s.host.boot ≠ 0xE0 ∧
    mget false s.strait.fencedPorts s.input.port.toNat = false ∧ s.input.flit.reserved = false ∧ s.input.flit.dst = s.host.island

/-- No part on the way from the event's port to the place that the event's flit names is fenced (R325). -/
def Reached (s : State) : Prop :=
  let d := targetNode s.input.flit.near s.input.flit.addr.toNat
  portReaches s.strait s.input.port.toNat d.1 d.2 = true

/-- A reply to the source of the event's flit has a way out through this port, open on channel 6. -/
def ReplyPort (s : State) (p : Nat) : Prop :=
  routeThrough s.strait s.input.port.toNat s.input.flit.src.toNat = .ok p ∧ mget false s.strait.stopped (8 * p + 6) = false ∧
    mget false s.strait.testing p = false

/-- The reply flit with a body. -/
def replyFlit (s : State) (p : Nat) (r : Flit) : Flit :=
  { r with
    vc := 6, dst := s.input.flit.src, src := s.host.island, score := s.input.flit.score, tag := s.input.flit.tag, out := BitVec.ofNat 4 p }

/-- A state with one more flit sent. -/
def sent (s : State) (k : FlitKind) (fl : Flit) : State := { s with strait := { s.strait with sent := s.strait.sent ++ [(k, fl)] } }

/-- The bytes of a data reply. -/
def dataBody (s : State) (v : BitVec 512) (mk : Marks) (e3 : Bool) : Flit :=
  { poison := mk.poison, e1 := mk.e1, size := s.input.flit.size, data := v, addr := mk.found
    opnd := mk.log ++ BitVec.ofNat 64 (if e3 then 1 else 0) }

/-- An inbound window covers n bytes at an offset for a source and permits need 0 R, 1 W or 2 A (R309, Table 14.2). -/
def Admits (s : State) (near : Bool) (src need off n : Nat) : Prop := ∃ i, i < 16 ∧
  let w := mget 0 s.strait.windows i
  bit w 127 = true ∧ bit w 126 = near ∧ bit w (125 - need) = true ∧ w.toNat / 2 ^ 88 % 2 ^ 10 ≤ src ∧ src ≤ w.toNat / 2 ^ 98 % 2 ^ 10 ∧
    w.toNat % 2 ^ 23 ≤ off / 65536 ∧ (off + n - 1) / 65536 ≤ w.toNat / 2 ^ 32 % 2 ^ 23 ∧ w.toNat % 2 ^ 23 ≤ w.toNat / 2 ^ 32 % 2 ^ 23 ∧
    (near = true → w.toNat % 2 ^ 23 < 2 ^ 16 ∧ w.toNat / 2 ^ 32 % 2 ^ 23 < 2 ^ 16)

/-- A well-formed physical archipelago address of another island that this core may name, and its way out (R306, R307, R318). -/
def RemoteWay (s : State) (a : Word) (port : Nat) : Prop :=
  a.toNat / 2 ^ 63 = 1 ∧ a.toNat / 2 ^ 39 % 2 ^ 14 = 0 ∧ bit s.core.attrs.rights 2 = true ∧
    a.toNat / 2 ^ 53 % 2 ^ 10 ≠ s.host.island.toNat ∧ routeOut s.strait s.cur (a.toNat / 2 ^ 53 % 2 ^ 10) = .ok port ∧
    injectionHeld s.strait s.cur port (stageChannel s.strait.inForce s.core.attrs.stage.toNat) = false

/-- A core's request flit to an archipelago address, by a port. -/
def requestFlit (s : State) (port : Nat) (a : Word) (n : Nat) (mask : BitVec 64) (data : BitVec 512) : Flit :=
  { vc := BitVec.ofNat 3 (stageChannel s.strait.inForce s.core.attrs.stage.toNat), dst := BitVec.ofNat 10 (a.toNat / 2 ^ 53 % 2 ^ 10)
    src := s.host.island, score := BitVec.ofNat 10 s.cur, tag := BitVec.ofNat 32 s.strait.nextTag, near := false
    addr := BitVec.ofNat 64 (a.toNat % 2 ^ 39), size := BitVec.ofNat 4 (Nat.log2 n), mask := mask, data := data
    out := BitVec.ofNat 4 port }

/-- The tables and windows of routing control other than what `f` changes. -/
def routed (s : State) (f : Strait → Strait) : State := { s with strait := f s.strait }

/-- The core's result under a ticket is 0 and ready. -/
def drainAnswered (s : State) (tk : Nat) : State :=
  let f := fun (p : Pending) => if p.ticket == tk then
    { p with ready := true, value := 0, fault := p.fault.map (fun e => { e with producer := some (p.bundle, p.lane) }) } else p
  { s with core := { s.core with sh := { s.core.sh with pending := s.core.sh.pending.map f } } }

/-- The fence of a part: router, bridge, port or island (Table 14.11). -/
def fenceOf (st : Strait) (kind k : Nat) : Bool := mget false (st.fences kind) k

end Sys2Proof.Claims

/-! ### The archipelago -/

/-- R306, R307, R310, R318: a load from another island's memory sends a READ with its address, size and tag and leaves its result
outstanding under a ticket; a store sends a WRITE with its bytes and goes on; without the REMOTE right both raise NO_RIGHT. -/
def Sys2Proof.Claims.RemoteAccessesAreSent : Prop :=
  (∀ (f : SI) (i : Instr) (n : Nat) (sg : Bool), (i, n, sg) ∈ loads f → ∀ (s : State) (h : Shuttle) (a : Word) (port : Nat),
    Free f.d s.core.sh → Reads f.a s.core.sh h a →
    let va := a + immediate f.imm f.lit
    va.toNat % n = 0 → RemoteWay s va port →
    let tk := h.nextTicket + 1
    let r : RemoteReq := { tag := s.strait.nextTag, island := va.toNat / 2 ^ 53 % 2 ^ 10, core := s.cur, engine := 1, ticket := tk
                           addr := va, kind := .read, n := n, signed := sg }
    let t := routed s (fun st => { st with sent := st.sent ++ [(.read, requestFlit s port va n 0 0)], waiting := st.waiting ++ [r],
                                           nextTag := st.nextTag + 1 })
    exec i s = .next (onlySh t (outstanding { h with nextTicket := tk }
      { d := f.d, ready := false, ticket := tk, phase := s.core.ph.openId }))) ∧
  (∀ (f : SS) (i : Instr) (n : Nat), (i, n) ∈ stores f → ∀ (s : State) (h1 h2 : Shuttle) (v b : Word) (port : Nat),
    Reads f.data s.core.sh h1 v → Reads f.base h1 h2 b → Guard s.core.sh f.p f.n = true →
    let va := b + storeOffset f n
    va.toNat % n = 0 →
    (RemoteWay s va port →
      let r : RemoteReq := { tag := s.strait.nextTag, island := va.toNat / 2 ^ 53 % 2 ^ 10, core := s.cur, engine := 1, addr := va
                             kind := .write, n := n, count := n }
      let bytes := placeBytes (va.toNat % 64) (leBytes n v.toNat)
      let mask := (maskOf (va.toNat % 64) n >>> (va.toNat / 8 * 8 % 64)) &&& 0xFF#64
      let fl := requestFlit s port va n mask bytes
      let t := routed s (fun st => { st with sent := st.sent ++ [(.write, fl)], waiting := st.waiting ++ [r], nextTag := st.nextTag + 1 })
      exec i s = .next (onlySh t h2)) ∧
    (va.toNat / 2 ^ 63 = 1 → aasFormOk va = true → bit s.core.attrs.rights 2 = false →
      exec i s = .next (faultOn s.cur { code := .noRight, engine := 1, addr := va } s)))

/-- R309 to R311, R313, R166: a request that arrives for this island, with no fence and no self-test on its way and no copy of its frame
holding its writers, is performed where an inbound window admits it and the place exists, and answered; otherwise the reply is NACK
with cause 2 and nothing changes. An atomic on a marked sector writes nothing, and a reduction that finds E3 answers with the marks.
Completion, exec answering a next state under conditions on the state and the operands alone, is stated for: READ, WRITE, ATOMIC,
TILE_WRITE. -/
def Obligations.InboundRequests : Prop := ∀ (s : State) (p : Nat), Taken s → ReplyPort s p →
  let fl := s.input.flit
  let n := 2 ^ min fl.size.toNat 6
  let off := fl.addr.toNat
  let src := fl.src.toNat
  let nack := sent s .nack (replyFlit s p { opnd := 2 })
  let mk : Marks := ⟨fl.poison, fl.e1, 0, 0⟩
  Reached s → (fl.near = true ∨ (rowTested s (off / 64) = false ∧ copyHolds s (off / 64) = false)) →
  ((¬Admits s fl.near src 0 off n ∨ targetOk s fl.near off = false) → Completes .read s nack) ∧
  ((¬Admits s fl.near src 1 off n ∨ targetOk s fl.near off = false) → Completes .write s nack) ∧
  ((¬Admits s true src 1 off 64 ∨ targetOk s true off = false ∨ 0x40000 < off % 2 ^ 20 + 64) → Completes .tileWrite s nack) ∧
  (fl.size ≠ 6 → (¬Admits s fl.near src 2 off n ∨ fl.near = true) → Completes .atomic s nack) ∧
  (fl.near = false → off < 0x6000000000 →
    (Admits s false src 0 off n → ∀ r t, readSector true none 0 (off / 64) s = (r, t) →
      Completes .read s (sent t .readData (replyFlit s p (dataBody s r.data r.marks r.e3)))) ∧
    (Admits s false src 1 off n →
      Completes .write s (sent (writeSector none (off / 64) (sectorMask off n fl.mask) fl.data mk s) .writeAck (replyFlit s p {}))) ∧
    (Admits s false src 2 off n → fl.size ≠ 6 → ∀ r t, readSector true none 0 (off / 64) s = (r, t) →
      let old := leNat (sliceBytes r.data (off % 64) n)
      let m := 2 ^ (8 * n)
      let new := (atomicNew fl.chop.toNat n old (fl.opnd.toNat % 2 ^ 64 % m)).1
      let answer := replyFlit s p (dataBody s (placeBytes (off % 64) (leBytes n old)) r.marks r.e3)
      let same := fl.chop.toNat = 0x57 ∧ old ≠ fl.opnd.toNat / 2 ^ 64 % m
      ((r.e3 = true ∨ r.marks.poison = true ∨ same) → Completes .atomic s (sent t .atomicData answer)) ∧
      (r.e3 = false → r.marks.poison = false → ¬same →
        Completes .atomic s (sent (writeSector none (off / 64) (BitVec.allOnes 64)
          (mergeBytes (maskOf (off % 64) n) (placeBytes (off % 64) (leBytes n new)) r.data) r.marks t) .atomicData answer))) ∧
    (Admits s false src 2 off 64 → fl.size = 6 → ∀ r t, readSector true none 0 (off / 64) s = (r, t) →
      (r.e3 = true → Completes .atomic s (sent t .atomicData (replyFlit s p (dataBody s 0 r.marks true)))) ∧
      (r.e3 = false → Completes .atomic s (sent (writeSector none (off / 64) (BitVec.allOnes 64)
        (reduceSector fl.chop.toNat r.data fl.data) (unionMarks mk r.marks) t) .writeAck (replyFlit s p {}))))) ∧
  (fl.near = true → targetOk s true off = true →
    let c := off / 2 ^ 20
    let na := off % 2 ^ 20
    (Admits s true src 0 off n → let w := (coreOf s c).nearRead na
      Completes .read s (sent s .readData (replyFlit s p (dataBody s (placeBytes (off / 8 * 8 % 64) (leBytes 8 w.1.toNat)) w.2 false)))) ∧
    (Admits s true src 1 off n → n = 64 →
      Completes .write s (sent (nearWriteAt c na (leBytes 64 fl.data.toNat) mk none s) .writeAck (replyFlit s p {}))) ∧
    (Admits s true src 1 off n → n ≠ 64 →
      Completes .write s (sent (nearMaskedAt c (na / 8 * 8) ((sectorMask off n fl.mask).extractLsb' (off / 8 * 8 % 64) 8)
        (fl.data.extractLsb' (8 * (off / 8 * 8 % 64)) 64) s) .writeAck (replyFlit s p {}))) ∧
    (Admits s true src 1 off 64 → na + 64 ≤ 0x40000 →
      Completes .tileWrite s (sent (nearWriteAt c na (leBytes 64 fl.data.toNat) mk (some (fl.chop.toNat % 16)) s) .writeAck
        (replyFlit s p {}))))

/-- R310, R314, R329, R198, R85: a reply of data gives a waiting load or atomic its value, extended, and leaves an engine's read the
sector; an acknowledgement ends the wait of its write; NACK leaves its cause for the load to raise; data for a reduction is MEM_E3 at
its issuer. -/
def Sys2Proof.Claims.RemoteReplies : Prop := ∀ (s : State) (r : RemoteReq) (pd : Pending), Taken s → s.strait.waiting = [r] →
  r.tag = s.input.flit.tag.toNat → r.island = s.input.flit.src.toNat → r.core = s.cur → r.done = false →
  let fl := s.input.flit
  let gone := routed s (fun st => { st with waiting := [] })
  (r.engine = 1 → r.ticket < 2 ^ 64 → s.core.sh.pending = [pd] → pd.ticket = r.ticket → pd.ready = false →
    pd.phase = none → fl.poison = false → fl.e1 = false → bit fl.opnd 0 = false →
    let v := fl.data.extractLsb' (8 * (r.addr.toNat % 64)) (8 * r.n)
    (r.n = 1 ∨ r.n = 2 ∨ r.n = 4 ∨ r.n = 8) →
    ∀ i, (r.kind = .read ∧ i = .readData) ∨ (r.kind = .atomic ∧ i = .atomicData) →
    ∃ t, exec i s = .next t ∧ t.core.ended = .done ∧ t.strait.waiting = [] ∧ t.hbm = s.hbm ∧
      t.core.sh.pending = [{ d := pd.d, value := if r.signed then v.signExtend 64 else v.setWidth 64, bundle := pd.bundle, lane := pd.lane }]) ∧
  (r.kind = .write → r.ch = none → Completes .writeAck s gone) ∧
  (r.engine = 1 → r.kind = .read → r.ticket < 2 ^ 64 → r.quiet = false → s.core.sh.pending = [pd] → pd.ticket = r.ticket →
    s.loomWaits = [] → ∃ t, exec .nack s = .next t ∧ t.strait.waiting = [] ∧ ∃ p' e, t.core.sh.pending = [p'] ∧ p'.ready = true ∧
      p'.fault = some e ∧ e.code = .remoteFail ∧ e.cause = fl.opnd.toNat % 16 ∧ e.addr = r.addr) ∧
  (let mk : Marks := ⟨fl.poison, fl.e1, fl.opnd.extractLsb' 64 64, fl.addr⟩;
    (r.engine ≠ 1 → r.kind = .read → Completes .readData s (routed s (fun st => { st with
      waiting := [{ r with done := true, data := fl.data, marks := mk, e3 := bit fl.opnd 0 }] }))) ∧
    (r.engine ≠ 1 → r.kind = .atomic → r.quiet = false → bit fl.opnd 0 = true →
      Completes .atomicData s (faultOn r.core { code := .memE3, engine := r.engine, precise := false, addr := r.addr, w4 := mk.log, w5 := mk.found,
                                                opc := r.opc, pos := some r.pos } gone)))

/-! ### Routing control, links, the pick clock -/

/-- R322, R324, R325: RTDRAIN 0 starts a drain and waits for DRAINED, which comes when no flit is in flight, before its time limit or at
it; RTDRAIN 1 releases an island with nothing held; RTSET of a legal entry in a drained island writes it, for use from the release on,
and answers the old one; RTFENCE sets or lifts a fence and answers the old one (an island's fence where no request to it is
outstanding). -/
def Sys2Proof.Claims.RoutingControl : Prop := ∀ (s : State), bit s.core.attrs.rights 3 = true →
  (∀ (f : SI) (h : Shuttle) (a : Word), Free f.d s.core.sh → Reads f.a s.core.sh h a →
    let s0 := { s with core := { s.core with sh := h } }
    let tk := h.nextTicket + 1
    let wait : DrainWait := { core := s.cur, ticket := tk, mode := f.imm.toNat, first := true }
    (f.imm = 0 → a ≠ 0 → a.toNat ≤ 2 ^ 32 → s.strait.routing = .normal →
      exec (.rtdrain f) s = .next (onlySh (routed s (fun st => { st with
        routing := .draining, drainEnd := s.pick.toNat + a.toNat, drainCore := s.cur, drains := st.drains ++ [wait] }))
        (outstanding { h with nextTicket := tk } { d := f.d, ready := false, ticket := tk }))) ∧
    (f.imm = 1 → s.strait.routing = .drained → s.strait.heldMsgs = [] → s.strait.heldFlits = [] → s.strait.heldTimes = [] →
      Leaves (.rtdrain f) s (routed s0 (fun st => { st with routing := .normal, before := none })) { d := f.d, value := 0 }) ∧
    (∀ k, fencePart (f.imm.toNat % 4) a = some k → (f.imm.toNat % 4 = 3 ∨ bit f.imm 8 = true ∨ s.strait.routing = .drained) →
      (f.imm.toNat % 4 = 3 → bit f.imm 8 = false → (∀ r ∈ s.strait.waiting, r.island ≠ k) ∧ ∀ w ∈ s.loomWaits, w.island ≠ k) →
      ∃ t, exec (.rtfence f) s = .next t ∧ t.core.ended = .done ∧ fenceOf t.strait (f.imm.toNat % 4) k = !bit f.imm 8 ∧
        t.core.sh = outstanding h { d := f.d, value := if fenceOf s.strait (f.imm.toNat % 4) k then 1 else 0 } ∧
        (∀ c j, c < 4 → (c ≠ f.imm.toNat % 4 ∨ j ≠ k) → fenceOf t.strait c j = fenceOf s.strait c j))) ∧
  (∀ (f : SA) (h1 h2 : Shuttle) (a b : Word), Free f.d s.core.sh → Reads f.a s.core.sh h1 a → Reads f.b h1 h2 b →
    let s0 := { s with core := { s.core with sh := h2 } }
    let kept := fun (st : Strait) => some (st.before.getD (st.mesh, st.islands, st.stages))
    s.strait.routing = .drained →
    (∀ router cls node, a.toNat = router * 2 ^ 32 + cls * 256 + node → cls < 8 → node < 256 → b.toNat < 8 →
      meshEntryOk router cls node b.toNat = true →
      Leaves (.rtset f) s (routed s0 (fun st => { st with
        mesh := mset (resetRoute router node) st.mesh (1280 * router + 256 * cls + node) b.toNat, before := kept st }))
        { d := f.d, value := BitVec.ofNat 64 (meshOut s.strait router cls node) }) ∧
    (∀ isl die, a.toNat = 2 ^ 60 + die * 2 ^ 32 + isl → die < 4 → isl < 1024 → (b.toNat ≤ 15 ∨ b = 0x1F) →
      Leaves (.rtset f) s (routed s0 (fun st => { st with islands := mset 0x1F st.islands (1024 * die + isl) b.toNat, before := kept st }))
        { d := f.d, value := BitVec.ofNat 64 (mget 0x1F s.strait.islands (1024 * die + isl)) }) ∧
    (∀ stage, a.toNat = 2 * 2 ^ 60 + stage → stage < 64 → b.toNat ≤ 5 →
      Leaves (.rtset f) s (routed s0 (fun st => { st with stages := mset (stage % 6) st.stages stage b.toNat, before := kept st }))
        { d := f.d, value := BitVec.ofNat 64 (mget (stage % 6) s.strait.stages stage) })) ∧
  (s.strait.routing = .draining →
    (s.strait.flying ≠ [] → Waits .routeDrainComplete s .condition) ∧
    (s.pick.toNat < s.strait.drainEnd → Waits .routeDrainTimeout s .condition) ∧
    (∀ w, s.strait.drains = [w] → w.core = s.cur → w.mode = 0 → w.first = true → s.strait.flying = [] →
      let t := routed (drainAnswered s w.ticket) (fun st => { st with routing := .drained, drains := [] })
      Completes .routeDrainComplete s t ∧ (s.strait.drainEnd ≤ s.pick.toNat → Completes .routeDrainTimeout s t)))

/-- R316, R318, R319, R405: a channel stops and goes on; a port that failed 16 transmissions tests its lane; a flit that failed is sent
again in its place; TIME flits set the estimate, lock and offset of an island that is no master, are sent every 65,536 ticks, and the lock is lost
without them; the counter steps forward to the estimate while no launch runs; management flits ask nothing. -/
def Sys2Proof.Claims.LinksAndPickClock : Prop := ∀ (s : State),
  let st := s.strait
  let port := s.input.port.toNat
  (st.heldMsgs = [] → st.heldFlits = [] → st.heldTimes = [] → Completes .straitChannelStop s
    (routed s (fun st => { st with stopped := mset false st.stopped (8 * port + s.input.vc.toNat) s.input.ok }))) ∧
  (mget 0 st.retries port < 16 → Waits .straitLaneSelfTestTrigger s .condition) ∧
  (16 ≤ mget 0 st.retries port → ∃ t, exec .straitLaneSelfTestTrigger s = .next t ∧ t.core = { s.core with ended := .done } ∧
    mget false t.strait.testing port = true ∧ mget 0 t.strait.retries port = 0) ∧
  (∀ x, (st.sent.filter (fun x => x.2.out.toNat == port))[s.input.n]? = some x → mget false st.testing port = false →
    ∃ t, exec .flitRetransmit s = .next t ∧ t.core = { s.core with ended := .done } ∧ t.strait.sent = st.sent ∧
      (s.input.ok = true → t.strait.flying = st.flying.erase x ∧ mget 0 t.strait.retries port = 0) ∧
      (s.input.ok = false → x ∈ t.strait.flying ∧ mget 0 t.strait.retries port = mget 0 st.retries port + 1)) ∧
  (Taken s → Completes .mgmt s s ∧
    ((∀ x ∈ s.selfTests, x.unit ≠ 7 ∧ x.unit ≠ 8) → Completes .msg s (takeMessage s)) ∧
    (st.pickMaster = true → Completes .time s s) ∧
    (st.pickMaster = false → ∃ t, exec .time s = .next t ∧ t.core = { s.core with ended := .done } ∧
      let est := s.input.flit.opnd.extractLsb' 0 64 + s.input.flit.opnd.extractLsb' 64 64
      let off := (s.pick - est).toInt
      t.strait.masterPick = est ∧ t.strait.lastTime = s.pick.toNat ∧
        t.strait.pickOffset.toInt = max (-32768) (min 32767 off) ∧ (t.strait.pickLocked = true ↔ -8 ≤ off ∧ off ≤ 8))) ∧
  (s.pick.toNat < st.lastSend + 65536 → Waits .timeSendInterval s .condition) ∧
  (st.lastSend + 65536 ≤ s.pick.toNat → s.host.boot ≠ 0xE0 → st.fencedPorts = [] → st.routing = .normal → st.stopped = [] →
    st.testing = [] → ∃ t, exec .timeSendInterval s = .next t ∧
    t.core = { s.core with ended := .done } ∧ t.strait.lastSend = s.pick.toNat ∧ t.strait.sent.length = st.sent.length + 16) ∧
  (st.lastTime + 2 ^ 20 ≤ s.pick.toNat → Completes .picksyncLockLoss s (routed s (fun st => { st with pickLocked := false, slew := 0 }))) ∧
  (let est := st.masterPick + (s.pick - BitVec.ofNat 64 st.lastTime);
    (s.host.launches = [] → s.pick.toNat < est.toNat → ∃ t, exec .picksyncStep s = .next t ∧ t.pick = est ∧ t.strait.pickOffset = 0 ∧
      t.core = { s.core with ended := .done }) ∧
    ((s.host.launches ≠ [] ∨ est.toNat ≤ s.pick.toNat) → Completes .picksyncStep s s))

namespace Sys2Proof.Claims

/-- The Shuttle after a lane that a Loom (flag 6) or an NSM (flag 7) has answered at once: its result is outstanding, ready, under the
next ticket (R373). -/
def loomDone (h : Shuttle) (d : BitVec 6) (fl : Nat) (v : Word) : Shuttle :=
  { outstanding h { d := d, value := v, flag := fl, ticket := h.nextTicket + 1 } with nextTicket := h.nextTicket + 1 }

/-- The Shuttle after such a lane that still waits for its answer. -/
def loomWaits (h : Shuttle) (d : BitVec 6) (fl : Nat) : Shuttle :=
  { outstanding h { d := d, ready := false, flag := fl, ticket := h.nextTicket + 1 } with nextTicket := h.nextTicket + 1 }

/-- No outstanding result has the next ticket. -/
def NewTicket (h : Shuttle) : Prop := ∀ p ∈ h.pending, p.ticket ≠ h.nextTicket + 1

/-- The lane completed: of the core only the Shuttle changed, of the island only what the dies, waits and joins hold. -/
def LoomDone (i : Instr) (s : State) (h : Shuttle) (t : State) : Prop :=
  exec i s = .next t ∧ t.core = { s.core with sh := h, ended := .done } ∧ t.hbm = s.hbm ∧ t.others = s.others

/-- A result word (Table 17.4): status over fields. -/
def status (st fields : Nat) : Word := BitVec.ofNat 64 (st * 2 ^ 55 + fields)

/-- A lane of the core may go to the Loom (flag 6) or the NSM (flag 7) of a die of this island (R320, R323, R325, Table 18.8): injection
is not held, no fenced part stands in its way, no self-test of the unit runs. -/
def LoomWay (s : State) (flag die : Nat) : Prop :=
  trafficHeld s.strait s.cur = false ∧ coreReaches s.strait s.cur die (if flag = 7 then 234 else 232) = true ∧
    unitTested s (if flag = 7 then 7 else 8) die = false

/-- A lane of the core may go to the Heddle of its die. -/
def HeddleWay (s : State) : Prop := trafficHeld s.strait s.cur = false ∧ coreReaches s.strait s.cur (s.cur / 192) 233 = true

/-- A task id of this island that names a task in use, in a slot that is not retired (R368, R403): its die and slot. -/
def Names (s : State) (id : BitVec 32) (die slot : Nat) : Prop :=
  slotOff s die slot = false ∧
  id.toNat / 2 ^ 22 = s.host.island.toNat ∧ id.toNat / 2 ^ 20 % 4 = die ∧ id.toNat / 16 % 2 ^ 16 = slot ∧
    (taskOf s die slot).state ≠ 0 ∧ (taskOf s die slot).gen = id.toNat % 16

/-- A handle that names a live node record of this island that is not retired (R389, R390, R403). -/
def NamesNode (s : State) (a : Word) (die index : Nat) : Prop :=
  nodeOff s die index = false ∧
  a.toNat / 2 ^ 22 % 2 ^ 10 = s.host.island.toNat ∧ a.toNat / 2 ^ 20 % 4 = die ∧ a.toNat % 2 ^ 20 = index ∧ index < 524288 ∧
    (nodeOf s die index).live = true ∧ (nodeOf s die index).gen.toNat = a.toNat / 2 ^ 32 % 2 ^ 16

/-- A task with nothing attached, no parent, no children and no shed. -/
def Plain (t : Task) : Prop :=
  t.kvhead = 0xFFFFFFFF#32 ∧ t.parent = 0xFFFFFFFF#32 ∧ t.children = [] ∧ t.shed = none ∧ t.shedtask = false ∧ t.cancel = false ∧
    t.dropAt = none ∧ t.dropRec = none ∧ t.dropped = [] ∧ t.voidDue = false ∧ t.claimed = false

/-- Every task but one is as it was. -/
def OtherTasks (s t : State) (die slot : Nat) : Prop := ∀ d k, d ≠ die ∨ k ≠ slot → taskOf t d k = taskOf s d k

end Sys2Proof.Claims

/-! ### The Loom -/

/-- R373, R375, R376: SPAWN of a template for this die with no parent puts a QUEUED task with the template's fields into a free slot and
answers its id; TAKE gives the highest-ranked task of its mask, which runs, or answers EMPTY; TAKE.W waits for one until its time has
passed, and then answers TIMEOUT. -/
def Sys2Proof.Claims.SpawnAndTakeResults : Prop :=
  (∀ (f : SA) (s s2 : State) (h : Shuttle) (a : Word) (bs : List Byte) (m : Template) (slot : Nat), Free f.d s.core.sh →
    Reads f.a s.core.sh h a → NewTicket h → a.toNat % 32 = 0 → a.toNat < 2 ^ 52 →
    LoomWay s 6 (s.cur / 192) →
    let tk := h.nextTicket + 1
    let die := s.cur / 192
    let sh1 := { outstanding h { d := f.d, ready := false, flag := 6, ticket := tk, redo := some (.spawn a) } with nextTicket := tk }
    let s1 := { s with core := { s.core with sh := sh1 } }
    (loomReach (templateReq s1) (s1.core.attrs.e1pol == 1)).read a.toNat 32 s1 = .ok bs s2 → s2.core = s1.core → s2.cur = s.cur →
    let w := fun k => BitVec.ofNat 64 (leNat ((bs.drop (8 * k)).take 8))
    Template.parse (w 0) (w 1) (w 2) (w 3) = some m → m.here = true → m.parent = 0xFFFFFFFF#32 → m.wkey = 0 →
    batchable s2 die m.cls = false → s.cur < 768 → (taskOf s2 die slot).gen < 16 →
    freeSlot s2 die = some slot → s2.takes = [] →
    ∃ t, exec (.spawn f) s = .next t ∧ t.core.ended = .done ∧ t.hbm = s2.hbm ∧ OtherTasks s2 t die slot ∧
      taskOf t die slot = { gen := (taskOf s2 die slot).gen, parent := m.parent, key := m.key, cls := m.cls, pflags := m.pflags,
                            node := m.node, payload := m.payload, state := 1, stamp := s2.pick.toNat } ∧
      t.core.sh = loomDone h f.d 6 (status 0 (s2.host.island.toNat * 2 ^ 22 + die * 2 ^ 20 + slot * 16 +
        (taskOf s2 die slot).gen))) ∧
  (∀ (f : SA) (s : State) (h : Shuttle) (m : Word), Free f.d s.core.sh → Reads f.a s.core.sh h m → NewTicket h → m.toNat < 2 ^ 16 → m ≠ 0 →
    LoomWay s 6 (s.cur / 192) →
    (chooseTask s (s.cur / 192) m.toNat = none → ∃ t, LoomDone (.take f) s (loomDone h f.d 6 (status 1 0)) t ∧ t.dies = s.dies) ∧
    (∀ die slot, chooseTask s (s.cur / 192) m.toNat = some (die, slot) → (taskOf s die slot).shedtask = false →
      ∃ t, LoomDone (.take f) s (loomDone h f.d 6 (status 0 ((taskId s die slot).toNat + (taskOf s die slot).cls * 2 ^ 32))) t ∧
        taskOf t die slot = { taskOf s die slot with state := 4 } ∧ OtherTasks s t die slot)) ∧
  (∀ (f : SA) (s : State) (h1 h2 : Shuttle) (m w : Word), Free f.d s.core.sh → Reads f.a s.core.sh h1 m → Reads f.b h1 h2 w → NewTicket h2 →
    m.toNat < 2 ^ 16 → m ≠ 0 → w.toNat < 2 ^ 32 → LoomWay s 6 (s.cur / 192) →
    (chooseTask s (s.cur / 192) m.toNat = none → ∃ t, LoomDone (.takeW f) s (loomWaits h2 f.d 6) t ∧ t.dies = s.dies ∧
      t.takes = s.takes ++ [⟨s.cur, h2.nextTicket + 1, m.toNat, if w = 0 then none else some (s.pick.toNat + w.toNat)⟩]) ∧
    (∀ die slot, chooseTask s (s.cur / 192) m.toNat = some (die, slot) → (taskOf s die slot).shedtask = false →
      ∃ t, LoomDone (.takeW f) s (loomDone h2 f.d 6 (status 0 ((taskId s die slot).toNat + (taskOf s die slot).cls * 2 ^ 32))) t ∧
        taskOf t die slot = { taskOf s die slot with state := 4 })) ∧
  (∀ (s : State) (w : TakeWait) (p : Pending) (e : Nat), s.takes = [w] → s.input.n = 0 → w.core = s.cur → s.core.sh.pending = [p] →
    p.ticket = w.ticket → p.ready = false → p.toQueue = false → p.fault = none → w.deadline = some e →
    (s.pick.toNat < e → Waits .takeWTimeout s .condition) ∧
    (e ≤ s.pick.toNat → ∃ t, exec .takeWTimeout s = .next t ∧ t.takes = [] ∧
      t.core.sh.pending = [{ p with ready := true, value := status 2 0, redo := none }]))

/-- R371: the task that a take of a die chooses is QUEUED, under the mask, and no QUEUED task of its die under the mask has a higher key, or
the same key and an earlier stamp; a retired slot (R403) is not chosen. -/
def Sys2Proof.Claims.TakeChoosesTheHighestRanked : Prop := ∀ (s : State) (die mask slot : Nat), mwf {} (dieOf s die).tasks →
  bestTask s die mask = some slot →
  let t := taskOf s die slot
  t.state = 1 ∧ mask.testBit t.cls = true ∧ slotOff s die slot = false ∧
    ∀ k, (taskOf s die k).state = 1 → slotOff s die k = false → mask.testBit (taskOf s die k).cls = true →
    (taskOf s die k).key.toNat ≤ t.key.toNat ∧ ((taskOf s die k).key = t.key → t.stamp ≤ (taskOf s die k).stamp)

/-- R377 to R380, R384, R370: on a task of this island TSTAT answers its state, flags and pending children, REPRI sets its key and answers
the old one, DONE ends a running task, JOIN answers and clears its children's counts or waits for them, CANCEL ends a queued task
and answers the count; a stale id answers STALE; an ended task's slot becomes FREE with its next generation.
Completion, exec answering a next state under conditions on the state and the operands alone, is stated for: DONE, CANCEL, REPRI,
JOIN, TSTAT, TASK_FREE, JOIN_COMPLETE. -/
def Obligations.TaskResults : Prop :=
  (∀ (f : SA) (s : State) (h1 h2 : Shuttle) (a b : Word) (die slot : Nat), Free f.d s.core.sh → Reads f.a s.core.sh h1 a → Reads f.b h1 h2 b →
    NewTicket h2 → a.toNat < 2 ^ 32 →
    let id : BitVec 32 := a.setWidth 32
    let t0 := taskOf s die slot
    LoomWay s 6 die → id.toNat / 2 ^ 20 % 4 = die →
    (Names s id die slot →
      (∃ t, LoomDone (.tstat f) s (loomDone h2 f.d 6 (status 0 (t0.state + t0.flags * 2 ^ 4 + t0.pendingN * 2 ^ 12))) t ∧ t.dies = s.dies) ∧
      (b.toNat < 2 ^ 32 → t0.state ≠ 3 → t0.state ≠ 6 → t0.state ≠ 7 →
        ∃ t, LoomDone (.repri f) s (loomDone h2 f.d 6 (status 0 t0.key.toNat)) t ∧
          taskOf t die slot = { t0 with key := b.setWidth 32 } ∧ OtherTasks s t die slot) ∧
      (t0.state = 4 → Plain t0 →
        ∃ t, LoomDone (.done f) s (loomDone h2 f.d 6 (status 0 0)) t ∧ (taskOf t die slot).state = 6 ∧ OtherTasks s t die slot) ∧
      (t0.state = 4 → t0.pendingN = 0 →
        ∃ t, LoomDone (.join f) s (loomDone h2 f.d 6 (status 0 (t0.donec + t0.cancc * 2 ^ 16))) t ∧
          taskOf t die slot = { t0 with donec := 0, cancc := 0 } ∧ OtherTasks s t die slot) ∧
      (t0.state = 4 → t0.pendingN ≠ 0 →
        ∃ t, LoomDone (.join f) s (loomWaits h2 f.d 6) t ∧ taskOf t die slot = { t0 with state := 5 } ∧
          t.joins = s.joins ++ [⟨.core s.cur (h2.nextTicket + 1), id⟩]) ∧
      (t0.state = 1 → Plain t0 → b = 0 →
        ∃ t, LoomDone (.cancel f) s (loomDone h2 f.d 6 (status 0 1)) t ∧ (taskOf t die slot).state = 7 ∧ OtherTasks s t die slot)) ∧
    (id.toNat / 2 ^ 22 = s.host.island.toNat → id.toNat / 16 % 2 ^ 16 = slot → slotOff s die slot = false → staleTask s id = true →
      (∃ t, LoomDone (.tstat f) s (loomDone h2 f.d 6 (status 3 0)) t ∧ t.dies = s.dies) ∧
      (b.toNat < 2 ^ 32 → ∃ t, LoomDone (.repri f) s (loomDone h2 f.d 6 (status 3 0)) t ∧ t.dies = s.dies) ∧
      (b = 0 → ∃ t, LoomDone (.cancel f) s (loomDone h2 f.d 6 (status 3 0)) t ∧ t.dies = s.dies))) ∧
  (∀ (s : State) (j : JoinWait) (p : Pending), s.joins = [j] → s.input.n = 0 → s.core.sh.pending = [p] → p.ready = false → p.toQueue = false →
    p.fault = none → j.client = .core s.cur p.ticket →
    let die := idDie j.task
    let slot := idSlot j.task
    let t0 := taskOf s die slot
    (t0.pendingN ≠ 0 → Waits .joinComplete s .condition) ∧
    (t0.pendingN = 0 → ∃ t, exec .joinComplete s = .next t ∧ t.joins = [] ∧ OtherTasks s t die slot ∧
      taskOf t die slot = { t0 with donec := 0, cancc := 0, state := if t0.state = 5 then 4 else t0.state } ∧
      t.core.sh.pending = [{ p with ready := true, value := status 0 (t0.donec + t0.cancc * 2 ^ 16), redo := none }])) ∧
  (∀ (s : State) (slot : Nat), s.input.n = slot → s.joins = [] →
    let die := s.input.die.toNat
    let t0 := taskOf s die slot
    Plain t0 → t0.ending = none → t0.pendingN = 0 → t0.told = true →
    ((t0.state = 6 ∨ t0.state = 7) → s.groups = [] → ∃ t, exec .taskFree s = .next t ∧ t.core = { s.core with ended := .done } ∧
      taskOf t die slot = { gen := (t0.gen + 1) % 16 } ∧ OtherTasks s t die slot) ∧
    (t0.state ≠ 6 → t0.state ≠ 7 → Completes .taskFree s s))

/-- R386: TKV of a valid request on a live task takes its references, writes an attachment record at ATTBASE, whose sector reads
without error, and links it first at the task; the answer is the number of blocks.
Completion, exec answering a next state under conditions on the state and the operands alone, is stated for: TKV. -/
def Obligations.TaskAttachments : Prop := ∀ (f : SA) (s s1 s2 s3 s4 s5 s6 : State) (h1 h2 : Shuttle) (a b : Word) (bs : List Byte) (q : Seq)
    (p : Pool) (ops : List (Nat × Bool)) (counts : List (Nat × Nat)) (freed : List Nat) (i die slot : Nat),
  Free f.d s.core.sh → Reads f.a s.core.sh h1 a → Reads f.b h1 h2 b → NewTicket h2 → a.toNat < 2 ^ 32 → b.toNat % 16 = 0 → b.toNat < 2 ^ 52 →
  let tk := h2.nextTicket + 1
  let sh0 := { outstanding h2 { d := f.d, ready := false, flag := 6, ticket := tk, redo := some (.tkv (a.setWidth 32) b) } with nextTicket := tk }
  let s0 := { s with core := { s.core with sh := sh0 } }
  let r := loomReach (templateReq s0) (s.core.attrs.e1pol == 1)
  let sd := leNat (bs.take 8)
  let j := leNat ((bs.drop 8).take 4)
  let nb := leNat ((bs.drop 12).take 2)
  Names s (a.setWidth 32) die slot → (taskOf s die slot).over = false →
  LoomWay s 6 die → s.core.attrs.kvpools ≠ 0 →
  r.read b.toNat 16 s0 = .ok bs s1 → sd % 64 = 0 → nb ≠ 0 → leNat (bs.drop 14) = 0 →
  firstFree attRecords ((dieOf s die).attUsed.map (·.1)) = some i → (dieOf s die).attBase ≠ 0 →
  (dieOf s die).attBase % 64 = 0 → Sound s6 (((dieOf s die).attBase + 16 * i) / 64) → Agrees s6 (((dieOf s die).attBase + 16 * i) / 64) 16 →
  (∀ x ∈ s.holds, ¬(x.1 = s.core.attrs.asn.toNat ∧ x.2.1 = sd)) → readSeq r (BitVec.ofNat 64 sd) s1 = .ok q s2 → readPool r s.core.attrs.kvpools q.pool s2 = .ok p s3 → j + nb ≤ q.cap →
  ((List.range nb).mapM (fun k => do
    let x ← heldEntry r q p (j + k)
    pure (x, false)) : M (List (Nat × Bool))) s3 = .ok ops s4 →
  countOps r p ops [] [] s4 = .ok (counts, freed) s5 →
  commitCounts r p s.core.attrs.asn.toNat s.core.attrs.tbase counts freed s5 = .ok () s6 → s6.core = s0.core → s6.cur = s.cur →
  ∃ t, exec (.tkv f) s = .next t ∧ t.core = { s.core with sh := loomDone h2 f.d 6 (status 0 nb), ended := .done } ∧
    (taskOf t die slot).kvhead = BitVec.ofNat 32 i ∧
    (∀ x, t.hbm.read x = if (dieOf s die).attBase + 16 * i ≤ x ∧ x < (dieOf s die).attBase + 16 * i + 16 then
      BitVec.ofNat 8 ((sd + s.core.attrs.asn.toNat * 2 ^ 52 + j * 2 ^ 64 + nb * 2 ^ 96 +
        (taskOf s die slot).kvhead.toNat % 2 ^ 16 * 2 ^ 112) / 2 ^ (8 * (x - ((dieOf s die).attBase + 16 * i)))) else s6.hbm.read x)

/-- R381 to R383, R175: HCFG writes its class's field and answers the old value, and where it takes BATCH away the class's open sheds
close; HFLUSH closes the open sheds of its classes and answers
their number; HSTAT answers a shed place's rows, class, state and key; a shed closes at the end of its window; a closed one forms; a
slot whose stream pin is gone is pushed back to its pool.
Completion, exec answering a next state under conditions on the state and the operands alone, is stated for: HCFG, HFLUSH, HSTAT,
SHED_WINDOW_EXPIRY, SHED_FORM, PIN_RELEASE_PUSH. -/
def Obligations.HeddleResults : Prop :=
  (∀ (f : SA) (s : State) (h1 h2 : Shuttle) (a v : Word), Free f.d s.core.sh → Reads f.a s.core.sh h1 a → Reads f.b h1 h2 v → NewTicket h2 →
    let die := s.cur / 192
    let cls := a.toNat % 16
    let field := a.toNat / 256
    a.toNat / 16 % 16 = 0 → field < 5 → hcfgOk field v = true → HeddleWay s →
    ∃ t, LoomDone (.hcfg f) s (loomDone h2 f.d 6 (status 0 ((hcfgOf s die cls field).toNat % 2 ^ 55))) t ∧ hcfgOf t die cls field = v ∧
      (∀ c k, c < 16 → k < 5 → (c ≠ cls ∨ k ≠ field) → hcfgOf t die c k = hcfgOf s die c k) ∧ (dieOf t die).tasks = (dieOf s die).tasks ∧
      (field = 0 → bit (hcfgOf s die cls 0) 0 = true → bit v 0 = false → mwf {} (dieOf s die).sheds →
        ∀ p ∈ (dieOf s die).sheds, p.2.used = true → p.2.closed = none → p.2.cls = cls → (shedOf t die p.1).closed = some s.pick)) ∧
  (∀ (f : SA) (s : State) (h : Shuttle) (m : Word), Free f.d s.core.sh → Reads f.a s.core.sh h m → NewTicket h →
    let die := s.cur / 192
    let x := shedOf s die m.toNat
    HeddleWay s →
    (m.toNat < 2 ^ 16 → mwf {} (dieOf s die).sheds →
      let closing := (dieOf s die).sheds.filter (fun x => x.2.used && x.2.closed.isNone && bit m x.2.cls)
      ∃ t, LoomDone (.hflush f) s (loomDone h f.d 6 (status 0 closing.length)) t ∧
        ∀ p ∈ closing, (shedOf t die p.1).closed = some s.pick) ∧
    (m.toNat < 16 → ∃ t, LoomDone (.hstat f) s (loomDone h f.d 6 (status 0 (if x.used then
      x.rows.length + x.cls * 2 ^ 8 + (if x.closed = none then 2 ^ 12 else 0) + x.wkey.toNat * 2 ^ 16 else 0))) t ∧ t.dies = s.dies)) ∧
  (∀ (s : State), let die := s.input.die.toNat
    let x := shedOf s die s.input.n
    (x.used = true → x.closed = none →
      (s.pick.toNat < x.opened + x.window → Waits .shedWindowExpiry s .condition) ∧
      (x.opened + x.window ≤ s.pick.toNat →
        Completes .shedWindowExpiry s (withShed die s.input.n { x with closed := some s.pick } s))) ∧
    (∀ s1, x.used = true → x.closed.isSome = true → formShed die s.input.n s = (true, s1) → s1.spawns = [] → Completes .shedForm s s1) ∧
    (x.used = true → x.closed.isSome = true → x.rows = [] → formShed die s.input.n s = (true, withShed die s.input.n {} s)) ∧
    (∀ (y : PinnedFree) (s1 s2 : State) (bs : List Byte) (p : Pool), (dieOf s die).pinned[s.input.n]? = some y → slotPinned s y.pool y.slot = false →
      let r := loomReach (dropReq die y.asn y.tbase) false
      r.read y.va 64 s = .ok bs s1 → Pool.parse y.va y.pool (bitsOfBytes bs) = some p →
      let gone := fun (t : State) => withDie t die { dieOf t die with pinned := (dieOf t die).pinned.eraseIdx s.input.n }
      (y.zero = false → pushSlots r p [y.slot] s1 = .ok () s2 → Completes .pinReleasePush s (gone s2)) ∧
      (∀ s3 s4, y.zero = true → r.ready [(p.bpt + 2 * y.slot, 2)] s1 = .ok () s2 → pushSlots r p [y.slot] s2 = .ok () s3 →
        r.write (p.bpt + 2 * y.slot) (leBytes 2 0) s3 = .ok () s4 → Completes .pinReleasePush s (gone s4))))

/-- R389 to R393: NALLOC of a root takes a free record with its prior and answers its handle; NLD answers a word of a record, NST writes
one, NFREE ends a record and raises its generation; NVLOSS and NBACK update a root's counts and answer the one level done; a stale
handle answers STALE.
Completion, exec answering a next state under conditions on the state and the operands alone, is stated for: NALLOC, NFREE, NLD,
NST, NVLOSS, NBACK. -/
def Obligations.NodeResults : Prop := ∀ (f : SA) (s : State) (h1 h2 : Shuttle) (a b : Word), Free f.d s.core.sh → Reads f.a s.core.sh h1 a →
  Reads f.b h1 h2 b → NewTicket h2 →
  (∀ i, a = 0xFFFFFFFF#64 → b.toNat < 2 ^ 32 →
    firstFree 524288 (mergeUsed (((dieOf s (s.cur / 192)).nodes.filter (fun x => x.2.live)).map (·.1))
      ((dieOf s (s.cur / 192)).nodesOff.map (·.1))) = some i → LoomWay s 7 (s.cur / 192) →
    let die := s.cur / 192
    let g := (nodeOf s die i).gen
    ∃ t, LoomDone (.nalloc f) s (loomDone h2 f.d 7 (status 0 (s.host.island.toNat * 2 ^ 22 + die * 2 ^ 20 + i + g.toNat * 2 ^ 32))) t ∧
      nodeOf t die i = { gen := g, parent := 0xFFFFFFFF#32, p := b.setWidth 32, live := true }) ∧
  (∀ die index, a.toNat / 2 ^ 22 % 2 ^ 10 = s.host.island.toNat → a.toNat / 2 ^ 20 % 4 = die → a.toNat % 2 ^ 20 = index → index < 524288 →
    a.toNat < 2 ^ 50 → LoomWay s 7 die → nodeOff s die index = false →
    let x := nodeOf s die index
    ∃ t, LoomDone (.nld f) s (loomDone h2 f.d 7 (match a.toNat / 2 ^ 48 with
      | 0 => x.depth ++ (x.gen ++ x.parent)
      | 1 => x.vl ++ x.n
      | 2 => x.p ++ x.w
      | _ => x.pword)) t ∧ t.dies = s.dies) ∧
  (∀ die index, NamesNode s a die index → LoomWay s 7 die →
    let x := nodeOf s die index
    (a.toNat < 2 ^ 50 → 2 ^ 48 ≤ a.toNat → ∃ t, LoomDone (.nst f) s (loomDone h2 f.d 7 (status 0 0)) t ∧
      nodeOf t die index = (match a.toNat / 2 ^ 48 with
        | 1 => { x with n := b.extractLsb' 0 32, vl := b.extractLsb' 32 32 }
        | 2 => { x with w := b.extractLsb' 0 32, p := b.extractLsb' 32 32 }
        | _ => { x with pword := b }) ∧ ∀ k, k ≠ index → nodeOf t die k = nodeOf s die k) ∧
    (a.toNat < 2 ^ 48 → ∃ t, LoomDone (.nfree f) s (loomDone h2 f.d 7 (status 0 0)) t ∧
      nodeOf t die index = { x with live := false, gen := x.gen + 1 }) ∧
    (a.toNat < 2 ^ 48 → x.parent = 0xFFFFFFFF#32 → b.toNat < 2 ^ 32 →
      ∃ t, LoomDone (.nvloss f) s (loomDone h2 f.d 7 (status 0 1)) t ∧
        nodeOf t die index = { x with vl := BitVec.ofNat 32 (min (x.vl.toNat + b.toNat) (2 ^ 32 - 1)) }) ∧
    (a.toNat < 2 ^ 48 → x.parent = 0xFFFFFFFF#32 → b.toNat < 2 ^ 49 →
      ∃ t, LoomDone (.nback f) s (loomDone h2 f.d 7 (status 0 1)) t ∧
        (nodeOf t die index).n = BitVec.ofNat 32 (min (x.n.toNat + 1) (2 ^ 32 - 1)) ∧
        (nodeOf t die index).w = BitVec.ofNat 32 (fp32.add 0 false (fp32.decode x.w.toNat) (fp32.decode (b.toNat % 2 ^ 32))).1 ∧
        (nodeOf t die index).vl.toNat = x.vl.toNat - b.toNat / 2 ^ 32 % 2 ^ 16)) ∧
  (a.toNat / 2 ^ 22 % 2 ^ 10 = s.host.island.toNat → a.toNat % 2 ^ 20 < 524288 → a.toNat < 2 ^ 48 →
    LoomWay s 7 (a.toNat / 2 ^ 20 % 4) → nodeOff s (a.toNat / 2 ^ 20 % 4) (a.toNat % 2 ^ 20) = false →
    staleNode s (a.setWidth 32) (a.toNat / 2 ^ 32) = true →
    (∃ t, LoomDone (.nfree f) s (loomDone h2 f.d 7 (status 3 0)) t ∧ t.dies = s.dies) ∧
    (b.toNat < 2 ^ 32 → ∃ t, LoomDone (.nvloss f) s (loomDone h2 f.d 7 (status 3 0)) t ∧ t.dies = s.dies))

namespace Sys2Proof.Claims

/-- The value of an MX lane (R262): its literal, or its operand, captured or taken at the head. -/
def MxOperand (f : MX) (s s1 : State) (v : Word) : Prop :=
  (f.lit ≠ .none ∧ v = immediate (0 : BitVec 6) f.lit ∧ s1 = s) ∨ (f.lit = .none ∧ engOperand .matrix false f.xs s = .ok v s1)

/-- The command of the matrix queue's turn belongs to the executing phase. -/
def InPhaseM (i : Instr) (s : State) : Prop := inPhase s (headOr s .matrix i) = true

/-- No nest runs and no arrival stands at a join (R261). -/
def MatrixIdle (s : State) : Prop := s.core.mat.nest = none ∧ s.core.mat.arrival = none

/-- A completed command of the matrix queue counts on its flag when cnt is set; inside the executing phase its commit does (R37,
R355). -/
def counted (i : Instr) (cnt : Bool) (flag : Nat) (s : State) (c : Core) : Core :=
  if cnt = false then c
  else if inPhase s (headOr s .matrix i) = true then
    { c with ph := { c.ph with exec := c.ph.exec.map (fun e => { e with counts := e.counts ++ [(flag, 1)] }) } }
  else { c with flags := mset 0 c.flags flag (mget 0 c.flags flag + 1) }

/-- The count of a configuration command: held back to the end of a nest that runs (R261). -/
def configured (i : Instr) (cnt : Bool) (s : State) (c : Core) : Core :=
  match s.core.mat.nest with
  | none => counted i cnt 1 s c
  | some n => if cnt then { c with mat := { c.mat with nest := some { n with counts := n.counts + 1 } } } else c

/-- The values that an MCFG register takes (Table 12.3). -/
def McfgValue (sel : Nat) (v : Word) : Prop :=
  (∃ l, l < 6 ∧ ((sel = 4 * l ∧ 1 ≤ v.toNat ∧ v.toNat ≤ 65536) ∨ ((sel = 4 * l + 1 ∨ sel = 4 * l + 2) ∧ v = (v.setWidth 32).signExtend 64) ∨
    (sel = 4 * l + 3 ∧ v.toNat < 2 ^ 32))) ∨
  (sel = 0x20 ∧ ∃ mr nc, 1 ≤ mr ∧ mr ≤ 48 ∧ 1 ≤ nc ∧ nc ≤ 384 ∧ v.toNat = nc * 2 ^ 16 + mr) ∨
  (sel = 0x21 ∧ ∃ r q, r ≤ 47 ∧ q ≤ 383 ∧ v.toNat = r * 2 ^ 16 + q) ∨
  (sel = 0x22 ∧ 1 ≤ v.toNat ∧ v.toNat ≤ 2 ^ 24) ∨
  (sel = 0x23 ∧ ∃ rows sat void pitch, 1 ≤ rows ∧ rows ≤ 48 ∧ sat < 2 ∧ void ≤ 144 ∧ 32 ≤ pitch ∧ pitch ≤ 4096 ∧ pitch % 32 = 0 ∧
    v.toNat = pitch * 2 ^ 16 + void * 2 ^ 8 + sat * 2 ^ 6 + rows) ∨
  (sel = 0x24 ∧ v.toNat % 32 = 0) ∨
  (∃ k, k < 16 ∧ (sel = 0x30 + 2 * k ∨ (sel = 0x31 + 2 * k ∧ v.toNat < 32)))

/-- The values that an MDESC register takes (Table 12.4), by its number in its descriptor. -/
def MdescValue (k : Nat) (v : Word) : Prop :=
  (k = 0 ∧ v.toNat < 16) ∨ ((k = 1 ∨ k = 3) ∧ v.toNat ≤ 262143) ∨ (k = 2 ∧ 16 ≤ v.toNat ∧ v.toNat ≤ 262144 ∧ v.toNat % 16 = 0) ∨
  (k = 4 ∧ ∃ nt ns, 1 ≤ nt ∧ nt ≤ 64 ∧ ns ≤ 64 ∧ v.toNat = ns * 2 ^ 8 + nt)

/-- The values that a MUNF register takes (Table 12.5). -/
def MunfValue (sel : Nat) (v : Word) : Prop :=
  (sel = 0 ∧ v.toNat ≤ 262080 ∧ v.toNat % 64 = 0) ∨ (sel = 2 ∧ 64 ≤ v.toNat ∧ v.toNat ≤ 4096 ∧ v.toNat % 64 = 0) ∨
  (sel = 3 ∧ v.toNat < 2 ^ 32 ∧ ∀ i, i < 6 → v.toNat / 16 ^ i % 16 ≠ 0) ∨
  ((sel = 1 ∨ sel = 4) ∧ ∃ h w, 1 ≤ h ∧ h ≤ 4095 ∧ 1 ≤ w ∧ w ≤ 4095 ∧ v.toNat = w * 2 ^ 16 + h)

/-- A register of the matrix engine's configuration takes a value: COUNT is held less 1; a bound register takes its low word, or its
next word with bits 255:128 zero. -/
def mcfgWritten (m : MatState) (sel : Nat) (v : Word) : MatState :=
  if sel < 0x18 ∧ sel % 4 = 0 then { m with cfg := mset 0 m.cfg sel (v - 1) }
  else if sel < 0x30 then { m with cfg := mset 0 m.cfg sel v }
  else
    let k := (sel - 0x30) / 2
    let old := mget (0 : BitVec 256) m.bounds k
    { m with bounds := mset 0 m.bounds k (if sel % 2 = 0 then (old.extractLsb' 64 192) ++ v
        else ((v.setWidth 192) ++ old.extractLsb' 0 64 : BitVec 256)) }

end Sys2Proof.Claims

/-- R262 to R264: a configuration command with a legal value writes its register at the head, even while a nest runs, and nothing
else; a value that breaks a limit raises BAD_OPERAND and leaves it unchanged. -/
def Sys2Proof.Claims.MatrixConfiguration : Prop := ∀ (f : MX) (s s1 : State) (v : Word), s.core.mat.arrival = none → MxOperand f s s1 v →
  s1.core.mat = s.core.mat →
  (McfgValue f.sel.toNat v → exec (.mcfg f) s = .next { s1 with core := { configured (.mcfg f) f.cnt s
    { s1.core with mat := mcfgWritten s1.core.mat f.sel.toNat v } with ended := .done } }) ∧
  (MdescValue (f.sel.toNat % 16) v → exec (.mdesc f) s = .next { s1 with core := { configured (.mdesc f) f.cnt s
    { s1.core with mat := { s1.core.mat with desc := mset 0 s1.core.mat.desc f.sel.toNat v } } with ended := .done } }) ∧
  (MunfValue f.sel.toNat v → exec (.munf f) s = .next { s1 with core := { configured (.munf f) f.cnt s
    { s1.core with mat := { s1.core.mat with unf := mset 0 s1.core.mat.unf f.sel.toNat v } } with ended := .done } }) ∧
  (s1 = s → s.core.attrs.joint = false → ∀ (i : Instr) (opc : Nat), (i = .mcfg f ∧ opc = 1 ∧ f.sel.toNat < 0x18 ∧ f.sel.toNat % 4 = 0 ∧ v = 0) ∨
    (i = .mdesc f ∧ opc = 4 ∧ f.sel.toNat = 0 ∧ 16 ≤ v.toNat) ∨ (i = .munf f ∧ opc = 5 ∧ f.sel.toNat = 2 ∧ v.toNat % 64 ≠ 0) →
    ∃ t, exec i s = .next t ∧ t.core.ended = .faulted .badOperand ∧ t.core.mat = s.core.mat ∧ t.core.mq.held = true)

namespace Sys2Proof.Claims

/-- The matrix engine's fault record of an opcode. -/
def matFault (opc : Nat) : FaultInfo := { code := .badOperand, engine := 3, opc := opc, action := .hold .matrix }

/-- The raw pattern of C element (r, q) (R258). -/
def accAt (c : Core) (r q : Nat) : Nat := leNat (c.win.readN (0x40000 + 0x4800 * (q / 96) + 4 * (96 * r + q % 96)) 4)

/-- An element of the C space after a whole nest (R267): each step that reaches it adds its units, in the order of the nest, in the
mode of its bank. -/
def nestElement (s : State) (g : Geo) (b : BankMeta) (r q v : Nat) : Nat :=
  (nestSteps g).foldl (fun v p =>
    if p.2.2.1 ≤ (r : Int) ∧ (r : Int) < p.2.2.1 + g.mr ∧ p.2.2.2 ≤ (q : Int) ∧ (q : Int) < p.2.2.2 + g.nc then
      let row := fetchOwn s s.cur g.a g.ke g.unf p.1.toNat (r - p.2.2.1.toNat)
      let col := fetchOwn s s.cur g.b g.ke none p.2.1.toNat (q - p.2.2.2.toNat)
      (stepSums g row col).foldl (fun v x => (accAdd b v x).1) v % 2 ^ 32
    else v) v

end Sys2Proof.Claims

/-- R267 to R269: MGO copies the shadow configuration and starts its nest once its checks have passed and every tag wait of its spans is
granted; with plain tag actions outside a phase it waits for no tag; a failed check raises BAD_OPERAND without effect. -/
def Sys2Proof.Claims.NestStarts : Prop := ∀ (f : MT) (s : State), MatrixIdle s →
  let g := geoOf f s.core.mat.cfg s.core.mat.desc s.core.mat.unf
  let ph := inPhase s (headOr s .matrix (.mgo f))
  (checkNest g f.ga.toNat f.gb.toNat s.core.mat.metas none = true →
    (∀ s1, nestTags (matFault 2) ph f g s = .ok () s1 → s1.core.mat = s.core.mat →
      let n : Nest := { cmd := headOr s1 .matrix (.mgo f), cfg := s.core.mat.cfg, desc := s.core.mat.desc, unf := s.core.mat.unf,
                        joint := false, counts := 0, pos := s1.core.mq.pos }
      exec (.mgo f) s = .next { s1 with core := { s1.core with mat := { s1.core.mat with nest := some n }, ended := .done } }) ∧
    (f.ga = 0 → f.gb = 0 → ph = false → nestTags (matFault 2) ph f g s = .ok () s)) ∧
  (checkNest g f.ga.toNat f.gb.toNat s.core.mat.metas none = false →
    exec (.mgo f) s = .next (faultOn s.cur (matFault 2) { s with core := keepPops .matrix false s.core s.core }))

/-- R258, R265, R267: the end of a nest outside a phase that consumes no mark: every C element holds what the nest's steps add into it in
order; the committed copies of the banks that it touches follow; no scratchpad byte and no byte of memory changes; its count
and those held behind it reach f1.
Completion, exec answering a next state under conditions on the state and the operands alone, is stated for: NEST_COMPLETE. -/
def Obligations.NestEnds : Prop := ∀ (s : State) (n : Nest) (f : MT), s.input.core = s.cur → s.core.mat.nest = some n →
  n.joint = false → nestFields n = some f → f.ga = 0 → f.gb = 0 → nestInPhase s.core n = false →
  let g := geoOf f n.cfg n.desc n.unf
  checkNest g 0 0 s.core.mat.metas none = true → nestMarks s s.cur g none = none →
  ∃ t, exec .nestComplete s = .next t ∧ t.core.ended = .done ∧ t.core.mat.nest = none ∧ t.hbm = s.hbm ∧
    t.core.tiles = { s.core.tiles with marks := t.core.tiles.marks } ∧ (∀ x, x < 0x1000 → mget {} t.core.tiles.marks x = mget {} s.core.tiles.marks x) ∧
    t.core.mat.cfg = s.core.mat.cfg ∧ t.core.mat.desc = s.core.mat.desc ∧ t.core.sh = s.core.sh ∧
    (∀ x, x < 0x40000 ∨ 0x64000 ≤ x → t.core.win.read x = s.core.win.read x) ∧
    (∀ r q, r < 48 → q < 384 → accAt t.core r q = nestElement s g (mget {} s.core.mat.metas (q / 96)) r q (accAt s.core r q)) ∧
    (∀ k, k < 4 → (mget {} t.core.mat.metas k).mode = (mget {} s.core.mat.metas k).mode) ∧
    (∀ k ∈ banksOf g, mget {} t.core.mat.metas (4 + k) = mget {} t.core.mat.metas k ∧ ∀ x, x < 0x4800 →
      t.core.win.read (0x40000 + 0x4800 * (4 + k) + x) = t.core.win.read (0x40000 + 0x4800 * k + x)) ∧
    mget 0 t.core.flags 1 = mget 0 s.core.flags 1 + BitVec.ofNat 32 (n.counts + (if f.cnt then 1 else 0))

namespace Sys2Proof.Claims

/-- A member of a quad runs the nest m of the joint operation. -/
def JointNest (s : State) (k : Nat) (m : Nest) : Prop := (coreOf s k).mat.nest = some m ∧ m.joint = true

/-- The next step of the current core's joint nest may issue (R278): every member has issued the steps before it, and the member of
QC s mod 4 has issued this one, unless it is this core. -/
def StepDue (s : State) (n : Nest) : Prop :=
  let lead := (quadMembers s.cur).getD (n.issued % 4) s.cur
  (∀ k ∈ quadMembers s.cur, ∃ m, JointNest s k m ∧ n.issued ≤ m.issued) ∧
  (lead = s.cur ∨ ∃ m, JointNest s lead m ∧ n.issued < m.issued)

end Sys2Proof.Claims

/-- R276 to R280: inside a phase of a joint quad without a disabled core MJOIN arrives at its join; the join forms when the four members
have arrived with equal configurations, and each member's nest starts; a member issues a step that is due, and waits with one that is
not; the four nests end together when each has issued its steps; a member that has not arrived when the window passes loses the
operation, and every member, each of which holds it in its executing phase, cancels that phase and counts one loss.
Completion, exec answering a next state under conditions on the state and the operands alone, is stated for: MJOIN, NEST_COMPLETE,
JOINT_JOIN_FORM, JOINT_WINDOW_EXPIRY. -/
def Obligations.JointOperations : Prop :=
  (∀ (f : MT) (s s1 : State), MatrixIdle s → InPhaseM (.mjoin f) s → s.core.attrs.joint = true → mget 0 s.core.mat.cfg 0x22 ≠ 0 →
    (∀ k ∈ quadMembers s.cur, (coreOf s k).run ≠ .disabled) →
    let g := geoOf f s.core.mat.cfg s.core.mat.desc s.core.mat.unf
    checkNest g f.ga.toNat f.gb.toNat s.core.mat.metas (some (qcOf s.cur)) = true →
    nestTags (matFault 3) true f g s = .ok () s1 →
    exec (.mjoin f) s = .next { s1 with core := { s1.core with
      ph := { s1.core.ph with exec := s1.core.ph.exec.map (fun e => { e with joint := true }) }
      mat := { s1.core.mat with arrival := some { cmd := headOr s1 .matrix (.mjoin f), tick := s1.pick.toNat } }, ended := .done } }) ∧
  (∀ (s : State), s.input.core = s.cur → s.cur ∈ quadMembers s.cur →
    (∀ k ∈ quadMembers s.cur, (coreOf s k).mat.arrival.isSome = true ∧ joinKey (coreOf s k) = joinKey s.core) →
    ∃ t, exec .jointJoinForm s = .next t ∧ t.core.ended = .done ∧ t.hbm = s.hbm ∧ ∀ k ∈ quadMembers s.cur, ∀ a,
      (coreOf s k).mat.arrival = some a → (coreOf t k).mat.arrival = none ∧ (coreOf t k).mat.nest =
        some { cmd := a.cmd, cfg := (coreOf s k).mat.cfg, desc := (coreOf s k).mat.desc, unf := (coreOf s k).mat.unf, joint := true,
               counts := 0, pos := (coreOf s k).mq.pos - 1, issued := 0, tick := s.pick.toNat }) ∧
  (∀ (s : State) (n : Nest) (f : MT), s.input.core = s.cur → s.cur ∈ quadMembers s.cur → JointNest s s.cur n → nestFields n = some f →
    let g := geoOf f n.cfg n.desc n.unf
    let qs := some (quartersOf s s.cur)
    (∀ p, (nestSteps g)[n.issued]? = some p → (StepDue s n → stepMarks s s.cur g qs p = none →
        let c := runStep s s.cur g qs p s.core
        exec .nestComplete s = .next { s with core := { c with
          mat := { c.mat with nest := some { n with issued := n.issued + 1, tick := s.pick.toNat } }, ended := .done } }) ∧
      (¬StepDue s n → Waits .nestComplete s .join)) ∧
    ((nestSteps g).length ≤ n.issued → (∀ k ∈ quadMembers s.cur, ∃ m f, JointNest s k m ∧ nestFields m = some f ∧
        (nestSteps (geoOf f m.cfg m.desc m.unf)).length ≤ m.issued) →
      ∃ t, exec .nestComplete s = .next t ∧ t.core.ended = .done ∧ t.hbm = s.hbm ∧
        ∀ k ∈ quadMembers s.cur, (coreOf t k).mat.nest = none)) ∧
  (∀ (s : State) (a : Arrival), s.input.core = s.cur → s.cur ∈ quadMembers s.cur → s.core.mat.arrival = some a →
    (∃ k ∈ quadMembers s.cur, (coreOf s k).mat.arrival = none) →
    (mget 0 s.core.mat.cfg 0x22).toNat + a.tick < s.pick.toNat →
    (∀ k ∈ quadMembers s.cur, (coreOf s k).attrs.joint = true ∧ (coreOf s k).mat.loss = 0 ∧
      ∃ e, (coreOf s k).ph.exec = some e ∧ e.joint = true ∧ e.has .matrix = true) →
    ∃ t, exec .jointWindowExpiry s = .next t ∧ t.core.ended = .done ∧ ∀ k ∈ quadMembers s.cur,
      (coreOf t k).mat.loss = 1 ∧ (coreOf t k).mat.nest = none ∧ (coreOf t k).mat.arrival = none ∧ (coreOf t k).mq.kept = [] ∧
      (coreOf t k).ph.exec.isSome = true)

namespace Sys2Proof.Claims

/-- Item i of the accumulator storage: bank, committed copy or slot (R258, R259). -/
def item (i : Nat) : Nat := 0x40000 + 0x4800 * i

/-- The command completed, and changed nothing but accumulator storage, its metadata, the count and what the phase notes. -/
def BankDone (i : Instr) (cnt : Bool) (s t : State) : Prop :=
  exec i s = .next t ∧ t = { s with core := { s.core with
    win := t.core.win, mat := { s.core.mat with metas := t.core.mat.metas }, tiles := { s.core.tiles with marks := t.core.tiles.marks }
    flags := (counted i cnt 1 s s.core).flags, ph := t.core.ph,
    ended := .done } } ∧ (¬InPhaseM i s → t.core.ph = s.core.ph)

/-- Sector k of item i in the window (R258). -/
def itemSector (i k : Nat) : Nat := 0x1000 + 0x120 * i + k

/-- Item j holds what item i held, with the marks of its sectors. -/
def Copied (s t : State) (i j : Nat) : Prop :=
  mget {} t.core.mat.metas j = mget {} s.core.mat.metas i ∧
    (∀ x, x < 0x4800 → t.core.win.read (item j + x) = s.core.win.read (item i + x)) ∧
    ∀ k, k < 0x120 → mget {} t.core.tiles.marks (itemSector j k) = mget {} s.core.tiles.marks (itemSector i k)

/-- Every item but those listed, and every byte outside the storage, is as it was. -/
def OtherItems (s t : State) (js : List Nat) : Prop :=
  (∀ j, j ∉ js → mget {} t.core.mat.metas j = mget {} s.core.mat.metas j) ∧
    (∀ x, (∀ j ∈ js, x < item j ∨ item j + 0x4800 ≤ x) → t.core.win.read x = s.core.win.read x) ∧
    ∀ k, (∀ j ∈ js, k < itemSector j 0 ∨ itemSector j 0x120 ≤ k) → mget {} t.core.tiles.marks k = mget {} s.core.tiles.marks k

end Sys2Proof.Claims

/-- R271 to R275: MSAVE and MLOAD copy 18 KiB of data and the metadata word; MZERO clears a bank and sets its mode; MCLRF clears its
flags; outside a phase the committed copy of a bank written follows; MSTAT posts its entry to the draw unit's buffer. -/
def Sys2Proof.Claims.BankCommands : Prop := ∀ (f : MS) (s : State), MatrixIdle s →
  let n := f.acc.toNat
  let c := 8 + f.slot.toNat
  let old := mget {} s.core.mat.metas n
  ((InPhaseM (.msave f) s → ∀ e, s.core.ph.exec = some e → bit e.slotsRead f.slot.toNat = false) →
    ∃ t, BankDone (.msave f) f.cnt s t ∧ Copied s t n c ∧ OtherItems s t [c]) ∧
  (∃ t, BankDone (.mload f) f.cnt s t ∧ Copied s t c n ∧
    (InPhaseM (.mload f) s → OtherItems s t [n]) ∧ (¬InPhaseM (.mload f) s → Copied s t c (4 + n) ∧ OtherItems s t [n, 4 + n])) ∧
  (∃ t, BankDone (.mzero f) f.cnt s t ∧ mget {} t.core.mat.metas n = { old with mode := f.slot.toNat } ∧
    (∀ x, x < 0x4800 → t.core.win.read (item n + x) = 0) ∧ (∀ k, k < 0x120 → mget {} t.core.tiles.marks (itemSector n k) = {}) ∧
    (InPhaseM (.mzero f) s → OtherItems s t [n]) ∧
    (¬InPhaseM (.mzero f) s → Copied t t n (4 + n) ∧ OtherItems s t [n, 4 + n])) ∧
  (∃ t, BankDone (.mclrf f) f.cnt s t ∧ mget {} t.core.mat.metas n = { mode := old.mode } ∧
    (∀ x, x < 0x4800 → t.core.win.read (item n + x) = s.core.win.read (item n + x)) ∧
    (∀ k, k < 0x120 → mget {} t.core.tiles.marks (itemSector n k) = mget {} s.core.tiles.marks (itemSector n k)) ∧
    (InPhaseM (.mclrf f) s → OtherItems s t [n]) ∧ (¬InPhaseM (.mclrf f) s → Copied t t n (4 + n) ∧ OtherItems s t [n, 4 + n])) ∧
  (s.core.outbuf.length < 256 → ∃ w : Word,
    exec (.mstat f) s = .next { s with core := { counted (.mstat f) f.cnt 1 s { s.core with
      outbuf := s.core.outbuf ++ [(w, inPhase s (headOr s .matrix (.mstat f)))] } with ended := .done } } ∧
    ((∀ k, k < 4 → (mget {} s.core.mat.metas k).mode < 4) →
      (∀ k, k < 16 → bit w (48 + k) = bit (mget (0 : BitVec 256) s.core.mat.bounds k) 68) ∧ bits w 47 34 = 0 ∧
      bits w 33 32 = s.core.mat.loss % 4 ∧ bits w 23 12 = 0 ∧ ∀ k, k < 4 → let b := mget {} s.core.mat.metas k
        bits w (25 + 2 * k) (24 + 2 * k) = b.mode ∧ bit w (3 * k + 2) = b.inv ∧ bit w (3 * k + 1) = b.sat ∧ bit w (3 * k) = b.ovf))

/-- R281 to R283: MOUT, whose void mask has been read, writes row r at r times the pitch from its first tile, each element converted from
the mode of the bank and a void row as zeros, when its bound is off or no element violates it; nothing else of the scratchpad
changes, and a sector written whole loses its marks; the conversions' flags join the bank's word; a fill action sets the tiles written FULL. -/
def Sys2Proof.Claims.WriteBack : Prop := ∀ (f : MO) (s s1 : State) (void : Nat), MatrixIdle s →
  let out := mget 0 s.core.mat.cfg 0x23
  let rows := bits out 5 0
  let pitch := bits out 31 16
  let z := tySize f.ty
  let t0 := f.tile.toNat
  let ph := inPhase s (headOr s .matrix (.mout f))
  let last := (rows - 1) * pitch + 96 * z
  let ts := (List.range ((last - 1) / 4096 + 1)).map (t0 + ·)
  let m := mget {} s.core.mat.metas f.acc.toNat
  let conv := fun r j => writeConvert m.mode f.ty f.rnd.toNat (bit out 6) (accAt s.core r (96 * f.acc.toNat + j))
  let b := Bound.ofWord (mget (0 : BitVec 256) s.core.mat.bounds f.k.toNat)
  0 < rows → 96 * z ≤ pitch → last ≤ (64 - t0) * 4096 → voidMask (matFault 6) ph s = .ok void s1 →
  s1.core.mat = s.core.mat → s1.core.win = s.core.win → s1.core.ph = s.core.ph → s1.core.tiles = s.core.tiles →
  (s1.core.mq = s.core.mq ∨ ∃ c v, s.core.mq.headCmd = some c ∧ s1.core.mq = s.core.mq.setHead { c with voids := some v }) →
  s1.core.flags = s.core.flags →
  (ph = true → ∀ e, s.core.ph.exec = some e → ∀ i ∈ ts, bit e.readTiles i = false) →
  (f.ben = true → b.action = 0 ∨ (b.refused f.ty = false ∧ ∀ r j, r < rows → j < 96 → void.testBit r = false →
    (b.check f.ty (conv r j).1).1 = false)) →
  f.tag = 0 ∨ (f.tag = 1 ∧ ph = false ∧ (∀ i ∈ ts, bit s.core.tiles.tag i = false) ∧ grantsOf s.core .matrix = []) →
  ∃ t, exec (.mout f) s = .next t ∧ t.core.ended = .done ∧ t.hbm = s1.hbm ∧
    (∀ r j, r < rows → j < 96 → leNat (t.core.win.readN (4096 * t0 + r * pitch + j * z) z) =
      if void.testBit r then 0 else (conv r j).1 % 2 ^ (8 * z)) ∧
    (∀ x, (∀ r, r < rows → x < 4096 * t0 + r * pitch ∨ 4096 * t0 + r * pitch + 96 * z ≤ x) → t.core.win.read x = s.core.win.read x) ∧
    (∀ k, k < 0x1000 → (let whole := ∀ x, 64 * k ≤ x → x < 64 * (k + 1) → ∃ r, r < rows ∧ 4096 * t0 + r * pitch ≤ x ∧ x < 4096 * t0 + r * pitch + 96 * z
      (whole → t.core.tiles.mark k = {}) ∧ (¬whole → t.core.tiles.mark k = s.core.tiles.mark k))) ∧
    (∀ i, i < 64 → bit t.core.tiles.tag i = (bit s.core.tiles.tag i || (f.tag = 1 && ts.contains i))) ∧
    (let fl := orFlags (((List.range (96 * rows)).filter (fun i => !void.testBit (i / 96))).map (fun i => (conv (i / 96) (i % 96)).2))
     let word : BankMeta := { m with inv := m.inv || fl.inv, sat := m.sat || fl.sat, ovf := m.ovf || fl.ovf }
     t.core.mat = { s.core.mat with metas := mset {} s.core.mat.metas f.acc.toNat word }) ∧
    t.core.flags = (counted (.mout f) f.cnt 1 s s.core).flags

/-- R285: a bound check that is off changes nothing; one with a violation sets HIT; flag stores the elements as they are, clamp stores a
violating one at its bound, trap outside a phase raises BOUND_TRAP, and inside one cancels it once. -/
def Sys2Proof.Claims.BoundChecks : Prop := ∀ (f : FaultInfo) (ph : Bool) (k : Nat) (ty : BitVec 3) (es : List (Nat × Nat)) (s : State),
  let reg := mget (0 : BitVec 256) s.core.mat.bounds k
  let b := Bound.ofWord reg
  let hit := { s with core := { s.core with mat := { s.core.mat with
    bounds := mset 0 s.core.mat.bounds k (setBit reg 68 true) } } }
  let violates := fun e => (b.check ty e).1
  (b.action = 0 → boundCheck f ph k ty es s = .ok (es.map (·.2)) s) ∧
  (b.action ≠ 0 → b.refused ty = true → boundCheck f ph k ty es s = .error (.fault { f with code := .badOperand } false) s) ∧
  (b.action ≠ 0 → b.refused ty = false →
    ((∀ e ∈ es, violates e.2 = false) → boundCheck f ph k ty es s = .ok (es.map (·.2)) s) ∧
    ((∃ e ∈ es, violates e.2 = true) →
      (b.action = 1 → boundCheck f ph k ty es s = .ok (es.map (·.2)) hit) ∧
      (b.action = 2 → boundCheck f ph k ty es s =
        .ok (es.map (fun e => if violates e.2 then (b.check ty e.2).2 else e.2)) hit) ∧
      (b.action = 3 →
        (ph = false → ∃ w, boundCheck f ph k ty es s = .error (.fault { f with code := .boundTrap, w4 := w } false) hit) ∧
        (ph = true → s.core.mat.bretry = false → boundCheck f ph k ty es s = .error (.cancel .bound) hit))))

namespace Sys2Proof.Claims

/-- Row stream r of a core's draw unit. -/
def rowStream (c : Core) (r : Nat) : RowStream := mget {} c.draw.streams r

/-- A draw command completed with a change of the draw unit's registers alone. -/
def drawSet (i : Instr) (cnt : Bool) (s s1 : State) (d : DrawState) : Prop :=
  exec i s = .next { s1 with core := { counted i cnt 5 s { s1.core with draw := d } with ended := .done } }

/-- The values that a DCFG register takes (Table 13.2). -/
def DcfgValue (sel : Nat) (v : Word) : Prop :=
  (sel = 0 ∧ ∃ row n, 1 ≤ n ∧ row + n ≤ 48 ∧ v.toNat = n * 2 ^ 8 + row) ∨
  (sel = 1 ∧ ∃ tb nc col, 1 ≤ nc ∧ col + nc ≤ 384 ∧ v.toNat = tb * 2 ^ 32 + nc * 2 ^ 16 + col) ∨
  (sel = 2 ∧ v.toNat % 16 = 0 ∧ v.toNat + 768 ≤ 262144) ∨
  (sel = 3 ∧ ∃ stride dist cand, 1 ≤ stride ∧ stride ≤ 4095 ∧ dist < 262144 ∧ cand < 262144 ∧ dist % 64 = 0 ∧ cand % 64 = 0 ∧
    v.toNat = stride * 2 ^ 36 + dist * 2 ^ 18 + cand) ∨
  (sel = 4 ∧ ∃ n off, 1 ≤ n ∧ n ≤ 65536 ∧ off % 4 = 0 ∧ off + 4 * n ≤ 262144 ∧ off < 262144 ∧ v.toNat = n * 2 ^ 32 + off)

end Sys2Proof.Claims

/-- R290, R291: DCFG, DKEY and DCTR write a draw register or a part of a row stream; DCTRR posts the stream's counter; nothing else
changes. -/
def Sys2Proof.Claims.DrawConfiguration : Prop := ∀ (f : MX) (s s1 : State) (v : Word), MatrixIdle s →
  let row := f.sel.toNat % 64
  (MxOperand f s s1 v →
    let d := s1.core.draw
    let st := rowStream s1.core row
    (DcfgValue f.sel.toNat v → drawSet (.dcfg f) f.cnt s s1 { d with cfg := mset 0 d.cfg f.sel.toNat v }) ∧
    (∀ w, w < 4 → f.sel.toNat = w * 64 + row → ∃ key : BitVec 256, ∃ keyed : RowStream, keyed = { st with key := key } ∧
      drawSet (.dkey f) f.cnt s s1 { d with streams := mset {} d.streams row keyed } ∧
      ∀ j, j < 4 → key.extractLsb' (64 * j) 64 = if j = w then v else st.key.extractLsb' (64 * j) 64) ∧
    (f.sel.toNat = 256 + row → v.toNat < 2 ^ 32 →
      drawSet (.dkey f) f.cnt s s1 { d with streams := mset {} d.streams row { st with seq := v.setWidth 32 } }) ∧
    drawSet (.dctr f) f.cnt s s1 { d with streams := mset {} d.streams row { st with ctr := v } }) ∧
  (s.core.outbuf.length < 256 → exec (.dctrr f) s = .next { s with core := { counted (.dctrr f) f.cnt 5 s { s.core with
    outbuf := s.core.outbuf ++ [((rowStream s.core row).ctr, inPhase s (headOr s .matrix (.dctrr f)))] } with ended := .done } })

/-- R296, R297, R300: a candidate list's distribution is empty for no candidate and uniform when every candidate is −∞; the number
of accepted tokens is the largest j whose bounded product reaches u. -/
def Sys2Proof.Claims.DrawLists : Prop :=
  (∀ topp, distribution topp [] = (3, [])) ∧
  (∀ (topp : Machine.Num) (cand : List (Nat × Nat)), cand ≠ [] → (∀ e ∈ cand, e.2 = 0xFF800000) → (cand.map (·.1)).Nodup →
    ∃ es, distribution topp cand = (2, es) ∧ (es.map (·.1)).Pairwise (· < ·) ∧ (es.map (·.1)).Perm (cand.map (·.1)) ∧
      ∀ e ∈ es, e.2 = (fp32.div 0 false (fp32.decode 0x3F800000) (fp32.decode (convIF fp32 0 false cand.length).1)).1) ∧
  (∀ (u : Nat) (ids : List Nat), ids.Pairwise (· < ·) → ids ≠ [] → u < 2 ^ 24 → ∀ p,
    drawList u (2, ids.map (fun i => (i, p))) = some (ids.getD (u * ids.length / 2 ^ 24) 0)) ∧
  (∀ (d : Draft) (u : Nat),
    let reaches := fun j => numLt (let g := fp32.decode ((acceptG d).getD j 0)
      if numLt g (fp32.decode 0x3F800000) then g else fp32.decode 0x3F800000) (.fin false u (-24)) = false
    acceptCount d u ≤ d.k ∧ (0 < acceptCount d u → reaches (acceptCount d u - 1)) ∧
      ∀ j, acceptCount d u ≤ j → j < d.k → ¬reaches j)

namespace Sys2Proof.Claims

/-- A drawing command of one row r that is not void, outside a phase: its head has given the row's record p and candidates `cand`. -/
def OneRow (i : Instr) (opc : Nat) (s s1 : State) (r void : Nat) (p : RowRec) (cand : List ListEntry) : Prop :=
  MatrixIdle s ∧ ¬InPhaseM i s ∧ drawRows (matFault opc) false s = .ok ([r], void) s1 ∧ void.testBit r = false ∧
    drawHead (matFault opc) false [r] s1 = .ok [(r, p, cand)] s1 ∧ s1.core.outbuf.length < 256 ∧ s1.core.flags = s.core.flags

/-- The bytes of a list (R293). -/
def listBytes (status : Nat) (es : List ListEntry) : List Byte :=
  leBytes 4 es.length ++ leBytes 2 status ++ leBytes 2 0 ++ es.flatMap (fun e => leBytes 4 e.1 ++ leBytes 4 e.2)

/-- A list stands at an offset; every other byte of the window is as it was. -/
def ListAt (s t : State) (off status : Nat) (es : List ListEntry) : Prop :=
  t.core.win.readN off (8 + 8 * es.length) = listBytes status es ∧
    ∀ x, x < off ∨ off + 8 + 8 * es.length ≤ x → t.core.win.read x = s.core.win.read x

/-- The command completed; of the row streams only that of row r changed, and the replies are posted after those that stood. -/
def DrawDone (i : Instr) (cnt : Bool) (s s1 t : State) (r : Nat) (st : RowStream) (replies : List Word) : Prop :=
  exec i s = .next t ∧ t.core.ended = .done ∧ t.hbm = s1.hbm ∧ rowStream t.core r = st ∧
    (∀ k, k ≠ r → rowStream t.core k = rowStream s1.core k) ∧ t.core.draw.cfg = s1.core.draw.cfg ∧
    t.core.outbuf = s1.core.outbuf ++ replies.map (·, false) ∧ t.core.flags = (counted i cnt 5 s s.core).flags ∧
    t.core.mat = s1.core.mat

end Sys2Proof.Claims

/-- R294 to R301: on one row that is not void, DSAMP and DCLUS write its distribution, consume one word, set its token base and post the
token or cluster; DARGMAX posts the candidate that ranks first; DACCEPT consumes two words and posts the accepted count and its
token; DGRAM merges its permitted scaled logits into the candidate list, in any order. -/
def Sys2Proof.Claims.DrawResults : Prop := ∀ (f : MT) (s s1 : State) (r void : Nat) (p : RowRec) (cand : List ListEntry),
  let st := rowStream s1.core r
  let u := (streamWord st).toNat / 256
  let d := distribution p.topp cand
  let place := listPlaces s1.core r
  (OneRow (.dsamp f) 0x25 s s1 r void p cand →
    (∃ t, DrawDone (.dsamp f) f.cnt s s1 t r { st with tbase := 0, ctr := if bit f.mode 0 then st.ctr + 1 else st.ctr }
      (if bit f.mode 0 then [drawReply 0 (replyStatus d.1) r 0 (drawList u d)] else []) ∧ ListAt s1 t place.2 d.1 d.2)) ∧
  (OneRow (.dclus f) 0x26 s s1 r void p cand →
    let tab := mget 0 s1.core.draw.cfg 4
    mget 0 s.core.draw.cfg 4 = tab → (∀ e ∈ cand, e.1 < bits tab 48 32) → 0 < bits tab 48 32 →
    ∀ s2, drawRow (matFault 0x26) false true r s1 = .ok (drawList u d, replyStatus d.1) s2 →
    (∀ cl bs, drawList u d = some cl → readSp (matFault 0x26) false (bits tab 17 0 + 4 * cl) 4 s2 = .ok bs s2 →
      ∃ t, DrawDone (.dclus f) f.cnt s s1 t r { st with tbase := BitVec.ofNat 32 (leNat bs), ctr := st.ctr + 1 }
        [drawReply 1 (replyStatus d.1) r 0 (some cl)] ∧ ListAt s1 t place.2 d.1 d.2) ∧
    (drawList u d = none → ∃ t, DrawDone (.dclus f) f.cnt s s1 t r { st with tbase := 0xFFFFFFFF, ctr := st.ctr + 1 }
        [drawReply 1 (replyStatus d.1) r 0 none] ∧ ListAt s1 t place.2 d.1 d.2)) ∧
  (OneRow (.dargmax f) 0x28 s s1 r void p cand →
    ∃ t, DrawDone (.dargmax f) f.cnt s s1 t r { st with tbase := 0 } [match (rankList cand).head? with
      | some e => drawReply 0 0 r 0 (some e.1)
      | none => drawReply 0 2 r 0 none] ∧ t.core.win = s1.core.win) ∧
  (∀ dr : Draft, MatrixIdle s → ¬InPhaseM (.daccept f) s → drawRows (matFault 0x27) false s = .ok ([r], void) s1 → void.testBit r = false →
    f.ga = 0 → f.ta.toNat + r / 32 < 64 → draftRecord (matFault 0x27) false (4096 * f.ta.toNat + 128 * r) s1 = .ok dr s1 →
    s1.core.outbuf.length < 256 → s1.core.flags = s.core.flags →
    let a := acceptRow dr u ((streamWord { st with ctr := st.ctr + 1 }).toNat / 256)
    ∃ t, DrawDone (.daccept f) f.cnt s s1 t r { st with ctr := st.ctr + 2 } [drawReply 2 a.2.2 r a.1 a.2.1] ∧ t.core.win = s1.core.win) ∧
  (∀ (old : List ListEntry) (map : List Byte), MatrixIdle s → ¬InPhaseM (.dgram f) s →
    let ch := mget 0 s.core.draw.cfg 1
    let fi := matFault 0x24
    0 < bits ch 24 16 → 0 < bits (mget 0 s.core.draw.cfg 3) 47 36 → (∀ k, k < 4 → (mget {} s.core.mat.metas k).mode = 0) →
    drawRows fi false s = .ok ([r], void) s1 → s1.core.draw = s.core.draw → void.testBit r = false → st.tbase ≠ 0xFFFFFFFF → f.ga = 0 →
    rowRecord fi false r s1 = .ok p s1 → checkLists fi [(r, p)] s1 = .ok () s1 →
    (if bit f.mode 0 then old = [] else storedCandidates fi false (r, p) s1 = .ok old s1) →
    (if p.gram then readSp fi false (4096 * f.ta.toNat + 48 * r) ((bits ch 24 16 + 7) / 8) s1 = .ok map s1 else map = []) → s1.core.flags = s.core.flags →
    ∃ t es, DrawDone (.dgram f) f.cnt s s1 t r st [] ∧ ListAt s1 t place.1 0 es ∧
      es.Perm (((List.range (bits ch 24 16)).filter (fun j => !p.gram || bit (map.getD (j / 8) 0) (j % 8))).foldl
        (fun l j => mergeEntry p.topk l ((bits ch 63 32 + st.tbase.toNat + j) % 2 ^ 32,
          scaledLogit (accAt s1.core r (bits ch 8 0 + j)) p.invt)) (rankList old)))

namespace Sys2Proof.Claims

/-- The queue that a Ferry lane names (R40). -/
def ferryQueue (f : FM) : Queue := if f.st then .ferryStore else .ferryLoad

/-- A Ferry command and its fault, inside the executing phase or not, with the addresses that it goes on to. -/
def ferryCtx (f : FM) (opc : Nat) (ph : Bool) (rest : List Nat) : FerryCtx :=
  { f := f, fault := ferryFault f.st opc, ph := ph, rest := rest }

/-- The command at the head of a queue is kept as c. -/
def headKept (q : Queue) (c : Cmd) (s : State) : State :=
  { s with core := s.core.setQueue q ((s.core.queue q).setHead c) }

/-- The command of the queue's turn belongs to the executing phase. -/
def InPhaseF (f : FM) (i : Instr) (s : State) : Bool := inPhase s (headOr s (ferryQueue f) i)

/-- A Ferry command stands at its head in `s1`, its operand v known; a store-queue command runs outside a phase (R160), an acquire
behind no earlier command that has still to complete (R338). -/
def FerryHead (i : Instr) (f : FM) (s s1 : State) (v : Word) (c : Cmd) : Prop :=
  let q := ferryQueue f
  (f.st = true → InPhaseF f i s = false) ∧ engOperand q false f.xa s = .ok v s1 ∧ (s1.core.queue q).headCmd = some c ∧ c.instr = i ∧
    c.relp = false ∧ (f.acq = true → (s1.core.queue q).ending = [])

/-- The command waits for none of its writes: a release for no logged write of the Ferry, a store-queue command for no unacknowledged
one of its own or of an earlier command (R148, R338). -/
def WritesDone (f : FM) (s : State) : Prop :=
  (f.rel = true → sdlOf s.core 5 = []) ∧ (f.st = true → unackedUpTo s s.cur (s.core.queue (ferryQueue f)).headPos = false)

/-- A note on the executing phase. -/
def phaseNote (ph : Bool) (g : PhaseExec → PhaseExec) (k : Core) : Core :=
  if ph then { k with ph := { k.ph with exec := k.ph.exec.map g } } else k

/-- The count on f2 or f3, held to the commit inside the executing phase (R37, R355). -/
def ferryCount (f : FM) (ph : Bool) (k : Core) : Core :=
  let n := if f.st then 3 else 2
  if f.cnt = false then k
  else if ph then phaseNote true (fun e => { e with counts := e.counts ++ [(n, 1)] }) k
  else { k with flags := mset 0 k.flags n (mget 0 k.flags n + 1) }

/-- A destination tile becomes FULL, inside the executing phase at its commit (R155, R356). -/
def tileFull (ph : Bool) (i : Nat) (k : Core) : Core :=
  if ph then phaseNote true (fun e => { e with heldFull := setBit e.heldFull i true }) k else { k with tiles := k.tiles.setTag i true }

/-- The end of a command (R155, R164): consumes of its sources, FULL of its destinations, its count on f2 or f3. -/
def ferryEnded (f : FM) (ph dst : Bool) (ts : List Nat) (c : Cmd) (s : State) : State :=
  let k := if dst then s.core else ts.foldl (fun k i => endSrc ph f.tag.toNat i k) s.core
  let k := k.setQueue (ferryQueue f) ((k.queue (ferryQueue f)).setHead { c with relp := true })
  let k := if dst = true ∧ (f.tag = 1 ∨ f.tag = 3) then ts.foldl (fun k i => tileFull ph i k) k else k
  { s with core := { ferryCount f ph k with ended := .done } }

/-- The command waits at the stop point behind a sector (R161). -/
def SectorMoved (i : Instr) (s t : State) : Prop := exec i s = .next { t with core := { t.core with ended := .stalled .sector } }

/-- A register-form command (R164): once its limits hold and its tag waits are granted, a turn moves its next sector, with `rest` to
follow; behind the last it ends. -/
def RegisterForm (i : Instr) (f : FM) (opc : Nat) (dst : Bool) (legal : Word → Nat → State → Prop)
    (moves : FerryCtx → Word → Nat → Cmd → State → Bool → State → Prop) : Prop :=
  ∀ (s s1 s3 s4 : State) (v : Word) (c c3 : Cmd) (logged : Bool), FerryHead i f s s1 v c →
    let q := ferryQueue f
    let ph := InPhaseF f i s
    let len := c.len.getD (s1.core.tiles.len f.tile.toNat)
    let held := { c with len := some len, acqd := f.acq }
    (c.len = none → legal v len s1) →
    ferryTags (ferryCtx f opc ph []) dst [f.tile.toNat] held (headKept q held s1) = .ok c3 s3 →
    c3.sect < len / 64 → (c3.sect + 1 = len / 64 → f.rel = true → WritesDone f s3) →
    moves (ferryCtx f opc ph (pageAhead (v.toNat + 64 * c3.sect) (v.toNat + len))) v c3.sect c3 s3 logged s4 →
    let c4 := { c3 with sect := c3.sect + 1, bytes := c3.bytes + 64, logged := c3.logged || logged }
    let s5 := headKept q c4 s4
    (c3.sect + 1 < len / 64 → SectorMoved i s s5) ∧
    (c3.sect + 1 = len / 64 → WritesDone f s5 → exec i s = .next (ferryEnded f ph dst [f.tile.toNat] c4 s5))

/-- A sector enters a tile (R155): with tag action 00 an arrival on the command's channel, else a plain write. -/
def intoTile (x : FerryCtx) (off : Nat) (v : BitVec 512) (mk : Marks) (s : State) : State :=
  let bs := leBytes 64 v.toNat
  let plain := phaseNote x.ph (fun e => { e with wroteTiles := setBit e.wroteTiles (off / 4096) true }) (s.core.writeScratch off bs mk)
  { s with core := if x.f.tag = 0 then s.core.arrive off bs mk x.ph (some x.f.ch.toNat) else plain }

/-- The sector of the scratchpad at an offset, with its marks. -/
def scratchSector (s : State) (off : Nat) : BitVec 512 × Marks :=
  (BitVec.ofNat 512 (leNat (s.core.win.readN off 64)), s.core.tiles.mark (off / 64))

end Sys2Proof.Claims

/-- R150, R154 to R156, R161, R164: the register forms move a sector a turn: FLD brings it into the tile, FST takes it to memory, FTT and
FNEAR to the near map or another island, each with its marks; FFILL writes eight copies of its pattern and clears the marks. -/
def Sys2Proof.Claims.FerryRegisterForms : Prop := ∀ f : FM,
  let off := fun (k : Nat) => 4096 * f.tile.toNat + 64 * k
  let fi := ferryFault f.st
  let near := fun (x : FerryCtx) (v : Word) (k : Nat) (_ : Cmd) (s : State) (logged : Bool) (s' : State) => logged = false ∧
    nearSector x (v + BitVec.ofNat 64 (64 * k)) (scratchSector s (off k)).1 (scratchSector s (off k)).2 s = .ok () s'
  RegisterForm (.fld f) f 0x01 true (fun v _ s => checkMem (fi 0x01) v s = .ok () s) (fun x v k _ s logged s' => logged = false ∧
    ∃ r t, fetchSector x (v + BitVec.ofNat 64 (64 * k)) s = .ok r t ∧ s' = intoTile x (off k) r.data r.marks t) ∧
  RegisterForm (.fst f) f 0x03 false (fun v _ s => checkMem (fi 0x03) v s = .ok () s) (fun x v k c s logged s' =>
    storeSector x c 0 (v + BitVec.ofNat 64 (64 * k)) (scratchSector s (off k)).1 (scratchSector s (off k)).2 s = .ok logged s') ∧
  RegisterForm (.ftt f) f 0x05 false (fun v n s => checkScratch (fi 0x05) v n s = .ok () s) near ∧
  RegisterForm (.fnear f) f 0x0B false (fun v n s => checkRegion (fi 0x0B) v n s = .ok () s) near ∧
  RegisterForm (.ffill f) f 0x0A true (fun _ _ _ => True) (fun x v k _ s logged s' => logged = false ∧
    ∃ p : BitVec 512, (∀ j, j < 8 → p.extractLsb' (64 * j) 64 = v) ∧ s' = intoTile x (off k) p {} s)

/-- R103, R152, R156 to R158, R166: what a sector's move does on this island: a read gives the sector at the place that the tables give, with
its marks; a write or reduction of a mapped page is performed there and its bytes counted on the channel, and one that misses, or
stands behind a logged write to its page, enters the store side log; a near-map write is an arrival in the scratchpad; a
parameter block comes from the cache, else from memory into it. -/
def Sys2Proof.Claims.FerrySectorMoves : Prop := ∀ (f : FM) (opc : Nat) (ph : Bool) (rest : List Nat) (s : State) (a : Word),
  let x := ferryCtx f opc ph rest
  let page := a.toNat / 65536
  let req := { coreReq s x.fault with next := nextPage a.toNat rest }
  let asn := s.core.attrs.asn.toNat
  a.toNat % 64 = 0 → a.toNat < 2 ^ 52 → sdlHolds s.core 5 asn page = false →
  (∀ l s1 r s2, translate req a.toNat .read s = .ok l s1 → Untested s1 l → locRead true 0 l s1 = (r, s2) →
    r.e3 = false → fetchSector x a s = .ok r s2) ∧
  (∀ (c : Cmd) (v : BitVec 512) (mk : Marks) l s1, c.logged = false →
    (tryTranslate req a.toNat .write s = .ok (.ok l) s1 → Unheld s1 l →
      storeSector x c 0 a v mk s = .ok false (countOnPointer s1.cur f.ch.toNat 64 (locWrite l (BitVec.allOnes 64) v mk s1))) ∧
    (∀ op s2, op < 4 → tryTranslate req a.toNat .atomic s = .ok (.ok l) s1 → Unheld s1 l →
      reduceAt l op (BitVec.allOnes 64) v mk s1 = (none, s2) →
      storeSector x c (1 + op) a v mk s = .ok false (countOnPointer s2.cur f.ch.toNat 64 s2)) ∧
    (∀ op m e s2, op < 5 → tryTranslate req a.toNat (if op = 0 then .write else .atomic) s = .ok (.error m) s1 →
      noteMiss req (if op = 0 then .write else .atomic) m false s1 = .ok () s2 → (sdlOf s2.core 5).length < 64 →
      e = SdlEntry.mk 5 asn a.toNat v (BitVec.allOnes 64) mk op (some f.ch.toNat) 64 (streamPos s.core 5) [] →
      storeSector x c op a v mk s = .ok true { s2 with core := { s2.core with sdl := s2.core.sdl ++ [e] } })) ∧
  (∀ (c : Cmd) (v : BitVec 512) (mk : Marks) e op, op < 5 → c.logged = true → (sdlOf s.core 5).length < 64 →
    e = SdlEntry.mk 5 asn a.toNat v (BitVec.allOnes 64) mk op (some f.ch.toNat) 64 (streamPos s.core 5) [] →
    storeSector x c op a v mk s = .ok true { s with core := { s.core with sdl := s.core.sdl ++ [e] } }) ∧
  (∀ (v : BitVec 512) (mk : Marks), nearSector x a v mk s =
    .ok () (nearWriteAt (a.toNat / 2 ^ 20) (a.toNat % 2 ^ 20) (leBytes 64 v.toNat) mk (some f.ch.toNat) s)) ∧
  ((∀ e, s.core.pbc.find? (fun e => e.asn == asn && e.va == a.toNat) = some e → readBlock x a s = .ok e.data s) ∧
    (∀ r s2, s.core.pbc.find? (fun e => e.asn == asn && e.va == a.toNat) = none → engSector x.fault a.toNat [] s = .ok r s2 →
      bad s2 r.marks = false → readBlock x a s =
        .ok r.data { s2 with core := { s2.core with pbc := ({ asn := asn, va := a.toNat, data := r.data } :: s2.core.pbc).take 16 } })) ∧
  (f.tag = 0 → ph = false → ∀ (dst : Bool) (c : Cmd) (q : Queue), q = ferryQueue f → (s.core.queue q).headCmd = some c → c.tags = false →
    ferryTags x dst [f.tile.toNat] c s = .ok { c with tags := true } (headKept q { c with tags := true } s))

/-- R166: a reduction combines each 4-byte element with its word at the place, in FP32 or INT32, and writes the whole sector with the
union of the marks. -/
def Sys2Proof.Claims.ReductionElements : Prop := ∀ (s : State) (a op nlc : Nat) (v : BitVec 512), Sound s (a / 64) → Agrees s (a / 64) nlc →
  (mget {} s.sectors (a / 64)).marks = {} → a % 64 = 0 → op < 4 →
  (reduceAt ⟨false, a, nlc⟩ op (BitVec.allOnes 64) v {} s).1 = none ∧ ∀ k, k < 16 →
  let old := leNat (s.hbm.readN (a + 4 * k) 4)
  let w := (v.extractLsb' (32 * k) 32).toNat
  leNat ((reduceAt ⟨false, a, nlc⟩ op (BitVec.allOnes 64) v {} s).2.hbm.readN (a + 4 * k) 4) =
    if op = 0 then (fp32.add 0 false (fp32.decode old) (fp32.decode w)).1 % 2 ^ 32
    else if op = 1 then (old + w) % 2 ^ 32
    else if op = 2 then (if (BitVec.ofNat 32 old).toInt < (BitVec.ofNat 32 w).toInt then w else old)
    else (fp32.minmax true old w (fp32.decode old) (fp32.decode w)).1 % 2 ^ 32

namespace Sys2Proof.Claims

/-- A parameter-block command (R161, R165): its block once read, its limits met and its tag waits granted, a turn moves the next sector of its
rows between the row's address, taken as the row starts, and the span; a source tile whose last sector this is ends then; behind the
last sector the command ends. -/
def BlockForm (i : Instr) (f : FM) (opc : Nat) (dst indexed reduces : Bool) (first : PBlock → State → Prop)
    (addr : FerryCtx → PBlock → Nat → State → Word → State → Prop)
    (moves : FerryCtx → PBlock → Nat → Word → Cmd → State → Bool → State → Prop) : Prop :=
  ∀ (s s1 s2 s3 s3' s4 : State) (a m : Word) (c c3 : Cmd) (d : BitVec 512) (logged : Bool), FerryHead i f s s1 a c →
    let q := ferryQueue f
    let ph := InPhaseF f i s
    let x := ferryCtx f opc ph
    let b := PBlock.of d
    let ts := (List.range b.nt).map (f.tile.toNat + ·)
    let held := { c with block := some d, acqd := f.acq }
    (c.block = some d → s2 = s1) →
    (c.block ≠ some d → c.block = none ∧ readBlock (x []) a s1 = .ok d s2 ∧ first b s2) →
    b.ok f.tile.toNat indexed reduces = true →
    ferryTags (x []) dst ts held (headKept q held s2) = .ok c3 s3 →
    (∀ k, c3.len = some k → m.toNat = k ∧ s3' = s3) → (c3.len = none → addr (x []) b c3.row s3 m s3') →
    let per := b.rowb / 64
    let n := c3.row * per + c3.sect
    let off := 4096 * f.tile.toNat + b.toff + 64 * n
    let final := n + 1 = b.rows * per
    let c' := { c3 with len := some m.toNat }
    c3.sect < per → c3.row < b.rows → (final → f.rel = true → WritesDone f (headKept q c' s3')) →
    let a' := m + BitVec.ofNat 64 (64 * c3.sect)
    moves (x (b.rest indexed n a')) b off a' c' (headKept q c' s3') logged s4 →
    let c4 := { c' with sect := c3.sect + 1, bytes := c3.bytes + 64, logged := c3.logged || logged }
    let i' := (off + 64) / 4096 - 1
    let tileEnds := dst = false ∧ (off + 64) % 4096 = 0
    let c5 := if tileEnds then { c4 with grants := c4.grants.erase (i', f.tag.toNat) } else c4
    let s5 := headKept q c5 (if tileEnds then { s4 with core := endSrc ph f.tag.toNat i' s4.core } else s4)
    (¬final → c3.sect + 1 < per → SectorMoved i s s5) ∧
    (¬final → c3.sect + 1 = per → SectorMoved i s (headKept q { c5 with row := c3.row + 1, sect := 0, len := none } s5)) ∧
    (final → let c6 := { c4 with row := c3.row + 1, sect := 0, len := none }
      let s6 := headKept q c6 s4
      WritesDone f s6 → exec i s = .next (ferryEnded f ph dst (ts.filter (fun t => dst || off < 4096 * (t + 1))) c6 s6))

end Sys2Proof.Claims

/-- R151 to R155, R161, R165, R166: the parameter-block commands move a sector a turn: FLDP and FSWI bring it from memory into the span, FSTP,
FSWP and FRED take it to memory, FTTP to a scratchpad; the indexed forms read a row's index from their index tile as the row
starts. -/
def Sys2Proof.Claims.FerryBlockForms : Prop := ∀ f : FM,
  let direct := fun (x : FerryCtx) (b : PBlock) (r : Nat) (s : State) (m : Word) (s' : State) =>
    m = b.maddr + BitVec.ofNat 64 r * b.mstride ∧ s' = s ∧ checkMem x.fault m s = .ok () s
  let indexed := fun (x : FerryCtx) (b : PBlock) (r : Nat) (s : State) (m : Word) (s' : State) =>
    let off := 4096 * b.xt + b.xoff + 4 * r
    m = b.maddr + BitVec.ofNat 64 (leNat (s.core.win.readN off 4)) * b.mstride ∧ bad s (s.core.tiles.mark (off / 64)) = false ∧
      s' = { s with core := phaseNote x.ph (fun e => { e with readTiles := setBit e.readTiles b.xt true }) s.core } ∧
      checkMem x.fault m s' = .ok () s'
  let load := fun (x : FerryCtx) (_ : PBlock) (off : Nat) (m : Word) (_ : Cmd) (s : State) (logged : Bool) (s' : State) => logged = false ∧
    ∃ r t, fetchSector x m s = .ok r t ∧ s' = intoTile x off r.data r.marks t
  let store := fun (op : PBlock → Nat) (x : FerryCtx) (b : PBlock) (off : Nat) (m : Word) (c : Cmd) (s : State) (logged : Bool) (s' : State) =>
    storeSector x c (op b) m (scratchSector s off).1 (scratchSector s off).2 s = .ok logged s'
  let mem := fun (opc : Nat) (b : PBlock) (s : State) => checkMem (ferryFault f.st opc) b.maddr s = .ok () s
  let row := fun (b : PBlock) (r : Nat) => b.maddr + BitVec.ofNat 64 r * b.mstride
  BlockForm (.fldp f) f 0x02 true false false (mem 0x02) direct load ∧
  BlockForm (.fstp f) f 0x04 false false false (mem 0x04) direct (store (fun _ => 0)) ∧
  BlockForm (.fttp f) f 0x06 false false false
    (fun b s => ∀ r, r < b.rows → checkScratch (ferryFault f.st 0x06) (row b r) b.rowb s = .ok () s)
    (fun x b r s m s' => m = row b r ∧ s' = s ∧ checkScratch x.fault m b.rowb s = .ok () s)
    (fun x _ off m _ s logged s' => logged = false ∧
      nearSector x m (scratchSector s off).1 (scratchSector s off).2 s = .ok () s') ∧
  BlockForm (.fswi f) f 0x09 true true false (fun _ _ => True) indexed load ∧
  BlockForm (.fswp f) f 0x08 false true false (fun _ _ => True) indexed (store (fun _ => 0)) ∧
  BlockForm (.fred f) f 0x0C false false true (mem 0x0C) direct (store (fun b => 1 + b.op))

/-- R148, R155, R160, R161, R167 to R169: inside a phase a store-queue command is set aside to the commit. FBB moves a block's sectors one a
turn, from the slot that its own table names to the slot that the target's names, and its last ends it when its writes are
acknowledged; a command that has issued its last read and waits for writes leaves the head to the next. FPBINV drops its cached block
or all; FWP ends when its pointer has reached the value, and adds to its flag. -/
def Sys2Proof.Claims.FerryWaitsAndEnds : Prop := ∀ (f : FM) (s : State),
  let q := ferryQueue f
  (∀ i ∈ [Instr.fst f, .fstp f, .ftt f, .fttp f, .fbb f, .fswp f, .fnear f, .fred f, .fld f, .fldp f, .fswi f, .ffill f, .fpbinv f, .fwp f],
    f.st = true → InPhaseF f i s = true → exec i s = .next { s with core := { s.core with
      ph := { s.core.ph with exec := s.core.ph.exec.map (fun e => { e with deferred := e.deferred ++ [(q, headOr s q i)] }) }
      ended := .done } }) ∧
  (∀ (s1 s2 s3 s4 : State) (v : Word) (c : Cmd) (blk : BitVec 512) (e : Nat) (r : SecRead) (t : State) (logged : Bool),
    FerryHead (.fbb f) f s s1 v c →
    let b := KvBlock.of blk
    let ph := InPhaseF f (.fbb f) s
    let x := ferryCtx f 0x07 ph []
    let target := fun (a : Word) (s : State) => checkTarget x.fault a s = .ok () s
    let held := { c with block := some blk, acqd := f.acq }
    (c.block = some blk → s2 = s1) →
    (c.block ≠ some blk → c.block = none ∧ readBlock x v s1 = .ok blk s2 ∧ b.ok = true ∧ b.stab.toNat < 2 ^ 52 ∧ b.spool.toNat < 2 ^ 52 ∧
      target b.dtab s2 ∧ target b.dpool s2 ∧ (b.dcnt = 0 ∨ target b.dcnt s2)) →
    (c.len = some e → s3 = headKept q held s2) →
    (c.len ≠ some e → c.len = none ∧ blockSlots x b c.blk (headKept q held s2) = .ok e s3) →
    let c1 := { held with len := some e }
    let src := b.spool + BitVec.ofNat 64 (e % 2 ^ 32 * b.slot)
    let dst := b.dpool + BitVec.ofNat 64 (e / 2 ^ 32 * b.slot)
    let o := BitVec.ofNat 64 (64 * c.sect)
    c.blk < b.nb → c.sect < b.slot / 64 → (src + o).toNat < 2 ^ 52 →
    let final := c.blk + 1 = b.nb ∧ c.sect + 1 = b.slot / 64
    (final → b.dcnt = 0 → f.rel = true → WritesDone f (headKept q c1 s3)) →
    engSector x.fault (src + o).toNat (pageAhead (src + o).toNat (src.toNat + b.slot)) (headKept q c1 s3) = .ok r t →
    target (dst + o) t → storeSector x c1 0 (dst + o) r.data r.marks t = .ok logged s4 →
    let c4 := { c1 with sect := c.sect + 1, bytes := c.bytes + 64, logged := c.logged || logged }
    let c5 := if c.sect + 1 = b.slot / 64 then { c4 with blk := c.blk + 1, sect := 0, len := none } else c4
    let s5 := headKept q c5 s4
    (¬final → SectorMoved (.fbb f) s s5) ∧
    (final → b.dcnt = 0 → WritesDone f s5 → exec (.fbb f) s = .next (ferryEnded f ph true [] c5 s5))) ∧
  (∀ i ∈ [Instr.fst f, .ftt f, .fnear f], ∀ (v : Word) (c : Cmd), f.st = true → InPhaseF f i s = false → (s.core.queue q).headCmd = some c →
    c.instr = i → c.opa = some v → c.len = some 64 → c.sect = 1 → c.acqd = f.acq → c.tags = true → c.relp = true →
    (f.acq = true → (s.core.queue q).ending = []) →
    (WritesDone f s → exec i s = .next { s with core := { ferryCount f false s.core with ended := .done } }) ∧
    (f.rel = false → unackedUpTo s s.cur (s.core.queue q).headPos = true → exec i s = .next { s with core := { s.core.setQueue q
      { s.core.queue q with entries := (s.core.queue q).entries.tail, ending := (s.core.queue q).ending ++ [{ c with grants := [] }] } with
        ended := .again } })) ∧
  (∀ (s1 : State) (v : Word), (f.st = true → InPhaseF f (.fpbinv f) s = false) → engOperand q false f.xa s = .ok v s1 →
    exec (.fpbinv f) s = .next { s1 with core := { s1.core with
      pbc := if bit v 0 then [] else s1.core.pbc.filter (fun e =>
        !(e.asn == s1.core.attrs.asn.toNat && e.va == v.toNat / 64 * 64)), ended := .done } }) ∧
  (∀ (s1 : State) (v : Word), InPhaseF f (.fwp f) s = false → engOperand q false f.xa s = .ok v s1 →
    let reached := (mget 0 s1.core.wp f.ch.toNat - v.setWidth 56).toNat < 2 ^ 55
    let flagged := if f.tile = 0 then s1.core.flags else mset 0 s1.core.flags f.tile.toNat (mget 0 s1.core.flags f.tile.toNat + 1)
    (reached → exec (.fwp f) s = .next { s1 with core := { ferryCount f false { s1.core with flags := flagged } with ended := .done } }) ∧
    (¬reached → ∃ t, exec (.fwp f) s = .next t ∧ t.core.ended = .stalled .pointer ∧ t.core.flags = s.core.flags ∧ t.hbm = s.hbm))

/-- R138, R155, Table 2.7: the tag action of a command on one tile outside a phase: an open source is granted, and one that is not waits, or
with action 11 traps; an EMPTY destination is granted, and one that is FULL waits or traps; at the end a consume empties the
tile when no granted read of it goes on, and action 01 or 11 sets a destination FULL. -/
def Sys2Proof.Claims.TagActions : Prop := ∀ (fi : FaultInfo) (q : Queue) (s : State) (k : Cmd) (i act : Nat), i < 64 →
  queueOfEngine fi.engine = some q → (s.core.queue q).headCmd = some k → k.grants = [] → 1 ≤ act → act ≤ 3 →
  let grant := fun (w : Nat) (s : State) => headKept q { k with grants := [(i, w)], waits := none } s
  let waits := fun (w : Nat) => headKept q { k with waits := some (i, w) } s
  (openFor s.core false i = true → act = 1 → ∃ t, tagStartSrc fi false act 0 i s = .ok () t ∧
    t = (let u := grant act s; { u with core := { u.core with
      tiles := { u.core.tiles with readers := mset 0 s.core.tiles.readers i (mget 0 s.core.tiles.readers i + 1) } } })) ∧
  (openFor s.core false i = true → 2 ≤ act → firstWaiter s.core q i = true → (∀ r, r ≠ q → sourceWaiter s.core i (· == 1) r = false) →
    tagStartSrc fi false act 0 i s = .ok () (let u := grant act s
      { u with core := { u.core with tiles := { u.core.tiles with granted := setBit s.core.tiles.granted i true } } })) ∧
  (openFor s.core false i = false → (act ≠ 3 → tagStartSrc fi false act 0 i s = .error (.wait .tagWait false) (waits act)) ∧
    (act = 3 → tagStartSrc fi false act 0 i s = .error (.fault { fi with code := .tagTrap, addr := 0 } false) s)) ∧
  (bit s.core.tiles.tag i = false → tagStartDst fi false act 0 i s = .ok () (grant (act + 4) s)) ∧
  (bit s.core.tiles.tag i = true → (act ≠ 3 → tagStartDst fi false act 0 i s = .error (.wait .tagWait false) (waits (act + 4))) ∧
    (act = 3 → tagStartDst fi false act 0 i s = .error (.fault { fi with code := .tagTrap } false) s)) ∧
  (2 ≤ act → mget 0 s.core.tiles.readers i = 0 → bit (endSrc false act i s.core).tiles.tag i = false ∧
    ∀ j, j < 64 → j ≠ i → bit (endSrc false act i s.core).tiles.tag j = bit s.core.tiles.tag j) ∧
  (act = 1 ∨ act = 3 → ∃ t, tagEndDst false act i s = .ok () t ∧
    ∀ j, j < 64 → bit t.core.tiles.tag j = if j = i then true else bit s.core.tiles.tag j)

namespace Sys2Proof.Claims

/-- The gather stream's TLB holds one 256 MiB page, readable and writable, that maps B to P in device memory; every sector of it is
sound, unmarked and of the page's code; no drain, fence, self-test, copy, logged write, hold, pin or refused page stands in the way. -/
def FlatPage (s : State) (B P nlc : Nat) : Prop :=
  (∃ e : TlbEntry, s.core.stlb = [(6, e)] ∧ e.asn = s.core.attrs.asn.toNat ∧ e.big = true ∧ e.base = B ∧ pteFrame e.pte.toNat = P ∧
    pteNlc e.pte.toNat = nlc ∧ bit e.pte 2 = true ∧ bit e.pte 3 = true ∧ bit e.pte 6 = true ∧ bit e.pte 7 = true ∧ bit e.pte 56 = false) ∧
  B % 2 ^ 28 = 0 ∧ B + 2 ^ 28 ≤ 2 ^ 52 ∧ nlc ≠ 14 ∧ (∀ sec, P ≤ 64 * sec → 64 * sec < P + 2 ^ 28 →
    Sound s sec ∧ Agrees s sec nlc ∧ (mget {} s.sectors sec).marks = {} ∧ Unheld s ⟨false, 64 * sec, nlc⟩) ∧
  s.core.refused = [] ∧ s.copies = [] ∧ s.core.sdl = [] ∧ s.holds = [] ∧ s.core.bmc = [] ∧ (∀ p x, slotPinned s p x = false) ∧
  (∀ d, (dieOf s d).pinned = [] ∧ pinsOn s d = 0)

/-- A gather command stands at its head outside a phase, not started, with its operands. -/
def GatherStart (i : Instr) (s : State) (xs xb : Word) : Prop :=
  inPhase s (headOr s .gather i) = false ∧ ∃ c, (s.core.queue .gather).headCmd = some c ∧ c.instr = i ∧ c.opa = some xs ∧ c.opb = some xb ∧
    c.block = none ∧ c.plan = none ∧ c.len = none ∧ c.blk = 0 ∧ c.tags = false ∧ c.reserved = [] ∧ c.logged = false ∧ c.pins = [] ∧ c.orphan = false

/-- The number in n bytes at a virtual address of the flat page. -/
def numAt (s : State) (B P va n : Nat) : Nat := leNat (s.hbm.readN (va - B + P) n)

/-- A range of the flat page. -/
def Within (B va n : Nat) : Prop := B ≤ va ∧ va + n ≤ B + 2 ^ 28

/-- The ranges of a list do not overlap. -/
def Apart (rs : List (Nat × Nat)) : Prop := rs.Pairwise (fun a b => a.1 + a.2 ≤ b.1 ∨ b.1 + b.2 ≤ a.1)

/-- Every byte of device memory outside the ranges is as it was. -/
def OnlyRanges (s t : State) (B P : Nat) (rs : List (Nat × Nat)) : Prop :=
  ∀ x, (∀ r ∈ rs, x < r.1 - B + P ∨ r.1 - B + P + r.2 ≤ x) → t.hbm.read x = s.hbm.read x

/-- A sequence descriptor in the flat page (R170). -/
def SeqAt (s : State) (B P : Nat) (q : Seq) : Prop :=
  Within B q.va 64 ∧ q.va % 64 = 0 ∧ Seq.parse q.va (BitVec.ofNat 512 (numAt s B P q.va 64)) = some q

/-- Table entry j (R171). -/
def entryOf (s : State) (B P : Nat) (q : Seq) (j : Nat) : Nat := numAt s B P (q.btab + 4 * j) 4
/-- The reference count of a slot (R174). -/
def countOf (s : State) (B P : Nat) (p : Pool) (x : Nat) : Nat := numAt s B P (p.bpt + 2 * x) 2
/-- FREEN. -/
def freeOf (s : State) (B P : Nat) (p : Pool) : Nat := numAt s B P (p.va + 28) 4

/-- A sequence with its pool in the flat page (R170, R173): descriptors, table, counts, free list, slots and scores apart; the free
list names distinct slots that no entry of the table names. -/
def TablesAt (s : State) (B P : Nat) (q : Seq) (p : Pool) : Prop :=
  SeqAt s B P q ∧ s.core.attrs.kvpools ≠ 0 ∧ p.va = s.core.attrs.kvpools.toNat + 64 * q.pool ∧ Within B p.va 64 ∧ p.va % 64 = 0 ∧
  Pool.parse p.va (p.va - B + P) (BitVec.ofNat 512 (numAt s B P p.va 64)) = some p ∧
  (let areas := [(q.va, 64), (p.va, 64), (q.btab, 4 * q.cap), (p.bpt, 2 * p.nslot), (p.freel, 4 * p.nslot), (p.slots, p.nslot * p.slotb)] ++
     (if q.score = 0 then [] else [(q.score, 64 * q.cap)])
   (∀ r ∈ areas, Within B r.1 r.2) ∧ Apart areas) ∧
  p.freen + q.cap ≤ p.nslot ∧
  (let free := (List.range p.freen).map (fun i => numAt s B P (p.freel + 4 * i) 4)
   free.Nodup ∧ (∀ x ∈ free, x < p.nslot) ∧ ∀ j, j < q.cap → entryOf s B P q j ∉ free)

/-- Entry j holds a slot of the pool with a count that a reference or a drop does not break. -/
def HoldsSlot (s : State) (B P : Nat) (q : Seq) (p : Pool) (j x : Nat) : Prop :=
  entryOf s B P q j = x ∧ x < p.nslot ∧ 1 ≤ countOf s B P p x ∧ countOf s B P p x < 0xFFFF

/-- The command completed; its count is on f4; the registers, the tags and the window are as they were. -/
def GatherDone (i : Instr) (f : GM) (s t : State) : Prop :=
  exec i s = .next t ∧ t.core.ended = .done ∧ t.core.sh = s.core.sh ∧ t.core.win = s.core.win ∧ t.core.tiles.tag = s.core.tiles.tag ∧
    t.holds = [] ∧ t.core.flags = if f.cnt then mset 0 s.core.flags 4 (mget 0 s.core.flags 4 + 1) else s.core.flags

/-- The slot that a pop of the free list takes (R174). -/
def topFree (s : State) (B P : Nat) (p : Pool) : Nat := numAt s B P (p.freel + 4 * (p.freen - 1)) 4

/-- A slot whose count fell to 0 is pushed: FREEL[FREEN] and FREEN (R174, R175). -/
def Pushed (s t : State) (B P : Nat) (p : Pool) (x : Nat) : Prop :=
  numAt t B P (p.freel + 4 * p.freen) 4 = x ∧ freeOf t B P p = freeOf s B P p + 1

end Sys2Proof.Claims

/-- R174, R190: the commands that change one entry's references, in a flat page: GREF references or drops the slot of one entry, GALLOC
pops a zeroed slot into an empty entry, GFREE drops an entry's slot, empties the entry and raises EPOCH; a drop to zero pushes
the slot; every other byte of memory stays. -/
def Sys2Proof.Claims.ReferenceCommands : Prop := ∀ (f : GM) (s : State) (B P nlc : Nat) (q : Seq) (p : Pool) (j x : Nat) (xs xb : Word),
  FlatPage s B P nlc → TablesAt s B P q p → xs.toNat = q.va → j < q.cap → f.tile = 0 → f.tag = 0 →
  let free := [(p.va + 28, 4), (p.freel + 4 * p.freen, 4)]
  let n := countOf s B P p x
  (GatherStart (.gref f) s xs xb → HoldsSlot s B P q p j x → xb.toNat = 2 ^ 32 + j → ∃ t, GatherDone (.gref f) f s t ∧
    countOf t B P p x = n + 1 ∧ OnlyRanges s t B P [(p.bpt + 2 * x, 2)]) ∧
  (GatherStart (.gref f) s xs xb → HoldsSlot s B P q p j x → xb.toNat = 2 ^ 63 + 2 ^ 32 + j → ∃ t, GatherDone (.gref f) f s t ∧
    countOf t B P p x = n - 1 ∧ (n = 1 → Pushed s t B P p x) ∧
    OnlyRanges s t B P ((p.bpt + 2 * x, 2) :: if n = 1 then free else [])) ∧
  (GatherStart (.galloc f) s xs xb → entryOf s B P q j = 0xFFFFFFFF → 1 ≤ p.freen → x = topFree s B P p → xb.toNat = j →
    ∃ t, GatherDone (.galloc f) f s t ∧ entryOf t B P q j = x ∧ countOf t B P p x = 1 ∧ freeOf t B P p = p.freen - 1 ∧
      (∀ k, k < p.slotb → numAt t B P (p.slotVa x + k) 1 = 0) ∧
      OnlyRanges s t B P [(q.btab + 4 * j, 4), (p.bpt + 2 * x, 2), (p.va + 28, 4), (p.slotVa x, p.slotb)]) ∧
  (GatherStart (.gfree f) s xs xb → HoldsSlot s B P q p j x → xb.toNat = j → ∃ t, GatherDone (.gfree f) f s t ∧
    entryOf t B P q j = 0xFFFFFFFF ∧ countOf t B P p x = n - 1 ∧ (n = 1 → Pushed s t B P p x) ∧
    numAt t B P (q.va + 20) 4 = (q.epoch + 1) % 2 ^ 32 ∧
    OnlyRanges s t B P ([(q.btab + 4 * j, 4), (p.bpt + 2 * x, 2), (q.va + 20, 4)] ++ if n = 1 then free else []))

/-- R172, R190: GCOW leaves an entry whose slot has count 1 as it is; with a higher count it pops a slot, copies the old one into it, writes
the entry, raises EPOCH and drops the old slot. -/
def Sys2Proof.Claims.CopyOnWriteCommand : Prop := ∀ (f : GM) (s : State) (B P nlc : Nat) (q : Seq) (p : Pool) (j x : Nat) (xs xb : Word),
  FlatPage s B P nlc → TablesAt s B P q p → xs.toNat = q.va → j < q.cap → f.tile = 0 → f.tag = 0 → GatherStart (.gcow f) s xs xb →
  HoldsSlot s B P q p j x → xb.toNat = j →
  (countOf s B P p x = 1 → ∃ t, GatherDone (.gcow f) f s t ∧ ∀ a, t.hbm.read a = s.hbm.read a) ∧
  (1 < countOf s B P p x → 1 ≤ p.freen →
    let y := topFree s B P p
    ∃ t, GatherDone (.gcow f) f s t ∧ entryOf t B P q j = y ∧ countOf t B P p y = 1 ∧
      countOf t B P p x = countOf s B P p x - 1 ∧ freeOf t B P p = p.freen - 1 ∧ numAt t B P (q.va + 20) 4 = (q.epoch + 1) % 2 ^ 32 ∧
      (∀ k, k < p.slotb → numAt t B P (p.slotVa y + k) 1 = numAt s B P (p.slotVa x + k) 1) ∧
      OnlyRanges s t B P [(q.btab + 4 * j, 4), (p.bpt + 2 * x, 2), (p.bpt + 2 * y, 2), (p.va + 28, 4), (q.va + 20, 4), (p.slotVa y, p.slotb)])

/-- R183, R186 to R188: GLEN writes the length record of TOKENS; GKV streams the K or V part of its blocks, a block at or beyond the
published ones as zeros; GEMB copies the indexed row, zeros for index all ones; with a fill action the tiles become FULL, with none they
keep their tags; memory stays as it is. -/
def Sys2Proof.Claims.StreamingCommands : Prop := ∀ (f : GM) (s : State) (B P nlc : Nat) (q : Seq) (p : Pool) (xs xb : Word), FlatPage s B P nlc →
  let T := 4096 * f.tile.toNat
  let ends := fun (t : State) (n : Nat) => t.core.ended = .done ∧ t.hbm = s.hbm ∧
    (∀ x, x < T ∨ T + n ≤ x → t.core.win.read x = s.core.win.read x) ∧
    (∀ i, i < 64 → bit t.core.tiles.tag i = (bit s.core.tiles.tag i || (f.tag = 1 && 4096 * i < T + n && T < 4096 * (i + 1)))) ∧
    t.core.flags = if f.cnt then mset 0 s.core.flags 4 (mget 0 s.core.flags 4 + 1) else s.core.flags
  (f.tag = 0 ∨ f.tag = 1 ∧ s.core.tiles.tag = 0 ∧ grantsOf s.core .gather = []) →
  (GatherStart (.glen f) s xs xb → SeqAt s B P q → xs.toNat = q.va → xb.toNat < 4096 → xb.toNat % 64 = 0 →
    ∃ t pad k, exec (.glen f) s = .next t ∧ ends t 4096 ∧ k < 5 ∧ pad = 4096 * 4 ^ k ∧ q.tokens ≤ pad ∧ (0 < k → pad / 4 < q.tokens) ∧
      t.core.win.readN (T + xb.toNat) 64 =
        leBytes 4 q.tokens ++ leBytes 4 ((q.tokens + 15) / 16) ++ leBytes 4 pad ++ leBytes 4 k ++ List.replicate 48 0) ∧
  (∀ (j nb part : Nat), GatherStart (.gkv f) s xs xb → TablesAt s B P q p → xs.toNat = q.va → part ≤ 1 → 1 ≤ nb → j + nb ≤ q.cap →
    xb.toNat = part * 2 ^ 48 + nb * 2 ^ 32 + j → nb * 32 * p.dim ≤ (64 - f.tile.toNat) * 4096 →
    (∀ i, i < q.blocks → entryOf s B P q i < p.nslot) →
    ∃ t, exec (.gkv f) s = .next t ∧ ends t (nb * 32 * p.dim) ∧ ∀ i k, i < nb → k < 32 * p.dim →
      (t.core.win.read (T + i * 32 * p.dim + k)).toNat = if q.blocks ≤ j + i then 0
        else numAt s B P (p.slotVa (entryOf s B P q (j + i)) + part * 32 * p.dim + k) 1) ∧
  (GatherStart (.gemb f) s xs xb → xs.toNat % 64 = 0 →
    let len := s.core.tiles.len f.tile.toNat
    let row := xs.toNat + xb.toNat % 2 ^ 32 * len
    len % 64 = 0 → len ≤ 4096 → 64 ≤ len →
    (xb.toNat % 2 ^ 32 = 0xFFFFFFFF → xs.toNat < 2 ^ 52 → ∃ t, exec (.gemb f) s = .next t ∧ ends t len ∧
      ∀ k, k < len → t.core.win.read (T + k) = 0) ∧
    (xb.toNat % 2 ^ 32 ≠ 0xFFFFFFFF → B ≤ xs.toNat → Within B row len → ∃ t, exec (.gemb f) s = .next t ∧ ends t len ∧
      ∀ k, k < len → (t.core.win.read (T + k)).toNat = numAt s B P (row + k) 1))

/-- R191, R194: GSCORE adds the words of the source tile to consecutive score words in FP32 and changes no other byte of memory; GBMINV drops
the block map cache of its core, or the entries of one descriptor. -/
def Sys2Proof.Claims.ScoreCommands : Prop :=
  (∀ (f : GM) (s : State) (B P nlc : Nat) (q : Seq) (xs xb : Word) (lo m : Nat), FlatPage s B P nlc → SeqAt s B P q → xs.toNat = q.va →
    GatherStart (.gscore f) s xs xb → 1 ≤ m → m ≤ 1024 → lo < 2 ^ 32 → xb.toNat = m * 2 ^ 32 + lo → lo + m ≤ 16 * q.cap → q.score ≠ 0 →
    Within B (q.score + 4 * lo) (4 * m) → f.tag = 0 →
    (∀ k, k < 64 → s.core.tiles.mark (64 * f.tile.toNat + k) = {}) →
    ∃ t, GatherDone (.gscore f) f s t ∧ OnlyRanges s t B P [(q.score + 4 * lo, 4 * m)] ∧ ∀ k, k < m →
      numAt t B P (q.score + 4 * (lo + k)) 4 = (fp32.add 0 false (fp32.decode (numAt s B P (q.score + 4 * (lo + k)) 4))
        (fp32.decode (leNat (s.core.win.readN (4096 * f.tile.toNat + 4 * k) 4)))).1 % 2 ^ 32) ∧
  (∀ (f : GM) (s : State) (xs : Word), GatherStart (.gbminv f) s xs 0 → bit xs 0 = true ∨ xs.toNat < 2 ^ 52 → exec (.gbminv f) s = .next { s with core := { s.core with
    bmc := if bit xs 0 then [] else s.core.bmc.filter (fun e => e.sd != xs.toNat / 64 * 64)
    flags := if f.cnt then mset 0 s.core.flags 4 (mget 0 s.core.flags 4 + 1) else s.core.flags, ended := .done } })

/-- R176, R189: GAPP of n tokens whose reached blocks are empty at a boundary, or held alone: the count rises by n, each token's K row and V
row stand at their places of the block that its entry then names, and every earlier entry stays. -/
def Sys2Proof.Claims.AppendCommand : Prop := ∀ (f : GM) (s : State) (B P nlc : Nat) (q : Seq) (p : Pool) (xs xb : Word) (n : Nat),
  FlatPage s B P nlc → TablesAt s B P q p → xs.toNat = q.va → GatherStart (.gapp f) s xs xb → xb.toNat = n → 1 ≤ n → n ≤ 16 →
  q.tokens + n ≤ 16 * q.cap → 4 * p.dim * n ≤ (64 - f.tile.toNat) * 4096 → f.tag = 0 →
  (∀ k, k < 4096 → s.core.tiles.mark k = {}) →
  (∀ j, q.tokens / 16 ≤ j → j ≤ (q.tokens + n - 1) / 16 → (entryOf s B P q j = 0xFFFFFFFF ∧ q.tokens ≤ 16 * j) ∨
    ∃ x, HoldsSlot s B P q p j x ∧ countOf s B P p x = 1) → 2 ≤ p.freen →
  (∀ i j, i < q.cap → j < q.cap → entryOf s B P q i = entryOf s B P q j → entryOf s B P q i ≠ 0xFFFFFFFF → i = j) →
  ∃ t, GatherDone (.gapp f) f s t ∧ numAt t B P (q.va + 16) 4 = q.tokens + n ∧ numAt t B P (q.va + 20) 4 = q.epoch ∧
    (∀ j, j < q.cap → entryOf s B P q j ≠ 0xFFFFFFFF → entryOf t B P q j = entryOf s B P q j) ∧
    ∀ i d, i < n → d < p.dim →
      let x := entryOf t B P q ((q.tokens + i) / 16)
      let pos := (q.tokens + i) % 16
      let T := 4096 * f.tile.toNat
      x < p.nslot ∧ numAt t B P (p.slotVa x + 2 * (pos * p.dim + d)) 2 = leNat (s.core.win.readN (T + i * (2 * p.dim) + 2 * d) 2) ∧
      numAt t B P (p.slotVa x + 32 * p.dim + 2 * (d * 16 + pos)) 2 =
        leNat (s.core.win.readN (T + (n + i) * (2 * p.dim) + 2 * d) 2)

/-- R192, R193: GTRUNC to the count that stands changes nothing; to a multiple of 16 below it, it empties the entries from there on, zeroes
their scores, raises EPOCH and publishes the count; GCOMPACT keeps the listed positions, in order, in new blocks. -/
def Sys2Proof.Claims.EvictionCommands : Prop := ∀ (f : GM) (s : State) (B P nlc : Nat) (q : Seq) (p : Pool) (xs xb : Word),
  FlatPage s B P nlc → TablesAt s B P q p → xs.toNat = q.va → f.tag = 0 →
  (∀ j, j < q.blocks → ∃ x, HoldsSlot s B P q p j x) →
  (∀ i j, i < q.blocks → j < q.blocks → entryOf s B P q i = entryOf s B P q j → i = j) →
  (GatherStart (.gtrunc f) s xs xb → f.tile = 0 →
    (xb.toNat = q.tokens → ∃ t, GatherDone (.gtrunc f) f s t ∧ ∀ a, t.hbm.read a = s.hbm.read a) ∧
    (∀ l, xb.toNat = l → l % 16 = 0 → l < q.tokens → ∃ t, GatherDone (.gtrunc f) f s t ∧ numAt t B P (q.va + 16) 4 = l ∧
      numAt t B P (q.va + 20) 4 = (q.epoch + 1) % 2 ^ 32 ∧
      (∀ j, j < q.cap → entryOf t B P q j = if l / 16 ≤ j ∧ j < q.blocks then 0xFFFFFFFF else entryOf s B P q j) ∧
      (∀ j x, l / 16 ≤ j → j < q.blocks → entryOf s B P q j = x → countOf t B P p x = countOf s B P p x - 1) ∧
      (q.score ≠ 0 → ∀ k, k < 16 * q.cap → numAt t B P (q.score + 4 * k) 4 =
        if l ≤ k ∧ k < q.tokens then 0 else numAt s B P (q.score + 4 * k) 4))) ∧
  (∀ m, GatherStart (.gcompact f) s xs xb → xb.toNat = m → 1 ≤ m → m ≤ q.tokens → 4 * m ≤ (64 - f.tile.toNat) * 4096 →
    (m + 15) / 16 ≤ p.freen → (∀ k, k < 4096 → s.core.tiles.mark k = {}) →
    let keep := fun i => leNat (s.core.win.readN (4096 * f.tile.toNat + 4 * i) 4)
    (∀ i, i + 1 < m → keep i < keep (i + 1)) → (∀ i, i < m → keep i < q.tokens) →
    ∃ t, GatherDone (.gcompact f) f s t ∧ numAt t B P (q.va + 16) 4 = m ∧ numAt t B P (q.va + 20) 4 = (q.epoch + 1) % 2 ^ 32 ∧
      (∀ j, (m + 15) / 16 ≤ j → j < q.blocks → entryOf t B P q j = 0xFFFFFFFF) ∧
      (∀ i d, i < m → d < p.dim →
        let new := p.slotVa (entryOf t B P q (i / 16))
        let old := p.slotVa (entryOf s B P q (keep i / 16))
        numAt t B P (new + 2 * (i % 16 * p.dim + d)) 2 = numAt s B P (old + 2 * (keep i % 16 * p.dim + d)) 2 ∧
        numAt t B P (new + 32 * p.dim + 2 * (d * 16 + i % 16)) 2 = numAt s B P (old + 32 * p.dim + 2 * (d * 16 + keep i % 16)) 2) ∧
      (q.score ≠ 0 → ∀ i, i < m → numAt t B P (q.score + 4 * i) 4 = numAt s B P (q.score + 4 * keep i) 4))

namespace Sys2Proof.Claims

/-- The state after an event that changed core n of the island into c. -/
def eventCore (s : State) (n : Nat) (c : Core) : State :=
  let t := withCore s n c
  { t with core := { t.core with ended := .done } }

end Sys2Proof.Claims

/-- R127, R128, R130, R131, R137, R140: a write of a control-page word of a core that exists: TAGSET and TAGCLR change the tags that
their mask names, with ARRIVED 0; FLAG_VAL sets and FLAG_ADD raises f8 to f31 alone; OVERRUN is cleared; XFULL sets the presence
bits of a core that runs no launch; nothing else changes, and a core that does not exist takes no write. -/
def Sys2Proof.Claims.ControlPageWrites : Prop := ∀ (s : State) (n : Nat) (c : Core), n = s.input.core → c = coreOf s n →
  let x := s.input.index.toNat
  let v := s.input.value
  (n < 768 → c.run ≠ .disabled →
    (∀ full : Bool, ∃ arrived, exec (if full then .tagset else .tagclr) s = .next (eventCore s n { c with tiles := { c.tiles with
        tag := if full then c.tiles.tag ||| s.input.mask else c.tiles.tag &&& ~~~s.input.mask, arrived := arrived } }) ∧
      ∀ i, i < 64 → mget 0 arrived i = if bit s.input.mask i then 0 else mget 0 c.tiles.arrived i) ∧
    (8 ≤ x → x < 32 →
      exec .flagValWrite s = .next (eventCore s n { c with flags := mset 0 c.flags x (v.setWidth 32) }) ∧
      exec .flagAddWrite s = .next (eventCore s n { c with flags := mset 0 c.flags x (mget 0 c.flags x + v.setWidth 32) })) ∧
    (x < 8 → exec .flagValWrite s = .next (eventCore s n c) ∧ exec .flagAddWrite s = .next (eventCore s n c)) ∧
    (x < 64 → ∃ o, exec .overrunClear s = .next (eventCore s n { c with tiles := { c.tiles with overrun := o } }) ∧
      ∀ i, i < 64 → bit o i = (i != x && bit c.tiles.overrun i)) ∧
    (c.run = .running → exec .xfullWrite s = .next (eventCore s n c)) ∧
    (c.run ≠ .running → ∃ e, exec .xfullWrite s = .next (eventCore s n { c with sh := { c.sh with empty := e } }) ∧
      ∀ i, i < 64 → bit e i = if i = 0 ∨ i = 62 then bit c.sh.empty i else !bit v i)) ∧
  (768 ≤ n → ∀ i ∈ [Instr.tagset, .tagclr, .flagValWrite, .flagAddWrite, .overrunClear, .xfullWrite],
    exec i s = .next { s with core := { s.core with ended := .done } })

/-- R138: the grant of the tag wait at which a queue's head command stands: a source waits for its tile to be open, and becomes a
granted read; a destination waits for it to be EMPTY; until then nothing changes. -/
def Sys2Proof.Claims.TagWaitGrants : Prop := ∀ (s : State) (k : Cmd) (i a : Nat), s.input.core = s.cur →
  (s.core.queue s.input.queue).headCmd = some k → k.waits = some (i, a) → (s.core.queue s.input.queue).held = false → s.core.inPhase k = false →
  let q := s.input.queue
  let granted := s.core.setQueue q ((s.core.queue q).setHead { k with grants := k.grants ++ [(i, a)], waits := none })
  (a = 1 → openFor s.core false i = true → exec .tagWaitGrant s = .next { s with core := { granted with
    tiles := { s.core.tiles with readers := mset 0 s.core.tiles.readers i (mget 0 s.core.tiles.readers i + 1) }, ended := .done } }) ∧
  ((a = 2 ∨ a = 3) → openFor s.core false i = true → (a = 2 → firstWaiter s.core q i = true) →
    (∀ r, r ≠ q → sourceWaiter s.core i (· == 1) r = false) → exec .tagWaitGrant s = .next { s with core := { granted with
      tiles := { s.core.tiles with granted := setBit s.core.tiles.granted i true }, ended := .done } }) ∧
  (4 ≤ a → bit s.core.tiles.tag i = false → exec .tagWaitGrant s = .next { s with core := { granted with ended := .done } }) ∧
  ((a < 4 ∧ openFor s.core false i = false) ∨ (4 ≤ a ∧ bit s.core.tiles.tag i = true) →
    exec .tagWaitGrant s = .next { s with core := { s.core with ended := .stalled .tagWait } })

/-! ### Encodings, the step, and what every step keeps -/

/-- R16, R19, R29 to R35, R39 to R41: words of the spec's own examples decode to the lanes that they stand for, one or more in every
opcode space. -/
def Obligations.ExampleWords : Prop :=
  decodeLane .shuttle 0x01143100 .none = .ok (.add ⟨5, 3, 4, false, 0, false, false⟩) ∧
  decodeLane .shuttle 0x1A1C0000 (.one 0x12345678) = .ok (.li ⟨7, 0, .one 0x12345678⟩) ∧
  decodeLane .shuttle 0x4A143FE0 .none = .ok (.std ⟨5, 3, 0x7F, 0, false, false, .none⟩) ∧
  decodeLane .shuttle 0x604FFFFD .none = .ok (.br ⟨2, false, 0xFFFFD⟩) ∧
  decodeLane .shuttle 0xA0140001 .none = .ok (.srd ⟨5, 0, 1, .none⟩) ∧
  decodeLane .vector 0x10184400 .none = .ok (.vadd ⟨3, 1, 2, 0, 0, false, 0⟩) ∧
  decodeLane .vector 0x70100580 .none = .ok (.vldt ⟨2, 0, 5, 2, 0, false, 0⟩) ∧
  decodeLane .matrix 0x020048A0 .none = .ok (.mgo ⟨0, 0, 1, 8, 2, true, 0⟩) ∧
  decodeLane .matrix 0x240C4021 .none = .ok (.dgram ⟨0, 12, 1, 0, 0, true, 1⟩) ∧
  decodeLane .ferryLoad 0x01152813 .none = .ok (.fld ⟨false, 5, 1, 10, false, false, 0, true, 3⟩) ∧
  decodeLane .ferryStore 0x051E3161 .none = .ok (.ftt ⟨true, 7, 2, 12, false, true, 3, false, 1⟩) ∧
  decodeLane .gather 0x012128B8 .none = .ok (.gkv ⟨8, 1, 10, 11, true⟩)

/-- R19, R24, R29 to R35: decoding the words of a well-formed lane, literals and all, gives the lane back; and a word that decodes with
its literals is the word that its lane encodes to, so that every word has one meaning. -/
def Obligations.EncodingRoundTrip : Prop :=
  (∀ (i : Instr) (e : Eng), engOf i = some e → i.guardOk = true → i.fieldsOk = true → decodeWords e (encode i) = .ok i) ∧
  (∀ (e : Eng) (w : LaneWord) (l : Lit) (i : Instr), decodeLane e w l = .ok i →
    engOf i = some e ∧ encodeWord i = w ∧ i.guardOk = true ∧ i.fieldsOk = true ∧ (litsOf i = l ∨ litsOf i = .none))

namespace Sys2Proof.Claims

/-- The Shuttle of the running core stands at a slot x of its decoded bundle b that no condition holds back. -/
def AtSlot (s : State) (b : Bundle) (x : Slot) : Prop :=
  s.core.run = .running ∧ s.core.sh.buf = some b ∧ b.kind ≠ 3 ∧ (b.kind = 0 ∨ s.core.sh.ready = true ∨ 2 ≤ s.core.sh.lane) ∧
    b.slots.find? (fun y => decide (s.core.sh.lane ≤ y.lane)) = some x

/-- The Shuttle stands at lane k. -/
def standing (s : State) (k : Nat) : State := { s with core := { s.core with sh := { s.core.sh with lane := k } } }

end Sys2Proof.Claims

/-- R24 to R28: a step runs what was decoded. A Shuttle's turn fetches when it holds no bundle, and goes on at the bundle decoded: at a
Shuttle lane it is that lane's `exec`, after which the Shuttle stands at the next slot or, past the last one, at the branch target or the
next bundle; at an engine lane it is the push; at an unmet condition or a halt it is that event. At an engine's head that nothing
stops, once the commands before it have completed as far as they can, it is the `exec` of the command there, whose entry is popped when
it completes; an event is its own `exec`. Without power only a fundamental reset and what happens outside act. -/
def Obligations.StepRunsTheInstruction : Prop :=
  (∀ (s s' : State) (n : Nat) (s0 : State), nextTurn s = some (.shuttle n, s') → s'.host.power = true → s0 = switchTo (tick s') n →
    s0.core.run = .running → s0.core.preempt = none → shuttleTested s0 n = false →
    (s0.core.sh.buf ≠ none → step s = doWork (bundleWork s0)) ∧
    (s0.core.sh.buf = none → ∀ t, exec .bundleFetchDecode s0 = .next t →
      step s = if t.core.sh.buf = none then .next t else doWork (bundleWork t))) ∧
  (∀ (s : State) (b : Bundle) (x : Slot), AtSlot s b x →
    (x.queue = none → ∀ t, exec x.instr (standing s x.lane) = .next t → ∃ u, doWork (bundleWork s) = .next u ∧
      (t.core.ended ≠ .done → u = t) ∧
      (t.core.ended = .done → t.core.sh.buf = some b → t.core.run = .running →
        let l := x.lane + (encode x.instr).length
        u = { t with core := { t.core with sh :=
          if (b.slots.find? (fun y => decide (l ≤ y.lane))).isSome = true ∨ (b.kind ≠ 0 ∧ t.core.sh.ready = false ∧ l < 2) then
            { t.core.sh with lane := l }
          else { t.core.sh with
            pc := t.core.sh.target.getD (t.core.sh.pc + 32), lane := 0, buf := none, ready := false, target := none } } })) ∧
    (∀ q, x.queue = some q → ∀ t, runM (pushLane q x.instr) (standing s x.lane) = .next t →
      ∃ u, doWork (bundleWork s) = .next u ∧ (t.core.ended ≠ .done → u = t) ∧ ∀ r, u.core.queue r = t.core.queue r)) ∧
  (∀ (s : State) (b : Bundle) (i : Instr), s.core.sh.buf = some b →
    (b.kind = 3 ∧ i = .haltBundle) ∨ (s.core.sh.lane < 2 ∧ s.core.sh.ready = false ∧
      ((b.kind = 1 ∧ i = .waitBundle) ∨ (b.kind = 2 ∧ i = .timedBundle))) → ∀ t, exec i s = .next t →
    ∃ u, doWork (bundleWork s) = .next u ∧ (t.core.ended ≠ .done → u = t) ∧ u.core.sh.x = t.core.sh.x ∧ u.hbm = t.hbm) ∧
  (∀ (s s' : State) (n : Nat) (q : Queue) (c : Cmd) (s0 s1 t : State), nextTurn s = some (.engine n q, s') → s'.host.power = true →
    s0 = switchTo (tick s') n → s1 = settleEnding q (s0.core.queue q).ending.length s0 → (s1.core.queue q).headCmd = some c →
    engineStopped s1 n q = false → exec c.instr s1 = .next t →
    ∃ u, step s = .next u ∧ (t.core.ended ≠ .done → u = t) ∧
      (t.core.ended = .done → ∀ k rest, (t.core.queue q).entries = .cmd k :: rest → (u.core.queue q).entries = rest ∧
        u.core.win = t.core.win ∧ u.hbm = t.hbm ∧ u.core.sh = t.core.sh)) ∧
  (∀ (s s' : State) (i : Instr) (p : Input), nextTurn s = some (.event i p, s') → (s'.host.power = true ∨ i = .fundamentalReset) →
    step s = exec i { tick s' with input := p }) ∧
  (∀ (s s' : State) (u : Outside), nextTurn s = some (.outside u, s') → step s = .next (outsideEffect u (tick s'))) ∧
  (∀ (s s' : State) (tn : Turn), nextTurn s = some (tn, s') → s'.host.power = false → (∀ p, tn ≠ .event .fundamentalReset p) → (∀ u, tn ≠ .outside u) →
    step s = .fault .noPower) ∧
  (∀ s : State, nextTurn s = none → step s = .next (tick s))

/-- Every step keeps the canonical form of device memory and of host memory: addresses rising, no byte listed that reads as an unlisted
one does. -/
def Obligations.StepsKeepMemoryCanonical : Prop :=
  ∀ s t : State, s.hbm.wf → s.hostMem.wf → step s = .next t → t.hbm.wf ∧ t.hostMem.wf

/-- The state after reset is canonical: memory lists nothing, and every register of the first core reads zero (the model's choice where the
spec gives no reset value). -/
def Obligations.ResetIsCanonical : Prop :=
  State.reset.hbm.wf ∧ State.reset.hostMem.wf ∧ State.reset.hbm = [] ∧ ∀ r : BitVec 6, State.reset.core.sh.get r = 0

/-! ### The statements that join several of the above -/

/-- R196, R203 to R205: the SA integer instructions and the divisions.
Completion, exec answering a next state under conditions on the state and the operands alone, is stated for: ADD, SUB, MUL, MULH,
DIV, DIVU, REM, AND, OR, XOR, SHL, SHR, SAR, CLZ, POPC, MIN, MAX, SEL. -/
def Obligations.IntegerArithmetic : Prop :=
  Sys2Proof.Claims.IntegerResults ∧ Sys2Proof.Claims.DivisionResults

/-- R206 to R209: the SI instructions, the compares and the predicate instructions.
Completion, exec answering a next state under conditions on the state and the operands alone, is stated for: ADDI, ANDI, ORI,
XORI, SHLI, SHRI, SARI, LI, ADDPC, CEQ, CLT, CLTU, CEQI, CLTI, PAND, POR, PXOR, MOVP, PSET. -/
def Obligations.ImmediateAndPredicateLanes : Prop :=
  Sys2Proof.Claims.ImmediateResults ∧ Sys2Proof.Claims.CompareAndPredicateResults

/-- R215, R216: branches, calls and register jumps, and the jump that faults.
Completion, exec answering a next state under conditions on the state and the operands alone, is stated for: BR, CALL, JR, CALLR,
RET, LOOP. -/
def Obligations.BranchesAndJumps : Prop :=
  Sys2Proof.Claims.BranchResults ∧ Sys2Proof.Claims.MisalignedJumpFaults

/-- R141, R142, R202: loads and stores of an aligned, mapped address.
Completion, exec answering a next state under conditions on the state and the operands alone, is stated for: LDB, LDBU, LDH, LDHU,
LDW, LDWU, LDD, STB, STH, STW, STD. -/
def Obligations.LoadsAndStores : Prop :=
  Sys2Proof.Claims.LoadResults ∧ Sys2Proof.Claims.StoreResults

/-- R136, R144 to R146: the near-map accesses, PREF and LDBLK.
Completion, exec answering a next state under conditions on the state and the operands alone, is stated for: LDBLK, PREF, LDN,
STN. -/
def Obligations.NearMapAndPrefetch : Prop :=
  Sys2Proof.Claims.NearMapAccessResults ∧ Sys2Proof.Claims.PrefetchAndBlockLoad

/-- R332 to R334: BIND and UNBIND, and what an acquire drops for one binding.
Completion, exec answering a next state under conditions on the state and the operands alone, is stated for: BIND, UNBIND. -/
def Obligations.Bindings : Prop :=
  Sys2Proof.Claims.BindingResults ∧ Sys2Proof.Claims.BoundRegionIsDropped

/-- R334 to R336: ACQ and REL, of one binding and of all.
Completion, exec answering a next state under conditions on the state and the operands alone, is stated for: ACQ, REL, ACQ_ALL,
REL_ALL. -/
def Obligations.AcquireAndRelease : Prop :=
  Sys2Proof.Claims.AcquireReleaseResults ∧ Sys2Proof.Claims.AcquireReleaseAllResults

/-- R339, R341, R342: MFENCE, FLAGW and FLAGADD, and their window forms.
Completion, exec answering a next state under conditions on the state and the operands alone, is stated for: MFENCE, FLAGW,
FLAGADD, FLAGR, MFENCE_JOIN. -/
def Obligations.FencesAndFlags : Prop :=
  Sys2Proof.Claims.FenceResults ∧ Sys2Proof.Claims.FlagResults

/-- R65, R200, R362, R398, R404: SRD and SWR of every system register.
Completion, exec answering a next state under conditions on the state and the operands alone, is stated for: SRD, SWR, PICK,
SRCTR_VSTAT_QUEUE_ENTRY. -/
def Obligations.SystemRegisters : Prop :=
  Sys2Proof.Claims.SystemRegisterReads ∧ Sys2Proof.Claims.SystemRegisterWrites

/-- R27, R224 to R228, R235: the operands of an engine command, the vector control instructions and the repeat.
Completion, exec answering a next state under conditions on the state and the operands alone, is stated for: VSHAPE, VROT, VADV,
REP, VSETS, VCNT. -/
def Obligations.OperandsShapesAndRepeat : Prop :=
  Sys2Proof.Claims.EngineOperands ∧ Sys2Proof.Claims.VectorControlResults ∧ Sys2Proof.Claims.RepeatStepsFields

/-- R236 to R238: the element-wise arithmetic and the compares.
Completion, exec answering a next state under conditions on the state and the operands alone, is stated for: VADD, VSUB, VMUL,
VFMA, VMIN, VMAX, VABS, VNEG, VDIV, VCMPEQ, VCMPLT, VCMPLE, VADDS, VMULS, VFMAS. -/
def Obligations.VectorArithmetic : Prop :=
  Sys2Proof.Claims.VectorArithmeticResults ∧ Sys2Proof.Claims.VectorCompareResults

/-- R240 to R245: the special functions and the reductions.
Completion, exec answering a next state under conditions on the state and the operands alone, is stated for: VEXP2, VLOG2, VRCP,
VRSQRT, VTANH, VSINPI, VCOSPI, VRSUM, VRMAX, VRMIN, VSCAN, VTOPK, VARGMAX. -/
def Obligations.VectorFunctionsAndReductions : Prop :=
  Sys2Proof.Claims.VectorSpecialFunctionResults ∧ Sys2Proof.Claims.VectorReductionResults

/-- R30, R196 to R199, R302, R358: an EMPTY source, the result that fills it, and the reply queue.
Completion, exec answering a next state under conditions on the state and the operands alone, is stated for: LONG_LATENCY_RESULT,
REPLY_QUEUE_ENTRY_ARRIVAL, REPLY_BUFFER_RELEASE. -/
def Obligations.OperandPresence : Prop :=
  Sys2Proof.Claims.EmptyRegisterRules ∧ Sys2Proof.Claims.LongLatencyResults ∧ Sys2Proof.Claims.ReplyArrivals

/-- R217, R395 to R400: a fault taken, the entry of the handler and the return from it.
Completion, exec answering a next state under conditions on the state and the operands alone, is stated for: TRAP, RTE,
HANDLER_ENTRY. -/
def Obligations.FaultsAndTheHandler : Prop :=
  Sys2Proof.Claims.TrapTakesItsFault ∧ Sys2Proof.Claims.LaneFaultEntersHandler ∧ Sys2Proof.Claims.HandlerEntryEvent ∧
    Sys2Proof.Claims.HandlerReturn

/-- R16, R21 to R24: the fetch of a bundle, and the wait, timed and halt bundles.
Completion, exec answering a next state under conditions on the state and the operands alone, is stated for: BUNDLE_FETCH_DECODE,
WAIT_BUNDLE, TIMED_BUNDLE, HALT_BUNDLE. -/
def Obligations.BundlesAndTheirKinds : Prop :=
  Sys2Proof.Claims.FetchAndDecode ∧ Sys2Proof.Claims.WaitTimedAndHaltBundles

/-- R115 to R118: a page request, its holding of the requester and its answers.
Completion, exec answering a next state under conditions on the state and the operands alone, is stated for: PAGE_REQUEST_MAPPED,
PAGE_REQUEST_REFUSED. -/
def Obligations.PageRequests : Prop :=
  Sys2Proof.Claims.PageMissHoldsItsRequester ∧ Sys2Proof.Claims.PageRequestAnswers

/-- R93 to R99, R405: requantisation and the background work of memory.
Completion, exec answering a next state under conditions on the state and the operands alone, is stated for: REQUANT_ENTRY,
PATROL_SCRUB_SECTOR, LINK_CALIBRATION, WEAR_REFRESH, SELF_TEST_COMPLETE, ROW_SPARING, FRAME_RETIREMENT. -/
def Obligations.MemoryUpkeep : Prop :=
  Sys2Proof.Claims.Requantisation ∧ Sys2Proof.Claims.BackgroundMemoryWork

/-- R345 to R349, R413: the launches that the device accepts.
Completion, exec answering a next state under conditions on the state and the operands alone, is stated for: LAUNCH,
LAUNCH_PORT_SUBMIT. -/
def Obligations.LaunchesAccepted : Prop :=
  Sys2Proof.Claims.LaunchInstruction ∧ Sys2Proof.Claims.LaunchRecordLimits ∧ Sys2Proof.Claims.LaunchPortSubmission

/-- R347, R348, R350: the start and the end of a launch.
Completion, exec answering a next state under conditions on the state and the operands alone, is stated for: LAUNCH_START,
LAUNCH_COMPLETION. -/
def Obligations.LaunchesRun : Prop :=
  Sys2Proof.Claims.LaunchStartsItsCores ∧ Sys2Proof.Claims.LaunchCompletes

/-- R364 to R367, R414: pre-emption, abort, and the save and load of a context.
Completion, exec answering a next state under conditions on the state and the operands alone, is stated for: CTXSAVE, CTXLOAD,
CORECTL_PREEMPT, CORECTL_ABORT, PREEMPTION_TAKEN, PREEMPTION_WINDOW_EXPIRY. -/
def Obligations.SavingAndPreemption : Prop :=
  Sys2Proof.Claims.ContextSaveAndLoad ∧ Sys2Proof.Claims.PreemptionAndAbort

/-- R352 to R356, R359, R361: the phase instructions, the passing of a marker and the commit.
Completion, exec answering a next state under conditions on the state and the operands alone, is stated for: PHASE_B, PHASE_C,
PHASE_X, PHASE_B_MARKER_PASS, PHASE_COMMIT. -/
def Obligations.Phases : Prop :=
  Sys2Proof.Claims.PhaseInstructions ∧ Sys2Proof.Claims.PhaseMarkerPassing ∧ Sys2Proof.Claims.PhaseCommits

/-- R100 to R102: checkpoint and restore.
Completion, exec answering a next state under conditions on the state and the operands alone, is stated for: CHECKPOINT_START,
RESTORE_START, CHECKPOINT_ABORT, CHECKPOINT_QUIESCED, CHECKPOINT_FRAME_WRITE, RESTORE_FRAME_RECORD, COMPLETION_TIMEOUT. -/
def Obligations.Checkpoints : Prop :=
  Sys2Proof.Claims.CheckpointControl ∧ Sys2Proof.Claims.CheckpointRecords

/-- R415 to R417, R420: the resets, the bring-up and the power states.
Completion, exec answering a next state under conditions on the state and the operands alone, is stated for: FUNDAMENTAL_RESET,
BOOT_STEP_COMPLETE, RECGO, SVN_COMMIT, CONFIGURATION_REQUEST, HOT_RESET, FUNCTION_LEVEL_RESET, D3HOT_ENTRY, D0_RETURN,
D3COLD_ENTRY. -/
def Obligations.ResetAndPowerStates : Prop :=
  Sys2Proof.Claims.ResetAndBringUp ∧ Sys2Proof.Claims.LinkResetsAndPowerStates

/-- R121, R406, R411, R412, R421 to R423: the accesses of the host, the power events, the ports and the snoops.
Completion, exec answering a next state under conditions on the state and the operands alone, is stated for: POWER_THROTTLE,
THERMAL_THROTTLE, THERMAL_SHUTDOWN, TELEMETRY_REFRESH, BAR2_READ, BAR2_WRITE, CONTROL_REGISTER_WRITE, CTRCLR, PORT_DOWN, PORT_UP,
CXL_CACHE_SNOOP, CORE_DISABLE. -/
def Obligations.HostSide : Prop :=
  Sys2Proof.Claims.HostWindowAccesses ∧ Sys2Proof.Claims.PowerPortsAndSnoops

/-- R306, R307, R310, R314, R318, R329: an access to another island, and its reply.
Completion, exec answering a next state under conditions on the state and the operands alone, is stated for: READ_DATA, WRITE_ACK,
ATOMIC_DATA, NACK. -/
def Obligations.RemoteAccesses : Prop :=
  Sys2Proof.Claims.RemoteAccessesAreSent ∧ Sys2Proof.Claims.RemoteReplies

/-- R316, R318, R319, R322 to R325, R405: routing, links and the pick clock.
Completion, exec answering a next state under conditions on the state and the operands alone, is stated for: RTDRAIN, RTSET,
RTFENCE, MSG, TIME, MGMT, FLIT_RETRANSMIT, STRAIT_LANE_SELF_TEST_TRIGGER, STRAIT_CHANNEL_STOP, TIME_SEND_INTERVAL,
PICKSYNC_LOCK_LOSS, PICKSYNC_STEP, ROUTE_DRAIN_COMPLETE, ROUTE_DRAIN_TIMEOUT. -/
def Obligations.StraitControl : Prop :=
  Sys2Proof.Claims.RoutingControl ∧ Sys2Proof.Claims.LinksAndPickClock

/-- R371, R373, R375, R376: spawning a task and taking one.
Completion, exec answering a next state under conditions on the state and the operands alone, is stated for: SPAWN, TAKE, TAKE_W,
TAKE_W_TIMEOUT. -/
def Obligations.TakesAndSpawns : Prop :=
  Sys2Proof.Claims.SpawnAndTakeResults ∧ Sys2Proof.Claims.TakeChoosesTheHighestRanked

/-- R262 to R264, R267 to R269: the configuration of the matrix engine and the start of a nest.
Completion, exec answering a next state under conditions on the state and the operands alone, is stated for: MCFG, MGO, MDESC,
MUNF. -/
def Obligations.MatrixNests : Prop :=
  Sys2Proof.Claims.MatrixConfiguration ∧ Sys2Proof.Claims.NestStarts

/-- R271 to R275, R281 to R285: the bank commands, the write-back and the bound checks.
Completion, exec answering a next state under conditions on the state and the operands alone, is stated for: MOUT, MSAVE, MLOAD,
MZERO, MSTAT, MCLRF. -/
def Obligations.MatrixBanks : Prop :=
  Sys2Proof.Claims.BankCommands ∧ Sys2Proof.Claims.WriteBack ∧ Sys2Proof.Claims.BoundChecks

/-- R290, R291, R294 to R301: the draw commands.
Completion, exec answering a next state under conditions on the state and the operands alone, is stated for: DCFG, DKEY, DCTR,
DCTRR, DGRAM, DSAMP, DCLUS, DACCEPT, DARGMAX. -/
def Obligations.Draws : Prop :=
  Sys2Proof.Claims.DrawConfiguration ∧ Sys2Proof.Claims.DrawLists ∧ Sys2Proof.Claims.DrawResults

/-- R103, R150, R154 to R158, R164, R166: the Ferry on one sector.
Completion, exec answering a next state under conditions on the state and the operands alone, is stated for: FLD, FST, FTT, FFILL,
FNEAR. -/
def Obligations.FerrySectors : Prop :=
  Sys2Proof.Claims.FerryRegisterForms ∧ Sys2Proof.Claims.FerrySectorMoves

/-- R148, R151 to R154, R160, R161, R165 to R169: reductions, the parameter-block commands, and the waits and ends of the Ferry.
Completion, exec answering a next state under conditions on the state and the operands alone, is stated for: FLDP, FSTP, FTTP,
FBB, FSWP, FSWI, FRED, FPBINV, FWP. -/
def Obligations.FerryBlocksAndWaits : Prop :=
  Sys2Proof.Claims.ReductionElements ∧ Sys2Proof.Claims.FerryBlockForms ∧ Sys2Proof.Claims.FerryWaitsAndEnds

/-- R127 to R131, R137, R138, R140, R155: the tag actions of a command, the writes of the control page and the grants of tag waits.
Completion, exec answering a next state under conditions on the state and the operands alone, is stated for: TAG_WAIT_GRANT,
TAGSET, TAGCLR, FLAG_VAL_WRITE, FLAG_ADD_WRITE, OVERRUN_CLEAR, XFULL_WRITE. -/
def Obligations.TagsAndTileEvents : Prop :=
  Sys2Proof.Claims.TagActions ∧ Sys2Proof.Claims.ControlPageWrites ∧ Sys2Proof.Claims.TagWaitGrants

/-- R172, R174, R190: the commands on the references of attachment entries.
Completion, exec answering a next state under conditions on the state and the operands alone, is stated for: GREF, GCOW, GFREE,
GALLOC. -/
def Obligations.SharedReferences : Prop :=
  Sys2Proof.Claims.ReferenceCommands ∧ Sys2Proof.Claims.CopyOnWriteCommand

/-- R183, R186 to R188, R191, R194: the streaming commands of the gather engine and the scores.
Completion, exec answering a next state under conditions on the state and the operands alone, is stated for: GKV, GEMB, GSCORE,
GLEN, GBMINV. -/
def Obligations.StreamsAndScores : Prop :=
  Sys2Proof.Claims.StreamingCommands ∧ Sys2Proof.Claims.ScoreCommands

/-- R176, R189, R192, R193: appending tokens, truncation, compaction and eviction.
Completion, exec answering a next state under conditions on the state and the operands alone, is stated for: GAPP, GCOMPACT,
GTRUNC. -/
def Obligations.AppendAndEviction : Prop :=
  Sys2Proof.Claims.AppendCommand ∧ Sys2Proof.Claims.EvictionCommands
end

