-- ==== Sys2Proof/Laws/Memory.lean ====
section
/-! SUPPORT. Sparse maps and memories: a read after a write, and that every operation keeps the canonical form. -/

namespace Sys2Proof.Machine

/-! ### Maps -/

variable {α : Type}

/-- A key that no entry has reads as the default. -/
theorem mget_none {d : α} {m : SMap α} {k : Nat} (h : ∀ e ∈ m, e.1 ≠ k) : mget d m k = d := by
  have : m.find? (fun e => e.1 == k) = none := by
    rw [List.find?_eq_none]
    intro e he
    simpa using h e he
  simp [mget, this]

/-- A key that no entry has, as a test. -/
theorem mget_absent {d : α} {m : SMap α} {k : Nat} (h : ¬ m.any (fun e => e.1 == k) = true) : mget d m k = d := by
  apply mget_none
  intro e he hk
  exact h (List.any_eq_true.mpr ⟨e, he, by simpa using hk⟩)

theorem mget_append (d : α) (m n : SMap α) (k : Nat) :
    mget d (m ++ n) k = if m.any (fun e => e.1 == k) then mget d m k else mget d n k := by
  unfold mget
  rw [List.find?_append]
  cases h : m.find? (fun e => e.1 == k) with
  | none =>
    have : m.any (fun e => e.1 == k) = false := by
      rw [List.any_eq_false]
      exact List.find?_eq_none.mp h
    simp [this]
  | some e =>
    have : m.any (fun e => e.1 == k) = true := by
      rw [List.any_eq_true]
      exact ⟨e, List.mem_of_find?_eq_some h, by simpa using List.find?_some h⟩
    simp [this]

theorem mget_cons (d : α) (e : Nat × α) (m : SMap α) (k : Nat) : mget d (e :: m) k = if e.1 = k then e.2 else mget d m k := by
  unfold mget
  by_cases h : e.1 = k <;> simp [h]

/-- Filtering on keys leaves what the kept keys read as. -/
theorem mget_filter (d : α) (m : SMap α) (p : Nat → Bool) (k : Nat) :
    mget d (m.filter (fun e => p e.1)) k = if p k then mget d m k else d := by
  induction m with
  | nil => simp [mget]
  | cons e m ih =>
    rw [List.filter_cons, mget_cons]
    by_cases hk : e.1 = k
    · subst hk
      cases hp : p e.1
      · simpa [hp] using ih
      · simp [mget_cons]
    · cases hp : p e.1
      · simpa [hk] using ih
      · simpa [hk, mget_cons] using ih

theorem any_filter_key (m : SMap α) (p : Nat → Bool) (k : Nat) :
    (m.filter (fun e => p e.1)).any (fun e => e.1 == k) = (p k && m.any (fun e => e.1 == k)) := by
  rw [Bool.eq_iff_iff]
  simp only [List.any_eq_true, List.mem_filter, Bool.and_eq_true, beq_iff_eq]
  constructor
  · rintro ⟨e, ⟨he, hp⟩, rfl⟩
    exact ⟨hp, e, he, rfl⟩
  · rintro ⟨hp, e, he, rfl⟩
    exact ⟨e, ⟨he, hp⟩, rfl⟩

/-- A read after a write of the same key. -/
@[simp] theorem mget_mset_same [DecidableEq α] (d : α) (m : SMap α) (k : Nat) (v : α) : mget d (mset d m k v) k = v := by
  unfold mset
  rw [mget_append, any_filter_key m (fun x => decide (x < k))]
  simp only [lt_irrefl, decide_false, Bool.false_and, Bool.false_eq_true, if_false]
  by_cases hv : v = d
  · have h := mget_filter d m (fun x => decide (k < x)) k
    simp only [lt_irrefl, decide_false, Bool.false_eq_true, if_false] at h
    simp [hv, h]
  · simp [hv, mget]

/-- A write leaves every other key. -/
theorem mget_mset_other [DecidableEq α] (d : α) (m : SMap α) {k j : Nat} (v : α) (h : j ≠ k) : mget d (mset d m k v) j = mget d m j := by
  unfold mset
  have hc : ((if v = d then [] else [(k, v)]) : SMap α).any (fun e => e.1 == j) = false := by
    split <;> simp [Ne.symm h]
  have hlo := mget_filter d m (fun x => decide (x < k)) j
  have hhi := mget_filter d m (fun x => decide (k < x)) j
  rw [mget_append, mget_append, hc, any_filter_key m (fun x => decide (x < k))]
  simp only [Bool.false_eq_true, if_false]
  rcases Nat.lt_or_gt_of_ne h with hj | hj
  · have hn : ¬ k < j := by omega
    simp only [hj, decide_true, Bool.true_and, if_true] at hlo ⊢
    simp only [hn, decide_false, Bool.false_eq_true, if_false] at hhi
    by_cases hm : m.any (fun e => e.1 == j) = true
    · rw [if_pos hm, hlo]
    · rw [if_neg hm, hhi, mget_absent hm]
  · have : ¬ j < k := by omega
    simp [this, hhi, hj]

/-- A write keeps the canonical form. -/
theorem mset_wf [DecidableEq α] {d : α} {m : SMap α} (h : mwf d m) (k : Nat) (v : α) : mwf d (mset d m k v) := by
  obtain ⟨h1, h2⟩ := h
  unfold mset
  refine ⟨?_, ?_⟩
  · rw [List.pairwise_append]
    refine ⟨h1.filter _, ?_, ?_⟩
    · rw [List.pairwise_append]
      refine ⟨by split <;> simp, h1.filter _, ?_⟩
      intro a ha b hb
      simp only [List.mem_filter, decide_eq_true_eq] at hb
      split at ha
      · simp at ha
      · simp only [List.mem_singleton] at ha
        rw [ha]
        exact hb.2
    · intro a ha b hb
      simp only [List.mem_filter, decide_eq_true_eq] at ha
      rw [List.mem_append] at hb
      rcases hb with hb | hb
      · split at hb
        · simp at hb
        · simp only [List.mem_singleton] at hb
          rw [hb]
          exact ha.2
      · simp only [List.mem_filter, decide_eq_true_eq] at hb
        omega
  · intro e he
    rw [List.mem_append, List.mem_append] at he
    rcases he with he | he | he
    · exact h2 e (List.mem_of_mem_filter he)
    · split at he
      · simp at he
      · simp only [List.mem_singleton] at he
        rw [he]
        assumption
    · exact h2 e (List.mem_of_mem_filter he)

/-! ### Memories -/

/-- The cells of consecutive bytes: every listed byte is one of them. -/
theorem mem_cellsFrom {a : Nat} {bs : List Byte} {e : Host.Cell} (h : e ∈ cellsFrom a bs) :
    a ≤ e.1 ∧ e.1 < a + bs.length ∧ e.2 ≠ 0 ∧ bs[e.1 - a]? = some e.2 := by
  induction bs generalizing a with
  | nil => simp [cellsFrom] at h
  | cons b bs ih =>
    unfold cellsFrom at h
    have tail : e ∈ cellsFrom (a + 1) bs → a ≤ e.1 ∧ e.1 < a + (b :: bs).length ∧ e.2 ≠ 0 ∧ (b :: bs)[e.1 - a]? = some e.2 := by
      intro h
      obtain ⟨h1, h2, h3, h4⟩ := ih h
      refine ⟨by omega, by simp only [List.length_cons]; omega, h3, ?_⟩
      have : e.1 - a = e.1 - (a + 1) + 1 := by omega
      rw [this, List.getElem?_cons_succ]
      exact h4
    split at h
    · exact tail h
    · rcases List.mem_cons.mp h with rfl | h
      · simp
        assumption
      · exact tail h

theorem cellsFrom_sorted (a : Nat) (bs : List Byte) : (cellsFrom a bs).Pairwise (fun x y => x.1 < y.1) := by
  induction bs generalizing a with
  | nil => simp [cellsFrom]
  | cons b bs ih =>
    unfold cellsFrom
    split
    · exact ih _
    · refine List.pairwise_cons.mpr ⟨?_, ih _⟩
      intro e he
      have := (mem_cellsFrom he).1
      simp only
      omega

/-- What the cells of consecutive bytes read as. -/
theorem mget_cellsFrom (a : Nat) (bs : List Byte) (k : Nat) :
    mget 0 (cellsFrom a bs) k = if a ≤ k then (bs[k - a]?).getD 0 else 0 := by
  induction bs generalizing a with
  | nil => simp [cellsFrom, mget]
  | cons b bs ih =>
    unfold cellsFrom
    by_cases hk : a = k
    · subst hk
      have hn : mget (0 : Byte) (cellsFrom (a + 1) bs) a = 0 := by
        rw [ih]
        simp
      by_cases hb : b = 0
      · simpa [hb] using hn
      · rw [if_neg hb]
        simp [mget]
    · have hrest : mget (0 : Byte) (cellsFrom (a + 1) bs) k = if a ≤ k then ((b :: bs)[k - a]?).getD 0 else 0 := by
        rw [ih]
        by_cases h1 : a + 1 ≤ k
        · have : k - a = k - (a + 1) + 1 := by omega
          simp [h1, this, show a ≤ k by omega]
        · simp [h1, show ¬ a ≤ k by omega]
      by_cases hb : b = 0
      · simpa [hb] using hrest
      · rw [if_neg hb, ← hrest]
        simp [mget, hk]

/-- A read inside what was just written. -/
theorem Memory.read_write_in (m : Memory) {a k : Nat} {bs : List Byte} (h1 : a ≤ k) (h2 : k < a + bs.length) :
    (m.write a bs).read k = (bs[k - a]?).getD 0 := by
  unfold Memory.read Memory.write
  rw [mget_append, any_filter_key m (fun x => decide (x < a)), mget_append]
  have hlt : ¬ k < a := by omega
  simp only [hlt, decide_false, Bool.false_and, Bool.false_eq_true, if_false]
  have hc := mget_cellsFrom a bs k
  rw [if_pos h1] at hc
  by_cases hm : (cellsFrom a bs).any (fun e => e.1 == k) = true
  · rw [if_pos hm, hc]
  · have hz : mget (0 : Byte) (cellsFrom a bs) k = 0 := mget_absent hm
    have hf := mget_filter (0 : Byte) m (fun x => decide (a + bs.length ≤ x)) k
    have : ¬ a + bs.length ≤ k := by omega
    simp only [this, decide_false, Bool.false_eq_true, if_false] at hf
    simp only [hm, Bool.false_eq_true, if_false]
    rw [hf, ← hc, hz]

/-- A read outside what was just written. -/
theorem Memory.read_write_out (m : Memory) {a k : Nat} {bs : List Byte} (h : k < a ∨ a + bs.length ≤ k) :
    (m.write a bs).read k = m.read k := by
  unfold Memory.read Memory.write
  rw [mget_append, any_filter_key m (fun x => decide (x < a)), mget_append]
  have hc : (cellsFrom a bs).any (fun e => e.1 == k) = false := by
    rw [List.any_eq_false]
    intro e he
    obtain ⟨h1, h2, -⟩ := mem_cellsFrom he
    simp only [beq_iff_eq]
    omega
  have hlo := mget_filter (0 : Byte) m (fun x => decide (x < a)) k
  have hhi := mget_filter (0 : Byte) m (fun x => decide (a + bs.length ≤ x)) k
  simp only [hc, Bool.false_eq_true, if_false]
  rcases h with h | h
  · have h' : ¬ a + bs.length ≤ k := by omega
    simp only [h, decide_true, Bool.true_and, if_true] at hlo ⊢
    simp only [h', decide_false, Bool.false_eq_true, if_false] at hhi
    by_cases hm : m.any (fun e => e.1 == k) = true
    · rw [if_pos hm, hlo]
    · rw [if_neg hm, hhi]
      exact (mget_absent hm).symm
  · have h' : ¬ k < a := by omega
    simp only [h, decide_true, if_true] at hhi
    simp only [h', decide_false, Bool.false_and, Bool.false_eq_true, if_false]
    exact hhi

/-- A write keeps the canonical form. -/
theorem Memory.write_wf {m : Memory} (h : m.wf) (a : Nat) (bs : List Byte) : (m.write a bs).wf := by
  obtain ⟨h1, h2⟩ := h
  unfold Memory.write
  refine ⟨?_, ?_⟩
  · rw [List.pairwise_append]
    refine ⟨h1.filter _, ?_, ?_⟩
    · rw [List.pairwise_append]
      refine ⟨cellsFrom_sorted a bs, h1.filter _, ?_⟩
      intro x hx y hy
      have := (mem_cellsFrom hx).2.1
      simp only [List.mem_filter, decide_eq_true_eq] at hy
      omega
    · intro x hx y hy
      simp only [List.mem_filter, decide_eq_true_eq] at hx
      rw [List.mem_append] at hy
      rcases hy with hy | hy
      · have := (mem_cellsFrom hy).1
        omega
      · simp only [List.mem_filter, decide_eq_true_eq] at hy
        omega
  · intro e he
    rw [List.mem_append, List.mem_append] at he
    rcases he with he | he | he
    · exact h2 e (List.mem_of_mem_filter he)
    · exact (mem_cellsFrom he).2.2.1
    · exact h2 e (List.mem_of_mem_filter he)

/-- The empty memory is in canonical form. -/
theorem Memory.nil_wf : Memory.wf [] := by simp [Memory.wf]

/-! ### Little-endian bytes (R2) -/

@[simp] theorem leBytes_length (n v : Nat) : (leBytes n v).length = n := by
  induction n generalizing v with
  | zero => rfl
  | succ n ih => simp [leBytes, ih]

/-- The value of the n low bytes of a number. -/
theorem leNat_leBytes (n v : Nat) : leNat (leBytes n v) = v % 256 ^ n := by
  induction n generalizing v with
  | zero => simp [leBytes, leNat, Nat.mod_one]
  | succ n ih =>
    simp only [leBytes, leNat, ih, BitVec.toNat_ofNat]
    rw [show 256 ^ (n + 1) = 256 * 256 ^ n from by rw [Nat.pow_succ, Nat.mul_comm], Nat.mod_mul]

@[simp] theorem Memory.readN_length (m : Memory) (a n : Nat) : (m.readN a n).length = n := by simp [Memory.readN]

/-- A read of all that was just written. -/
theorem Memory.readN_write (m : Memory) (a : Nat) (bs : List Byte) : (m.write a bs).readN a bs.length = bs := by
  apply List.ext_getElem?
  intro i
  by_cases hi : i < bs.length
  · have := Memory.read_write_in m (a := a) (k := a + i) (bs := bs) (by omega) (by omega)
    simp [Memory.readN, hi, this]
  · simp [Memory.readN, hi]

/-- A read apart from what was just written. -/
theorem Memory.readN_write_out (m : Memory) {a b n : Nat} {bs : List Byte} (h : b + n ≤ a ∨ a + bs.length ≤ b) :
    (m.write a bs).readN b n = m.readN b n := by
  unfold Memory.readN
  apply List.map_congr_left
  intro i hi
  rw [List.mem_range] at hi
  exact Memory.read_write_out m (by omega)

end Sys2Proof.Machine
end

