-- ==== Sys2Proof/Laws/Run.lean ====
section
/-! SUPPORT. How operations run: the steps of a do block one after another, and what `runM`, `runE` make of how an operation
ends. -/

namespace Sys2Proof.Machine

variable {α β : Type} (s : State)

@[simp] theorem pure_run (a : α) : (pure a : M α) s = .ok a s := rfl
@[simp] theorem get_run : (get : M State) s = .ok s s := rfl
@[simp] theorem set_run (t : State) : (set t : M Unit) s = .ok () t := rfl
@[simp] theorem modify_run (f : State → State) : (modify f : M Unit) s = .ok () (f s) := rfl
@[simp] theorem throw_run (e : Stop) : (throw e : M α) s = .error e s := rfl
@[simp] theorem modCore_run (f : Core → Core) : modCore f s = .ok () { s with core := f s.core } := rfl
@[simp] theorem modSh_run (f : Shuttle → Shuttle) : modSh f s = .ok () { s with core := { s.core with sh := f s.core.sh } } := rfl
@[simp] theorem modHost_run (f : HostSide → HostSide) : modHost f s = .ok () { s with host := f s.host } := rfl
@[simp] theorem modStrait_run (f : Strait → Strait) : modStrait f s = .ok () { s with strait := f s.strait } := rfl
@[simp] theorem stall_run (r : Stall) : (stall r : M α) s = .error (.wait r false) s := rfl
@[simp] theorem raise_run (f : FaultInfo) : (raise f : M α) s = .error (.fault f false) s := rfl
@[simp] theorem writeX_run (r : BitVec 6) (v : Word) : writeX r v s = .ok () { s with core := { s.core with sh := s.core.sh.put r v } } := rfl
@[simp] theorem writeP_run (r : BitVec 6) (b : Bool) :
    writeP r b s = .ok () { s with core := { s.core with sh := { s.core.sh with p := setBit s.core.sh.p r.toNat b } } } := rfl

@[simp] theorem bind_run (m : M α) (f : α → M β) :
    (m >>= f) s = match m s with
      | .ok a t => f a t
      | .error e t => .error e t := by
  show EStateM.bind m f s = _
  unfold EStateM.bind
  cases m s <;> rfl

@[simp] theorem map_run (m : M α) (f : α → β) :
    (f <$> m) s = match m s with
      | .ok a t => .ok (f a) t
      | .error e t => .error e t := by
  show EStateM.map f m s = _
  unfold EStateM.map
  cases m s <;> rfl

@[simp] theorem ite_run (c : Prop) [Decidable c] (a b : M α) : (if c then a else b) s = if c then a s else b s := by
  split <;> rfl

/-- A sequence whose first part succeeds goes on with the second. -/
theorem bind_ok {m : M α} {f : α → M β} {a : α} {s t : State} (h : m s = .ok a t) : (m >>= f) s = f a t := by
  simp [h]

/-- A sequence whose first part stops, stops there. -/
theorem bind_error {m : M α} {f : α → M β} {e : Stop} {s t : State} (h : m s = .error e t) : (m >>= f) s = .error e t := by
  simp [h]

/-- An operation that completes: its state, marked as completed. -/
theorem runM_ok {m : M Unit} {s t : State} (h : m s = .ok () t) : runM m s = .next { t with core := { t.core with ended := .done } } := by
  simp [runM, h]

/-- An operation that stops: what `afterStop` leaves. -/
theorem runM_error {m : M Unit} {e : Stop} {s t : State} (h : m s = .error e t) : runM m s = .next (afterStop s.core t e) := by
  simp [runM, h]

/-- A command that completes, or completes a part: its state, marked with how it ended. -/
theorem runE_ok {q : Queue} {m : M Ended} {r : Ended} {s t : State} (h : m s = .ok r t) :
    runE q m s = .next { t with core := { t.core with ended := r } } := by
  simp [runE, h]

/-- Every operation run by `runM` answers a next state. -/
theorem runM_next (m : M Unit) (s : State) : ∃ t, runM m s = .next t := by
  unfold runM
  cases m s <;> exact ⟨_, rfl⟩

/-- Every command run by `runE` answers a next state. -/
theorem runE_next (q : Queue) (m : M Ended) (s : State) : ∃ t, runE q m s = .next t := by
  unfold runE
  cases m s <;> exact ⟨_, rfl⟩

end Sys2Proof.Machine
end

