-- ==== Sys2Proof/Laws/Canonical.lean ====
section
/-! SUPPORT. That operations keep device memory and host memory in canonical form: the combinators of M, the writes, the reads, and what a
stop leaves. -/

namespace Sys2Proof.Machine

/-- Device memory and host memory are canonical. -/
def Canonical (s : State) : Prop := s.hbm.wf ∧ s.hostMem.wf

/-- A change of state keeps both memories canonical. -/
def KeepsState (f : State → State) : Prop := ∀ s, Canonical s → Canonical (f s)

/-- An operation keeps both memories canonical, whichever way it ends. -/
def Keeps {α : Type} (m : M α) : Prop := ∀ s, Canonical s → match m s with
  | .ok _ t => Canonical t
  | .error _ t => Canonical t

/-- A state with the memories of a canonical one is canonical. -/
theorem Canonical.of_eq {s t : State} (h : Canonical s) (h1 : t.hbm = s.hbm) (h2 : t.hostMem = s.hostMem) : Canonical t := by
  unfold Canonical at *
  rwa [h1, h2]

/-! ### The combinators -/

variable {α β : Type}

theorem keeps_pure (a : α) : Keeps (pure a : M α) := fun _ h => h
theorem keeps_get : Keeps (get : M State) := fun _ h => h
theorem keeps_throw (e : Stop) : Keeps (throw e : M α) := fun _ h => h
theorem keeps_stall (r : Stall) : Keeps (stall r : M α) := fun _ h => h
theorem keeps_raise (f : FaultInfo) : Keeps (raise f : M α) := fun _ h => h
theorem keeps_modify {f : State → State} (h : KeepsState f) : Keeps (modify f : M Unit) := fun s hs => h s hs
theorem keeps_modCore (f : Core → Core) : Keeps (modCore f) := fun _ h => h
theorem keeps_modSh (f : Shuttle → Shuttle) : Keeps (modSh f) := fun _ h => h
theorem keeps_modHost (f : HostSide → HostSide) : Keeps (modHost f) := fun _ h => h
theorem keeps_modStrait (f : Strait → Strait) : Keeps (modStrait f) := fun _ h => h
theorem keeps_writeX (r : BitVec 6) (v : Word) : Keeps (writeX r v) := fun _ h => h
theorem keeps_writeP (r : BitVec 6) (b : Bool) : Keeps (writeP r b) := fun _ h => h
theorem keeps_freeBits (w : Nat) : Keeps (freeBits w) := fun _ h => h

theorem keeps_bind {m : M α} {f : α → M β} (hm : Keeps m) (hf : ∀ a, Keeps (f a)) : Keeps (m >>= f) := by
  intro s hs
  have h := hm s hs
  simp only [bind_run]
  cases hr : m s with
  | ok a t => rw [hr] at h; exact hf a t h
  | error e t => rw [hr] at h; exact h

theorem keeps_map {m : M α} (f : α → β) (hm : Keeps m) : Keeps (f <$> m) := by
  intro s hs
  have h := hm s hs
  simp only [map_run]
  cases hr : m s with
  | ok a t => rw [hr] at h; exact h
  | error e t => rw [hr] at h; exact h

theorem keeps_ite {c : Prop} [Decidable c] {a b : M α} (ha : Keeps a) (hb : Keeps b) : Keeps (if c then a else b) := by
  split
  · exact ha
  · exact hb

theorem keeps_forM {f : α → M Unit} (h : ∀ a, Keeps (f a)) : ∀ l : List α, Keeps (l.forM f)
  | [] => keeps_pure ()
  | a :: l => keeps_bind (h a) (fun _ => keeps_forM h l)

theorem keeps_mapM {f : α → M β} (h : ∀ a, Keeps (f a)) : ∀ l : List α, Keeps (l.mapM f)
  | [] => by
    rw [List.mapM_nil]
    exact keeps_pure []
  | a :: l => by
    rw [List.mapM_cons]
    exact keeps_bind (h a) (fun _ => keeps_bind (keeps_mapM h l) (fun _ => keeps_pure _))

/-! ### Changes of the state -/

theorem keepsState_id : KeepsState id := fun _ h => h
theorem keepsState_comp {f g : State → State} (hf : KeepsState f) (hg : KeepsState g) : KeepsState (fun s => f (g s)) :=
  fun s h => hf _ (hg s h)
theorem keepsState_foldl {f : State → α → State} (h : ∀ a, KeepsState (fun s => f s a)) : ∀ l : List α, KeepsState (fun s => l.foldl f s)
  | [] => keepsState_id
  | a :: l => fun s hs => keepsState_foldl h l _ (h a s hs)
theorem keepsState_withCore (n : Nat) (c : State → Core) : KeepsState (fun s => withCore s n (c s)) := fun s h => by
  dsimp only [withCore]
  split
  · exact h
  · exact h
theorem keepsState_withDie (d : Nat) (x : State → Die) : KeepsState (fun s => withDie s d (x s)) := fun _ h => h
theorem keepsState_addCounter (d i n : Nat) : KeepsState (addCounter d i n) := fun _ h => h
theorem keepsState_switchTo (n : Nat) : KeepsState (fun s => switchTo s n) := fun s h => by
  dsimp only [switchTo]
  split
  · exact h
  · exact h

/-! ### Writes and reads -/

theorem keepsState_startTest (u l d : Nat) (ss : List Nat) (b : Bool) : KeepsState (startTest u l d ss b) := fun s h => by
  unfold startTest
  repeat' split
  all_goals exact h

theorem keepsState_spendInjection (inj : Option Nat) : KeepsState (spendInjection inj) := fun s h => by
  unfold spendInjection
  split
  · next n => exact keepsState_withCore n (fun s => { coreOf s n with sh := { (coreOf s n).sh with errinj := setBit (coreOf s n).sh.errinj 63 false } }) s h
  · exact h

theorem keepsState_makeRoom (d : Nat) : KeepsState (makeRoom d) := fun s h => by
  unfold makeRoom
  repeat' split
  all_goals exact h

theorem keepsState_putLine (sec : Nat) (v : BitVec 512) (c : Option Nat) (mk : Marks) (b : Bool) : KeepsState (putLine sec v c mk b) := fun s h => by
  unfold putLine
  split
  · exact h
  · exact (keepsState_makeRoom _ s h).of_eq rfl rfl

theorem keepsState_writeHbm (sec : Nat) (v : BitVec 512) (code : Option Nat) (mk : Marks) : KeepsState (writeHbm sec v code mk) :=
  fun _ h => ⟨Memory.write_wf h.1 _ _, h.2⟩

theorem keepsState_putSector (sec : Nat) (v : BitVec 512) (code : Option Nat) (mk : Marks) : KeepsState (putSector sec v code mk) := fun s h =>
  keepsState_writeHbm _ _ _ _ _ (keepsState_putLine sec v code mk true s h)

/-- A recorder keeps both memories canonical. -/
def KeepsRec (log : Recorder) : Prop := ∀ d w, KeepsState (log d w)

theorem keepsState_noteErrorBy {log : Recorder} (hl : KeepsRec log) (e : FoundErr) (sec : Nat) (low : Word) :
    KeepsState (noteErrorBy log e sec low) := fun s h =>
  keepsState_startTest _ _ _ _ _ _ (keepsState_addCounter _ _ _ _ (hl _ _ s h))

theorem keepsState_settleLine {log : Recorder} (hl : KeepsRec log) (sec : Nat) : KeepsState (fun s => (settleLine log sec s).2) := fun s h => by
  unfold settleLine
  dsimp only
  split
  · exact h
  · split
    · exact h
    · split
      · exact keepsState_putLine _ _ _ _ _ s h
      · split
        · exact keepsState_putLine _ _ _ _ _ _ (keepsState_startTest _ _ _ _ _ _ (hl _ _ _ (keepsState_addCounter _ _ _ _ h)))
        · split
          · exact (keepsState_startTest _ _ _ _ _ _ (hl _ _ _ (keepsState_addCounter _ _ _ _ h))).of_eq rfl rfl
          · have k : ∀ d w u l e ss b c i m d' i' m', Canonical (addCounter d' i' m' (addCounter c i m (startTest u l e ss b (log d w s)))) :=
              fun d w u l e ss b c i m d' i' m' => keepsState_addCounter d' i' m' _ (keepsState_addCounter c i m _
                (keepsState_startTest u l e ss b _ (hl d w s h)))
            have p := fun v c mk b d w u l e ss b' c' i m d' i' m' =>
              keepsState_putLine sec v c mk b _ (k d w u l e ss b' c' i m d' i' m')
            exact keepsState_writeHbm _ _ _ _ _ (p _ _ _ _ _ _ _ _ _ _ _ _ _ _ _ _ _)

theorem keepsState_readSectorBy {log : Recorder} (hl : KeepsRec log) (fg : Bool) (rd : Option Nat) (src sec : Nat) :
    KeepsState (fun s => (readSectorBy log fg rd src sec s).2) := fun s h => by
  have k := keepsState_settleLine hl sec s h
  unfold readSectorBy
  dsimp only at k ⊢
  split
  · split
    · exact hl _ _ _ (keepsState_spendInjection _ _ k)
    · exact keepsState_spendInjection _ _ k
  · exact keepsState_noteErrorBy hl _ _ _ _ (keepsState_spendInjection _ _ k)

theorem keepsState_writeSectorBy {log : Recorder} (hl : KeepsRec log) (code : Option Nat) (sec : Nat) (mask : BitVec 64)
    (v : BitVec 512) (mk : Marks) : KeepsState (writeSectorBy log code sec mask v mk) := fun s h => by
  have k : Canonical (noteWriteHit sec s) := h
  unfold writeSectorBy
  dsimp only
  split
  · exact hl _ _ s h
  · split
    · exact keepsState_putSector _ _ _ _ _ k
    · exact keepsState_putSector _ _ _ _ _ (keepsState_readSectorBy hl _ _ _ _ _ k)

theorem keepsState_devWriteBy {log : Recorder} (hl : KeepsRec log) (code pa : Nat) (bs : List Byte) :
    KeepsState (devWriteBy log code pa bs) := fun s h => by
  unfold devWriteBy
  exact keepsState_foldl (fun _ => keepsState_writeSectorBy hl _ _ _ _ _) _ s h

theorem keepsRec_dropRecord : KeepsRec dropRecord := fun _ _ _ h => h

theorem keepsRec_logMemError : KeepsRec logMemError := fun die low s h => by
  unfold logMemError appendDieRing
  split
  · next r s' e =>
    split at e
    · cases e
    · cases e
      exact keepsState_devWriteBy keepsRec_dropRecord 16 _ _ s h
  · exact h

theorem keepsState_logMemError (die : Nat) (low : Word) : KeepsState (logMemError die low) := keepsRec_logMemError die low

theorem keepsState_devWrite (code pa : Nat) (bs : List Byte) : KeepsState (devWrite code pa bs) :=
  keepsState_devWriteBy keepsRec_logMemError code pa bs

theorem keepsState_noteError (e : FoundErr) (sec : Nat) (low : Word) : KeepsState (noteError e sec low) :=
  keepsState_noteErrorBy keepsRec_logMemError e sec low

theorem keepsState_readSector (fg : Bool) (rd : Option Nat) (src sec : Nat) : KeepsState (fun s => (readSector fg rd src sec s).2) :=
  keepsState_readSectorBy keepsRec_logMemError fg rd src sec

theorem keepsState_writeSector (code : Option Nat) (sec : Nat) (mask : BitVec 64) (v : BitVec 512) (mk : Marks) :
    KeepsState (writeSector code sec mask v mk) := keepsState_writeSectorBy keepsRec_logMemError code sec mask v mk

theorem keepsState_cacheHostLine (line : Nat) : KeepsState (cacheHostLine line) := fun _ h => h

theorem keepsState_locRead (rd : Bool) (src : Nat) (l : Loc) : KeepsState (fun s => (locRead rd src l s).2) := fun s h => by
  unfold locRead
  dsimp only
  split
  · split
    · exact keepsState_addCounter _ _ _ _ (keepsState_logMemError _ _ _ (keepsState_cacheHostLine _ s h))
    · exact keepsState_cacheHostLine _ s h
  · exact keepsState_readSector _ _ _ _ s h

theorem keepsState_locWrite (l : Loc) (mask : BitVec 64) (v : BitVec 512) (mk : Marks) : KeepsState (locWrite l mask v mk) := fun s h => by
  unfold locWrite
  dsimp only
  split
  · have hc := keepsState_cacheHostLine (l.addr / 64) s h
    exact ⟨hc.1, Memory.write_wf hc.2 _ _⟩
  · exact keepsState_writeSector _ _ _ _ _ s h

/-! ### How operations end -/

theorem keepsState_dropReads (n : Nat) : KeepsState (dropReads n) := fun _ h => h

theorem keepsState_cancelPhase (why : CancelWhy) : KeepsState (cancelPhase why) := fun s h => by
  unfold cancelPhase
  refine keepsState_foldl (fun n => ?_) _ s h
  intro t ht
  dsimp only
  split
  · exact keepsState_dropReads _ _ (keepsState_addCounter _ _ _ _ (keepsState_withCore n (fun t => cancelCore _ (coreOf t n)) t ht))
  · exact ht

theorem keepsState_recordFault (n : Nat) (f : FaultInfo) : KeepsState (recordFault n f) := fun s h => by
  have hw : ∀ c : Core, Canonical (withCore s n c) := fun c => keepsState_withCore n (fun _ => c) s h
  unfold recordFault appendFault
  dsimp only
  split
  all_goals
    split
    · exact keepsState_addCounter _ _ _ _ (hw _)
    · exact keepsState_devWrite 16 _ _ _ ((hw _).of_eq rfl rfl)

theorem keepsState_takeFault (n : Nat) (f : FaultInfo) : KeepsState (takeFault n f) := fun s h => by
  have hw : ∀ (t : State) (c : Core), Canonical t → Canonical (withCore t n c) := fun t c ht => keepsState_withCore n (fun _ => c) t ht
  have hr := keepsState_recordFault n f _ (show Canonical (dropWaits n s) from h)
  unfold takeFault
  dsimp only
  split
  · exact keepsState_dropReads _ _ (hw _ _ hr)
  · exact hw _ _ hr

theorem keepsState_loseJoint (n first : Nat) (own : Bool) : KeepsState (loseJoint n first own) := fun s h => by
  have hw : ∀ c : Core, Canonical (withCore s n c) := fun c => keepsState_withCore n (fun _ => c) s h
  unfold loseJoint
  dsimp only
  split
  · exact h
  · split
    · split
      · exact keepsState_dropReads _ _ (keepsState_addCounter _ _ _ _ (hw _))
      · exact hw _
    · split
      · exact hw _
      · exact keepsState_takeFault _ _ _ (hw _)

theorem keepsState_faultOn (n : Nat) (f : FaultInfo) : KeepsState (faultOn n f) := fun s h => by
  have ht := keepsState_takeFault n f s h
  unfold faultOn
  dsimp only
  split
  · unfold jointLoss
    exact keepsState_foldl (fun k => keepsState_loseJoint k _ _) _ _ ht
  · exact ht

theorem keepsState_afterStop (c : Core) (e : Stop) : KeepsState (fun s => afterStop c s e) := fun s h => by
  cases e with
  | wait r keep => cases keep <;> exact h
  | fault f keep => cases keep <;> exact keepsState_faultOn _ _ _ h
  | cancel why => exact keepsState_cancelPhase why _ (h.of_eq (t := { s with core := c }) rfl rfl)

/-- A meaning made of an operation that keeps the memories gives only canonical states. -/
theorem runM_canonical {m : M Unit} (hm : Keeps m) {s t : State} (h : Canonical s) (ht : runM m s = .next t) : Canonical t := by
  have k := hm s h
  unfold runM at ht
  cases hr : m s with
  | ok a u =>
    rw [hr] at k ht
    cases ht
    exact k
  | error e u =>
    rw [hr] at k ht
    cases ht
    exact keepsState_afterStop _ e u k

/-- The same of a command of an engine queue. -/
theorem runE_canonical {q : Queue} {m : M Ended} (hm : Keeps m) {s t : State} (h : Canonical s) (ht : runE q m s = .next t) : Canonical t := by
  have k := hm s h
  unfold runE at ht
  cases hr : m s with
  | ok a u =>
    rw [hr] at k ht
    cases ht
    exact k
  | error e u =>
    rw [hr] at k ht
    cases ht
    exact keepsState_afterStop _ e u k

end Sys2Proof.Machine
end

