-- ==== Sys2Proof/Laws/Reads.lean ====
section
/-! SUPPORT. What a read of memory, a page walk or a note of an error may change: it never touches a core but for the injection it
uses up, nor host memory, the Strait or the host side. -/

namespace Sys2Proof.Machine

/-- `t` is `s` but for what a read leaves: an injection used up, error records and counters, self-tests, lines of the L2 slices,
caches of the dies. -/
def ReadEffect (s t : State) : Prop :=
  t = { s with
    core := { s.core with sh := { s.core.sh with errinj := t.core.sh.errinj } }
    others := t.others
    hbm := t.hbm
    sectors := t.sectors
    l2 := t.l2
    l2Age := t.l2Age
    blocks := t.blocks
    copies := t.copies
    selfTests := t.selfTests
    dies := t.dies
    hostLines := t.hostLines }

theorem ReadEffect.refl (s : State) : ReadEffect s s := rfl

theorem ReadEffect.trans {a b c : State} (h1 : ReadEffect a b) (h2 : ReadEffect b c) : ReadEffect a c := by
  unfold ReadEffect at *
  rw [h2, h1]

/-- A read never changes the core's engines, tiles, flags or window. -/
theorem ReadEffect.core {s t : State} (h : ReadEffect s t) :
    t.core = { s.core with sh := { s.core.sh with errinj := t.core.sh.errinj } } := by
  unfold ReadEffect at h
  exact congrArg State.core h

/-- A recorder leaves no more than a read does. -/
def Records (log : Recorder) : Prop := ∀ d w s, ReadEffect s (log d w s)

theorem readEffect_foldl {α : Type} (f : State → α → State) (h : ∀ s a, ReadEffect s (f s a)) (l : List α) :
    ∀ s, ReadEffect s (l.foldl f s) := by
  induction l with
  | nil => exact fun s => .refl s
  | cons a l ih => exact fun s => (h s a).trans (ih _)

theorem readEffect_addCounter (d i n : Nat) (s : State) : ReadEffect s (addCounter d i n s) := rfl

theorem readEffect_startTest (u l d : Nat) (ss : List Nat) (b : Bool) (s : State) : ReadEffect s (startTest u l d ss b s) := by
  unfold startTest
  split
  · rfl
  · split <;> rfl

theorem readEffect_spendInjection (inj : Option Nat) (s : State) : ReadEffect s (spendInjection inj s) := by
  cases inj with
  | none => rfl
  | some n =>
    unfold spendInjection withCore coreOf
    by_cases h : n = s.cur
    · simp only [h, if_true]; rfl
    · simp only [h, if_false]; rfl

theorem readEffect_makeRoom (d : Nat) (s : State) : ReadEffect s (makeRoom d s) := by
  unfold makeRoom
  split
  · exact .refl s
  · split
    · rfl
    · exact .refl s

theorem readEffect_putLine (sec : Nat) (v : BitVec 512) (c : Option Nat) (mk : Marks) (b : Bool) (s : State) :
    ReadEffect s (putLine sec v c mk b s) := by
  unfold putLine
  split
  · rfl
  · exact (readEffect_makeRoom _ s).trans rfl

theorem readEffect_noteErrorBy {log : Recorder} (hl : Records log) (e : FoundErr) (sec : Nat) (low : Word) (s : State) :
    ReadEffect s (noteErrorBy log e sec low s) :=
  (hl _ _ _).trans ((readEffect_addCounter _ _ _ _).trans (readEffect_startTest _ _ _ _ _ _))

theorem readEffect_settleLine {log : Recorder} (hl : Records log) (sec : Nat) (s : State) :
    ReadEffect s (settleLine log sec s).2 := by
  unfold settleLine
  split
  · exact .refl s
  · dsimp only
    split
    · exact .refl s
    · split
      · exact readEffect_putLine _ _ _ _ _ _
      · split
        · exact ((readEffect_addCounter _ _ _ _).trans ((hl _ _ _).trans (readEffect_startTest _ _ _ _ _ _))).trans
            (readEffect_putLine _ _ _ _ _ _)
        · split
          · exact ((readEffect_addCounter _ _ _ _).trans ((hl _ _ _).trans (readEffect_startTest _ _ _ _ _ _))).trans rfl
          · exact (((hl _ _ _).trans (readEffect_startTest _ _ _ _ _ _)).trans ((readEffect_addCounter _ _ _ _).trans
              ((readEffect_addCounter _ _ _ _).trans (readEffect_putLine _ _ _ _ _ _)))).trans rfl

theorem readEffect_readSectorBy {log : Recorder} (hl : Records log) (fg : Bool) (rd : Option Nat) (src sec : Nat) (s : State) :
    ReadEffect s (readSectorBy log fg rd src sec s).2 := by
  unfold readSectorBy
  dsimp only
  have h := readEffect_settleLine hl sec s
  split
  · refine h.trans ?_
    split
    · exact (readEffect_spendInjection _ _).trans (hl _ _ _)
    · exact readEffect_spendInjection _ _
  · exact h.trans ((readEffect_spendInjection _ _).trans (readEffect_noteErrorBy hl _ _ _ _))

theorem readEffect_writeSectorBy {log : Recorder} (hl : Records log) (c : Option Nat) (sec : Nat) (m : BitVec 64) (v : BitVec 512)
    (mk : Marks) (s : State) : ReadEffect s (writeSectorBy log c sec m v mk s) := by
  have put : ∀ v c mk u, ReadEffect u (putSector sec v c mk u) := fun v c mk u => (readEffect_putLine _ _ _ _ _ _).trans rfl
  have hit : ReadEffect s (noteWriteHit sec s) := rfl
  unfold writeSectorBy
  dsimp only
  split
  · exact hl _ _ _
  · split
    · exact hit.trans (put _ _ _ _)
    · exact hit.trans ((readEffect_readSectorBy hl _ _ _ _ _).trans (put _ _ _ _))

theorem readEffect_devWriteBy {log : Recorder} (hl : Records log) (c pa : Nat) (bs : List Byte) (s : State) :
    ReadEffect s (devWriteBy log c pa bs s) := by
  unfold devWriteBy
  exact readEffect_foldl _ (fun _ _ => readEffect_writeSectorBy hl _ _ _ _ _ _) _ _

theorem records_dropRecord : Records dropRecord := fun _ _ _ => rfl

theorem records_logMemError : Records logMemError := by
  intro d w s
  unfold logMemError appendDieRing
  split
  · rename_i h
    split at h
    · cases h
    · cases h
      exact (readEffect_devWriteBy records_dropRecord _ _ _ _).trans rfl
  · exact records_dropRecord _ _ _

theorem readEffect_logMemError (d : Nat) (w : Word) (s : State) : ReadEffect s (logMemError d w s) := records_logMemError d w s

theorem readEffect_noteError (e : FoundErr) (sec : Nat) (low : Word) (s : State) : ReadEffect s (noteError e sec low s) :=
  readEffect_noteErrorBy records_logMemError _ _ _ _

theorem readEffect_readSector (fg : Bool) (rd : Option Nat) (src sec : Nat) (s : State) :
    ReadEffect s (readSector fg rd src sec s).2 := readEffect_readSectorBy records_logMemError _ _ _ _ _

theorem readEffect_writeSector (c : Option Nat) (sec : Nat) (m : BitVec 64) (v : BitVec 512) (mk : Marks) (s : State) :
    ReadEffect s (writeSector c sec m v mk s) := readEffect_writeSectorBy records_logMemError _ _ _ _ _ _

theorem readEffect_devWrite (c pa : Nat) (bs : List Byte) (s : State) : ReadEffect s (devWrite c pa bs s) :=
  readEffect_devWriteBy records_logMemError _ _ _ _

theorem readEffect_locRead (rd : Bool) (src : Nat) (l : Loc) (s : State) : ReadEffect s (locRead rd src l s).2 := by
  unfold locRead
  split
  · dsimp only
    have h1 : ReadEffect s (cacheHostLine (l.addr / 64) s) := rfl
    split
    · exact h1.trans ((readEffect_logMemError _ _ _).trans (readEffect_addCounter _ _ _ _))
    · exact h1
  · exact readEffect_readSector _ _ _ _ _

theorem readEffect_readEntry (a : Nat) (s : State) : ReadEffect s (readEntry a s).2 := by
  unfold readEntry
  have h := readEffect_readSector true none 0 (a / 64) s
  dsimp only
  split
  · exact .refl s
  · split
    · exact h
    · split
      · split <;> exact h
      · exact h

theorem readEffect_pointerEntry (d n l b a : Nat) (s : State) : ReadEffect s (pointerEntry d n l b a s).2 := by
  unfold pointerEntry
  split
  · exact .refl _
  · exact readEffect_readEntry _ _

theorem readEffect_cacheWalk (d n l b p : Nat) (s : State) : ReadEffect s (cacheWalk d n l b p s) := by
  unfold cacheWalk
  dsimp only
  split <;> rfl

theorem readEffect_walk (d n tb va : Nat) (s : State) : ReadEffect s (walk d n tb va s).2 := by
  unfold walk
  dsimp only
  have h3 := readEffect_pointerEntry d n 3 (va / 2 ^ 40) (tb + 8 * (va / 2 ^ 40)) s
  split
  · rename_i h; rw [h] at h3; exact h3
  · rename_i e3 s3 h
    rw [h] at h3
    split
    · exact h3
    split
    · exact h3
    split
    · exact h3
    have h5 := (h3.trans (readEffect_cacheWalk d n 3 (va / 2 ^ 40) e3 s3)).trans
      (readEffect_pointerEntry d n 2 (va / 2 ^ 28) (pteTable e3 + 8 * (va / 2 ^ 28 % 4096)) _)
    split
    · rename_i h; rw [h] at h5; exact h5
    · rename_i e2 s5 h
      rw [h] at h5
      split
      · exact h5
      split
      · exact h5
      split
      · exact h5
      have h7 := (h5.trans (readEffect_cacheWalk d n 2 (va / 2 ^ 28) e2 s5)).trans
        (readEffect_readEntry (pteTable e2 + 8 * (va / 65536 % 4096)) _)
      split
      · rename_i h; rw [h] at h7; exact h7
      · rename_i h
        rw [h] at h7
        split
        · exact h7
        split
        · exact h7
        split
        · exact h7
        split <;> exact h7

theorem readEffect_prefPlace (va : Word) (s : State) : ReadEffect s (prefPlace s va).2 := by
  unfold prefPlace
  split
  · exact .refl _
  · dsimp only
    have h : ReadEffect s (match tlbFind s.core (coreReq s shData) va.toNat with
      | some e => (WalkEnd.leaf e.pte.toNat e.pteAddr e.big, s)
      | none => walk (dieOfCore s.cur % 4) (coreReq s shData).asn (coreReq s shData).tbase va.toNat s).2 := by
      split
      · exact .refl s
      · exact readEffect_walk _ _ _ _ _
    split
    · rename_i hw
      have h2 := Eq.mp (congrArg (fun x => ReadEffect s x.2) hw) h
      repeat' split
      all_goals exact h2
    · rename_i hw
      exact Eq.mp (congrArg (fun x => ReadEffect s x.2) hw) h

end Sys2Proof.Machine
end

