-- ==== Sys2Proof/Laws/State.lean ====
section
/-! SUPPORT. What the named updates of the state leave: one lemma for each field and each update, so that no later proof
unfolds a record update. -/

namespace Sys2Proof.Machine

/-! ### Registers of the Shuttle -/

@[simp] theorem Shuttle.put_p (h : Shuttle) (r : BitVec 6) (v : Word) : (h.put r v).p = h.p := by
  unfold Shuttle.put; split <;> rfl
@[simp] theorem Shuttle.put_pc (h : Shuttle) (r : BitVec 6) (v : Word) : (h.put r v).pc = h.pc := by
  unfold Shuttle.put; split <;> rfl
@[simp] theorem Shuttle.put_lane (h : Shuttle) (r : BitVec 6) (v : Word) : (h.put r v).lane = h.lane := by
  unfold Shuttle.put; split <;> rfl
@[simp] theorem Shuttle.put_buf (h : Shuttle) (r : BitVec 6) (v : Word) : (h.put r v).buf = h.buf := by
  unfold Shuttle.put; split <;> rfl
@[simp] theorem Shuttle.put_ready (h : Shuttle) (r : BitVec 6) (v : Word) : (h.put r v).ready = h.ready := by
  unfold Shuttle.put; split <;> rfl
@[simp] theorem Shuttle.put_target (h : Shuttle) (r : BitVec 6) (v : Word) : (h.put r v).target = h.target := by
  unfold Shuttle.put; split <;> rfl
@[simp] theorem Shuttle.put_rep (h : Shuttle) (r : BitVec 6) (v : Word) : (h.put r v).rep = h.rep := by
  unfold Shuttle.put; split <;> rfl
@[simp] theorem Shuttle.put_fstat (h : Shuttle) (r : BitVec 6) (v : Word) : (h.put r v).fstat = h.fstat := by
  unfold Shuttle.put; split <;> rfl
@[simp] theorem Shuttle.put_frm (h : Shuttle) (r : BitVec 6) (v : Word) : (h.put r v).frm = h.frm := by
  unfold Shuttle.put; split <;> rfl
@[simp] theorem Shuttle.put_tvec (h : Shuttle) (r : BitVec 6) (v : Word) : (h.put r v).tvec = h.tvec := by
  unfold Shuttle.put; split <;> rfl
@[simp] theorem Shuttle.put_epc (h : Shuttle) (r : BitVec 6) (v : Word) : (h.put r v).epc = h.epc := by
  unfold Shuttle.put; split <;> rfl
@[simp] theorem Shuttle.put_ecount (h : Shuttle) (r : BitVec 6) (v : Word) : (h.put r v).ecount = h.ecount := by
  unfold Shuttle.put; split <;> rfl
@[simp] theorem Shuttle.put_eretry (h : Shuttle) (r : BitVec 6) (v : Word) : (h.put r v).eretry = h.eretry := by
  unfold Shuttle.put; split <;> rfl
@[simp] theorem Shuttle.put_more (h : Shuttle) (r : BitVec 6) (v : Word) : (h.put r v).more = h.more := by
  unfold Shuttle.put; split <;> rfl
@[simp] theorem Shuttle.put_hmode (h : Shuttle) (r : BitVec 6) (v : Word) : (h.put r v).hmode = h.hmode := by
  unfold Shuttle.put; split <;> rfl
@[simp] theorem Shuttle.put_errinj (h : Shuttle) (r : BitVec 6) (v : Word) : (h.put r v).errinj = h.errinj := by
  unfold Shuttle.put; split <;> rfl
@[simp] theorem Shuttle.put_errinjCode (h : Shuttle) (r : BitVec 6) (v : Word) : (h.put r v).errinjCode = h.errinjCode := by
  unfold Shuttle.put; split <;> rfl
@[simp] theorem Shuttle.put_errinjSector (h : Shuttle) (r : BitVec 6) (v : Word) : (h.put r v).errinjSector = h.errinjSector := by
  unfold Shuttle.put; split <;> rfl
@[simp] theorem Shuttle.put_frec (h : Shuttle) (r : BitVec 6) (v : Word) : (h.put r v).frec = h.frec := by
  unfold Shuttle.put; split <;> rfl
@[simp] theorem Shuttle.put_frecHeld (h : Shuttle) (r : BitVec 6) (v : Word) : (h.put r v).frecHeld = h.frecHeld := by
  unfold Shuttle.put; split <;> rfl
@[simp] theorem Shuttle.put_pending (h : Shuttle) (r : BitVec 6) (v : Word) : (h.put r v).pending = h.pending := by
  unfold Shuttle.put; split <;> rfl
@[simp] theorem Shuttle.put_nextTicket (h : Shuttle) (r : BitVec 6) (v : Word) : (h.put r v).nextTicket = h.nextTicket := by
  unfold Shuttle.put; split <;> rfl
@[simp] theorem Shuttle.put_replies (h : Shuttle) (r : BitVec 6) (v : Word) : (h.put r v).replies = h.replies := by
  unfold Shuttle.put; split <;> rfl
@[simp] theorem Shuttle.put_heldReplies (h : Shuttle) (r : BitVec 6) (v : Word) : (h.put r v).heldReplies = h.heldReplies := by
  unfold Shuttle.put; split <;> rfl
@[simp] theorem Shuttle.put_fence (h : Shuttle) (r : BitVec 6) (v : Word) : (h.put r v).fence = h.fence := by
  unfold Shuttle.put; split <;> rfl
@[simp] theorem Shuttle.put_timedNow (h : Shuttle) (r : BitVec 6) (v : Word) : (h.put r v).timedNow = h.timedNow := by
  unfold Shuttle.put; split <;> rfl
@[simp] theorem Shuttle.mark_x (h : Shuttle) (r : BitVec 6) : (h.mark r).x = h.x := by
  unfold Shuttle.mark; split <;> rfl
@[simp] theorem Shuttle.mark_p (h : Shuttle) (r : BitVec 6) : (h.mark r).p = h.p := by
  unfold Shuttle.mark; split <;> rfl
@[simp] theorem Shuttle.mark_pc (h : Shuttle) (r : BitVec 6) : (h.mark r).pc = h.pc := by
  unfold Shuttle.mark; split <;> rfl
@[simp] theorem Shuttle.mark_lane (h : Shuttle) (r : BitVec 6) : (h.mark r).lane = h.lane := by
  unfold Shuttle.mark; split <;> rfl
@[simp] theorem Shuttle.mark_buf (h : Shuttle) (r : BitVec 6) : (h.mark r).buf = h.buf := by
  unfold Shuttle.mark; split <;> rfl
@[simp] theorem Shuttle.mark_ready (h : Shuttle) (r : BitVec 6) : (h.mark r).ready = h.ready := by
  unfold Shuttle.mark; split <;> rfl
@[simp] theorem Shuttle.mark_target (h : Shuttle) (r : BitVec 6) : (h.mark r).target = h.target := by
  unfold Shuttle.mark; split <;> rfl
@[simp] theorem Shuttle.mark_rep (h : Shuttle) (r : BitVec 6) : (h.mark r).rep = h.rep := by
  unfold Shuttle.mark; split <;> rfl
@[simp] theorem Shuttle.mark_fstat (h : Shuttle) (r : BitVec 6) : (h.mark r).fstat = h.fstat := by
  unfold Shuttle.mark; split <;> rfl
@[simp] theorem Shuttle.mark_frm (h : Shuttle) (r : BitVec 6) : (h.mark r).frm = h.frm := by
  unfold Shuttle.mark; split <;> rfl
@[simp] theorem Shuttle.mark_tvec (h : Shuttle) (r : BitVec 6) : (h.mark r).tvec = h.tvec := by
  unfold Shuttle.mark; split <;> rfl
@[simp] theorem Shuttle.mark_epc (h : Shuttle) (r : BitVec 6) : (h.mark r).epc = h.epc := by
  unfold Shuttle.mark; split <;> rfl
@[simp] theorem Shuttle.mark_ecount (h : Shuttle) (r : BitVec 6) : (h.mark r).ecount = h.ecount := by
  unfold Shuttle.mark; split <;> rfl
@[simp] theorem Shuttle.mark_eretry (h : Shuttle) (r : BitVec 6) : (h.mark r).eretry = h.eretry := by
  unfold Shuttle.mark; split <;> rfl
@[simp] theorem Shuttle.mark_more (h : Shuttle) (r : BitVec 6) : (h.mark r).more = h.more := by
  unfold Shuttle.mark; split <;> rfl
@[simp] theorem Shuttle.mark_hmode (h : Shuttle) (r : BitVec 6) : (h.mark r).hmode = h.hmode := by
  unfold Shuttle.mark; split <;> rfl
@[simp] theorem Shuttle.mark_errinj (h : Shuttle) (r : BitVec 6) : (h.mark r).errinj = h.errinj := by
  unfold Shuttle.mark; split <;> rfl
@[simp] theorem Shuttle.mark_errinjCode (h : Shuttle) (r : BitVec 6) : (h.mark r).errinjCode = h.errinjCode := by
  unfold Shuttle.mark; split <;> rfl
@[simp] theorem Shuttle.mark_errinjSector (h : Shuttle) (r : BitVec 6) : (h.mark r).errinjSector = h.errinjSector := by
  unfold Shuttle.mark; split <;> rfl
@[simp] theorem Shuttle.mark_frec (h : Shuttle) (r : BitVec 6) : (h.mark r).frec = h.frec := by
  unfold Shuttle.mark; split <;> rfl
@[simp] theorem Shuttle.mark_frecHeld (h : Shuttle) (r : BitVec 6) : (h.mark r).frecHeld = h.frecHeld := by
  unfold Shuttle.mark; split <;> rfl
@[simp] theorem Shuttle.mark_pending (h : Shuttle) (r : BitVec 6) : (h.mark r).pending = h.pending := by
  unfold Shuttle.mark; split <;> rfl
@[simp] theorem Shuttle.mark_nextTicket (h : Shuttle) (r : BitVec 6) : (h.mark r).nextTicket = h.nextTicket := by
  unfold Shuttle.mark; split <;> rfl
@[simp] theorem Shuttle.mark_replies (h : Shuttle) (r : BitVec 6) : (h.mark r).replies = h.replies := by
  unfold Shuttle.mark; split <;> rfl
@[simp] theorem Shuttle.mark_heldReplies (h : Shuttle) (r : BitVec 6) : (h.mark r).heldReplies = h.heldReplies := by
  unfold Shuttle.mark; split <;> rfl
@[simp] theorem Shuttle.mark_fence (h : Shuttle) (r : BitVec 6) : (h.mark r).fence = h.fence := by
  unfold Shuttle.mark; split <;> rfl
@[simp] theorem Shuttle.mark_timedNow (h : Shuttle) (r : BitVec 6) : (h.mark r).timedNow = h.timedNow := by
  unfold Shuttle.mark; split <;> rfl
@[simp] theorem Shuttle.mark_savedAt (h : Shuttle) (r : BitVec 6) : (h.mark r).savedAt = h.savedAt := by
  unfold Shuttle.mark; split <;> rfl
@[simp] theorem Shuttle.mark_savedTarget (h : Shuttle) (r : BitVec 6) : (h.mark r).savedTarget = h.savedTarget := by
  unfold Shuttle.mark; split <;> rfl
@[simp] theorem Shuttle.mark_savedFence (h : Shuttle) (r : BitVec 6) : (h.mark r).savedFence = h.savedFence := by
  unfold Shuttle.mark; split <;> rfl

/-- x0 takes nothing (R195). -/
@[simp] theorem Shuttle.put_zero (h : Shuttle) (v : Word) : h.put 0 v = h := by simp [Shuttle.put]
@[simp] theorem Shuttle.put_savedAt (h : Shuttle) (r : BitVec 6) (v : Word) : (h.put r v).savedAt = h.savedAt := by
  unfold Shuttle.put; split <;> rfl
@[simp] theorem Shuttle.put_savedTarget (h : Shuttle) (r : BitVec 6) (v : Word) : (h.put r v).savedTarget = h.savedTarget := by
  unfold Shuttle.put; split <;> rfl
@[simp] theorem Shuttle.put_savedFence (h : Shuttle) (r : BitVec 6) (v : Word) : (h.put r v).savedFence = h.savedFence := by
  unfold Shuttle.put; split <;> rfl
/-- A register reads what was written (R195). -/
theorem Shuttle.get_put_same (h : Shuttle) {r : BitVec 6} (v : Word) (hr : r ≠ 0) : (h.put r v).get r = v := by
  unfold Shuttle.put Shuttle.get
  rw [if_neg hr, if_neg hr]
  exact mget_mset_same _ _ _ _
/-- Another register keeps its value. -/
theorem Shuttle.get_put_other (h : Shuttle) {r q : BitVec 6} (v : Word) (hq : q ≠ r) : (h.put r v).get q = h.get q := by
  have this : q.toNat ≠ r.toNat := fun e => hq (BitVec.eq_of_toNat_eq e)
  unfold Shuttle.put Shuttle.get
  by_cases hr : r = 0
  · rw [if_pos hr]
  · rw [if_neg hr]
    by_cases hq0 : q = 0
    · rw [if_pos hq0, if_pos hq0]
    · rw [if_neg hq0, if_neg hq0]
      exact mget_mset_other _ _ _ this

/-! ### Cores and dies -/

@[simp] theorem coreOf_withCore_same (s : State) (n : Nat) (c : Core) : coreOf (withCore s n c) n = c := by
  unfold coreOf withCore
  by_cases h : n = s.cur <;> simp [h]
theorem coreOf_withCore_other (s : State) {n k : Nat} (c : Core) (h : k ≠ n) : coreOf (withCore s n c) k = coreOf s k := by
  unfold coreOf withCore
  by_cases hn : n = s.cur
  · have hk : k ≠ s.cur := fun e => h (e.trans hn.symm)
    simp [hn, hk]
  · by_cases hk : k = s.cur
    · simp [hn, hk]
    · simp only [hn, if_false, hk]
      exact mget_mset_other _ _ _ h
theorem coreOf_cur (s : State) : coreOf s s.cur = s.core := by simp [coreOf]
theorem withCore_cur (s : State) (c : Core) : withCore s s.cur c = { s with core := c } := by simp [withCore]
theorem switchTo_cur (s : State) : switchTo s s.cur = s := by simp [switchTo]
@[simp] theorem switchTo_core (s : State) (n : Nat) : (switchTo s n).core = coreOf s n := by
  unfold switchTo coreOf
  split <;> rfl
@[simp] theorem switchTo_at (s : State) (n : Nat) : (switchTo s n).cur = n := by
  unfold switchTo
  split
  · rename_i h; exact h.symm
  · rfl
/-- Switching to a core changes no core (R9). -/
theorem coreOf_switchTo (s : State) (n k : Nat) : coreOf (switchTo s n) k = coreOf s k := by
  by_cases hn : n = s.cur
  · rw [hn, switchTo_cur]
  · unfold coreOf switchTo
    simp only [hn, if_false]
    by_cases hk : k = n
    · subst hk
      simp [hn]
    · simp only [hk, if_false]
      rw [mget_mset_other _ _ _ hk]
      by_cases hc : k = s.cur
      · simp [hc]
      · simp only [hc, if_false]
        rw [mget_mset_other _ _ _ hc]

@[simp] theorem dieOf_withDie_same (s : State) (d : Nat) (x : Die) : dieOf (withDie s d x) d = x := by simp [dieOf, withDie]
theorem dieOf_withDie_other (s : State) {d k : Nat} (x : Die) (h : k ≠ d) : dieOf (withDie s d x) k = dieOf s k := by
  unfold dieOf withDie
  exact mget_mset_other _ _ _ h

@[simp] theorem withCore_cur_eq (s : State) (n : Nat) (c : Core) : (withCore s n c).cur = s.cur := by
  unfold withCore; split <;> rfl
@[simp] theorem withCore_agenda (s : State) (n : Nat) (c : Core) : (withCore s n c).agenda = s.agenda := by
  unfold withCore; split <;> rfl
@[simp] theorem withCore_rr (s : State) (n : Nat) (c : Core) : (withCore s n c).rr = s.rr := by
  unfold withCore; split <;> rfl
@[simp] theorem withCore_fresh (s : State) (n : Nat) (c : Core) : (withCore s n c).fresh = s.fresh := by
  unfold withCore; split <;> rfl
@[simp] theorem withCore_input (s : State) (n : Nat) (c : Core) : (withCore s n c).input = s.input := by
  unfold withCore; split <;> rfl
@[simp] theorem withCore_pick (s : State) (n : Nat) (c : Core) : (withCore s n c).pick = s.pick := by
  unfold withCore; split <;> rfl
@[simp] theorem withCore_hbm (s : State) (n : Nat) (c : Core) : (withCore s n c).hbm = s.hbm := by
  unfold withCore; split <;> rfl
@[simp] theorem withCore_sectors (s : State) (n : Nat) (c : Core) : (withCore s n c).sectors = s.sectors := by
  unfold withCore; split <;> rfl
@[simp] theorem withCore_hostMem (s : State) (n : Nat) (c : Core) : (withCore s n c).hostMem = s.hostMem := by
  unfold withCore; split <;> rfl
@[simp] theorem withCore_hostPoison (s : State) (n : Nat) (c : Core) : (withCore s n c).hostPoison = s.hostPoison := by
  unfold withCore; split <;> rfl
@[simp] theorem withCore_hostLines (s : State) (n : Nat) (c : Core) : (withCore s n c).hostLines = s.hostLines := by
  unfold withCore; split <;> rfl
@[simp] theorem withCore_blocks (s : State) (n : Nat) (c : Core) : (withCore s n c).blocks = s.blocks := by
  unfold withCore; split <;> rfl
@[simp] theorem withCore_selfTests (s : State) (n : Nat) (c : Core) : (withCore s n c).selfTests = s.selfTests := by
  unfold withCore; split <;> rfl
@[simp] theorem withCore_lasting (s : State) (n : Nat) (c : Core) : (withCore s n c).lasting = s.lasting := by
  unfold withCore; split <;> rfl
@[simp] theorem withCore_prq (s : State) (n : Nat) (c : Core) : (withCore s n c).prq = s.prq := by
  unfold withCore; split <;> rfl
@[simp] theorem withCore_pageReqs (s : State) (n : Nat) (c : Core) : (withCore s n c).pageReqs = s.pageReqs := by
  unfold withCore; split <;> rfl
@[simp] theorem withCore_frq (s : State) (n : Nat) (c : Core) : (withCore s n c).frq = s.frq := by
  unfold withCore; split <;> rfl
@[simp] theorem withCore_rq (s : State) (n : Nat) (c : Core) : (withCore s n c).rq = s.rq := by
  unfold withCore; split <;> rfl
@[simp] theorem withCore_prefetch (s : State) (n : Nat) (c : Core) : (withCore s n c).prefetch = s.prefetch := by
  unfold withCore; split <;> rfl
@[simp] theorem withCore_bringIns (s : State) (n : Nat) (c : Core) : (withCore s n c).bringIns = s.bringIns := by
  unfold withCore; split <;> rfl
@[simp] theorem withCore_swaps (s : State) (n : Nat) (c : Core) : (withCore s n c).swaps = s.swaps := by
  unfold withCore; split <;> rfl
@[simp] theorem withCore_holds (s : State) (n : Nat) (c : Core) : (withCore s n c).holds = s.holds := by
  unfold withCore; split <;> rfl
@[simp] theorem withCore_dies (s : State) (n : Nat) (c : Core) : (withCore s n c).dies = s.dies := by
  unfold withCore; split <;> rfl
@[simp] theorem withCore_takes (s : State) (n : Nat) (c : Core) : (withCore s n c).takes = s.takes := by
  unfold withCore; split <;> rfl
@[simp] theorem withCore_joins (s : State) (n : Nat) (c : Core) : (withCore s n c).joins = s.joins := by
  unfold withCore; split <;> rfl
@[simp] theorem withCore_spawns (s : State) (n : Nat) (c : Core) : (withCore s n c).spawns = s.spawns := by
  unfold withCore; split <;> rfl
@[simp] theorem withCore_loomWaits (s : State) (n : Nat) (c : Core) : (withCore s n c).loomWaits = s.loomWaits := by
  unfold withCore; split <;> rfl
@[simp] theorem withCore_groups (s : State) (n : Nat) (c : Core) : (withCore s n c).groups = s.groups := by
  unfold withCore; split <;> rfl
@[simp] theorem withCore_nextGroup (s : State) (n : Nat) (c : Core) : (withCore s n c).nextGroup = s.nextGroup := by
  unfold withCore; split <;> rfl
@[simp] theorem withCore_strait (s : State) (n : Nat) (c : Core) : (withCore s n c).strait = s.strait := by
  unfold withCore; split <;> rfl
@[simp] theorem withCore_host (s : State) (n : Nat) (c : Core) : (withCore s n c).host = s.host := by
  unfold withCore; split <;> rfl
@[simp] theorem withCore_images (s : State) (n : Nat) (c : Core) : (withCore s n c).images = s.images := by
  unfold withCore; split <;> rfl
@[simp] theorem withCore_nextImage (s : State) (n : Nat) (c : Core) : (withCore s n c).nextImage = s.nextImage := by
  unfold withCore; split <;> rfl
@[simp] theorem withCore_l2 (s : State) (n : Nat) (c : Core) : (withCore s n c).l2 = s.l2 := by
  unfold withCore; split <;> rfl
@[simp] theorem withCore_l2Age (s : State) (n : Nat) (c : Core) : (withCore s n c).l2Age = s.l2Age := by
  unfold withCore; split <;> rfl
@[simp] theorem withCore_copies (s : State) (n : Nat) (c : Core) : (withCore s n c).copies = s.copies := by
  unfold withCore; split <;> rfl
@[simp] theorem withCore_failing (s : State) (n : Nat) (c : Core) : (withCore s n c).failing = s.failing := by
  unfold withCore; split <;> rfl
@[simp] theorem withCore_columns (s : State) (n : Nat) (c : Core) : (withCore s n c).columns = s.columns := by
  unfold withCore; split <;> rfl
@[simp] theorem switchTo_agenda (s : State) (n : Nat) : (switchTo s n).agenda = s.agenda := by
  unfold switchTo; split <;> rfl
@[simp] theorem switchTo_rr (s : State) (n : Nat) : (switchTo s n).rr = s.rr := by
  unfold switchTo; split <;> rfl
@[simp] theorem switchTo_fresh (s : State) (n : Nat) : (switchTo s n).fresh = s.fresh := by
  unfold switchTo; split <;> rfl
@[simp] theorem switchTo_input (s : State) (n : Nat) : (switchTo s n).input = s.input := by
  unfold switchTo; split <;> rfl
@[simp] theorem switchTo_pick (s : State) (n : Nat) : (switchTo s n).pick = s.pick := by
  unfold switchTo; split <;> rfl
@[simp] theorem switchTo_hbm (s : State) (n : Nat) : (switchTo s n).hbm = s.hbm := by
  unfold switchTo; split <;> rfl
@[simp] theorem switchTo_sectors (s : State) (n : Nat) : (switchTo s n).sectors = s.sectors := by
  unfold switchTo; split <;> rfl
@[simp] theorem switchTo_hostMem (s : State) (n : Nat) : (switchTo s n).hostMem = s.hostMem := by
  unfold switchTo; split <;> rfl
@[simp] theorem switchTo_hostPoison (s : State) (n : Nat) : (switchTo s n).hostPoison = s.hostPoison := by
  unfold switchTo; split <;> rfl
@[simp] theorem switchTo_hostLines (s : State) (n : Nat) : (switchTo s n).hostLines = s.hostLines := by
  unfold switchTo; split <;> rfl
@[simp] theorem switchTo_blocks (s : State) (n : Nat) : (switchTo s n).blocks = s.blocks := by
  unfold switchTo; split <;> rfl
@[simp] theorem switchTo_selfTests (s : State) (n : Nat) : (switchTo s n).selfTests = s.selfTests := by
  unfold switchTo; split <;> rfl
@[simp] theorem switchTo_lasting (s : State) (n : Nat) : (switchTo s n).lasting = s.lasting := by
  unfold switchTo; split <;> rfl
@[simp] theorem switchTo_prq (s : State) (n : Nat) : (switchTo s n).prq = s.prq := by
  unfold switchTo; split <;> rfl
@[simp] theorem switchTo_pageReqs (s : State) (n : Nat) : (switchTo s n).pageReqs = s.pageReqs := by
  unfold switchTo; split <;> rfl
@[simp] theorem switchTo_frq (s : State) (n : Nat) : (switchTo s n).frq = s.frq := by
  unfold switchTo; split <;> rfl
@[simp] theorem switchTo_rq (s : State) (n : Nat) : (switchTo s n).rq = s.rq := by
  unfold switchTo; split <;> rfl
@[simp] theorem switchTo_prefetch (s : State) (n : Nat) : (switchTo s n).prefetch = s.prefetch := by
  unfold switchTo; split <;> rfl
@[simp] theorem switchTo_bringIns (s : State) (n : Nat) : (switchTo s n).bringIns = s.bringIns := by
  unfold switchTo; split <;> rfl
@[simp] theorem switchTo_swaps (s : State) (n : Nat) : (switchTo s n).swaps = s.swaps := by
  unfold switchTo; split <;> rfl
@[simp] theorem switchTo_holds (s : State) (n : Nat) : (switchTo s n).holds = s.holds := by
  unfold switchTo; split <;> rfl
@[simp] theorem switchTo_dies (s : State) (n : Nat) : (switchTo s n).dies = s.dies := by
  unfold switchTo; split <;> rfl
@[simp] theorem switchTo_takes (s : State) (n : Nat) : (switchTo s n).takes = s.takes := by
  unfold switchTo; split <;> rfl
@[simp] theorem switchTo_joins (s : State) (n : Nat) : (switchTo s n).joins = s.joins := by
  unfold switchTo; split <;> rfl
@[simp] theorem switchTo_spawns (s : State) (n : Nat) : (switchTo s n).spawns = s.spawns := by
  unfold switchTo; split <;> rfl
@[simp] theorem switchTo_loomWaits (s : State) (n : Nat) : (switchTo s n).loomWaits = s.loomWaits := by
  unfold switchTo; split <;> rfl
@[simp] theorem switchTo_groups (s : State) (n : Nat) : (switchTo s n).groups = s.groups := by
  unfold switchTo; split <;> rfl
@[simp] theorem switchTo_nextGroup (s : State) (n : Nat) : (switchTo s n).nextGroup = s.nextGroup := by
  unfold switchTo; split <;> rfl
@[simp] theorem switchTo_strait (s : State) (n : Nat) : (switchTo s n).strait = s.strait := by
  unfold switchTo; split <;> rfl
@[simp] theorem switchTo_host (s : State) (n : Nat) : (switchTo s n).host = s.host := by
  unfold switchTo; split <;> rfl
@[simp] theorem switchTo_images (s : State) (n : Nat) : (switchTo s n).images = s.images := by
  unfold switchTo; split <;> rfl
@[simp] theorem switchTo_nextImage (s : State) (n : Nat) : (switchTo s n).nextImage = s.nextImage := by
  unfold switchTo; split <;> rfl
@[simp] theorem switchTo_l2 (s : State) (n : Nat) : (switchTo s n).l2 = s.l2 := by
  unfold switchTo; split <;> rfl
@[simp] theorem switchTo_l2Age (s : State) (n : Nat) : (switchTo s n).l2Age = s.l2Age := by
  unfold switchTo; split <;> rfl
@[simp] theorem switchTo_copies (s : State) (n : Nat) : (switchTo s n).copies = s.copies := by
  unfold switchTo; split <;> rfl
@[simp] theorem switchTo_failing (s : State) (n : Nat) : (switchTo s n).failing = s.failing := by
  unfold switchTo; split <;> rfl
@[simp] theorem switchTo_columns (s : State) (n : Nat) : (switchTo s n).columns = s.columns := by
  unfold switchTo; split <;> rfl
@[simp] theorem withDie_core (s : State) (d : Nat) (x : Die) : (withDie s d x).core = s.core := rfl
@[simp] theorem withDie_cur (s : State) (d : Nat) (x : Die) : (withDie s d x).cur = s.cur := rfl
@[simp] theorem withDie_others (s : State) (d : Nat) (x : Die) : (withDie s d x).others = s.others := rfl
@[simp] theorem withDie_agenda (s : State) (d : Nat) (x : Die) : (withDie s d x).agenda = s.agenda := rfl
@[simp] theorem withDie_rr (s : State) (d : Nat) (x : Die) : (withDie s d x).rr = s.rr := rfl
@[simp] theorem withDie_fresh (s : State) (d : Nat) (x : Die) : (withDie s d x).fresh = s.fresh := rfl
@[simp] theorem withDie_input (s : State) (d : Nat) (x : Die) : (withDie s d x).input = s.input := rfl
@[simp] theorem withDie_pick (s : State) (d : Nat) (x : Die) : (withDie s d x).pick = s.pick := rfl
@[simp] theorem withDie_hbm (s : State) (d : Nat) (x : Die) : (withDie s d x).hbm = s.hbm := rfl
@[simp] theorem withDie_sectors (s : State) (d : Nat) (x : Die) : (withDie s d x).sectors = s.sectors := rfl
@[simp] theorem withDie_hostMem (s : State) (d : Nat) (x : Die) : (withDie s d x).hostMem = s.hostMem := rfl
@[simp] theorem withDie_hostPoison (s : State) (d : Nat) (x : Die) : (withDie s d x).hostPoison = s.hostPoison := rfl
@[simp] theorem withDie_hostLines (s : State) (d : Nat) (x : Die) : (withDie s d x).hostLines = s.hostLines := rfl
@[simp] theorem withDie_blocks (s : State) (d : Nat) (x : Die) : (withDie s d x).blocks = s.blocks := rfl
@[simp] theorem withDie_selfTests (s : State) (d : Nat) (x : Die) : (withDie s d x).selfTests = s.selfTests := rfl
@[simp] theorem withDie_lasting (s : State) (d : Nat) (x : Die) : (withDie s d x).lasting = s.lasting := rfl
@[simp] theorem withDie_prq (s : State) (d : Nat) (x : Die) : (withDie s d x).prq = s.prq := rfl
@[simp] theorem withDie_pageReqs (s : State) (d : Nat) (x : Die) : (withDie s d x).pageReqs = s.pageReqs := rfl
@[simp] theorem withDie_frq (s : State) (d : Nat) (x : Die) : (withDie s d x).frq = s.frq := rfl
@[simp] theorem withDie_rq (s : State) (d : Nat) (x : Die) : (withDie s d x).rq = s.rq := rfl
@[simp] theorem withDie_prefetch (s : State) (d : Nat) (x : Die) : (withDie s d x).prefetch = s.prefetch := rfl
@[simp] theorem withDie_bringIns (s : State) (d : Nat) (x : Die) : (withDie s d x).bringIns = s.bringIns := rfl
@[simp] theorem withDie_swaps (s : State) (d : Nat) (x : Die) : (withDie s d x).swaps = s.swaps := rfl
@[simp] theorem withDie_holds (s : State) (d : Nat) (x : Die) : (withDie s d x).holds = s.holds := rfl
@[simp] theorem withDie_takes (s : State) (d : Nat) (x : Die) : (withDie s d x).takes = s.takes := rfl
@[simp] theorem withDie_joins (s : State) (d : Nat) (x : Die) : (withDie s d x).joins = s.joins := rfl
@[simp] theorem withDie_spawns (s : State) (d : Nat) (x : Die) : (withDie s d x).spawns = s.spawns := rfl
@[simp] theorem withDie_loomWaits (s : State) (d : Nat) (x : Die) : (withDie s d x).loomWaits = s.loomWaits := rfl
@[simp] theorem withDie_groups (s : State) (d : Nat) (x : Die) : (withDie s d x).groups = s.groups := rfl
@[simp] theorem withDie_nextGroup (s : State) (d : Nat) (x : Die) : (withDie s d x).nextGroup = s.nextGroup := rfl
@[simp] theorem withDie_strait (s : State) (d : Nat) (x : Die) : (withDie s d x).strait = s.strait := rfl
@[simp] theorem withDie_host (s : State) (d : Nat) (x : Die) : (withDie s d x).host = s.host := rfl
@[simp] theorem withDie_images (s : State) (d : Nat) (x : Die) : (withDie s d x).images = s.images := rfl
@[simp] theorem withDie_nextImage (s : State) (d : Nat) (x : Die) : (withDie s d x).nextImage = s.nextImage := rfl
@[simp] theorem withDie_l2 (s : State) (d : Nat) (x : Die) : (withDie s d x).l2 = s.l2 := rfl
@[simp] theorem withDie_l2Age (s : State) (d : Nat) (x : Die) : (withDie s d x).l2Age = s.l2Age := rfl
@[simp] theorem withDie_copies (s : State) (d : Nat) (x : Die) : (withDie s d x).copies = s.copies := rfl
@[simp] theorem withDie_failing (s : State) (d : Nat) (x : Die) : (withDie s d x).failing = s.failing := rfl
@[simp] theorem withDie_columns (s : State) (d : Nat) (x : Die) : (withDie s d x).columns = s.columns := rfl

/-! ### Lines of the L2 slices and copies of frames -/

@[simp] theorem dropLines_core (ks : List Nat) (s : State) : (dropLines ks s).core = s.core := rfl
@[simp] theorem dropLines_cur (ks : List Nat) (s : State) : (dropLines ks s).cur = s.cur := rfl
@[simp] theorem dropLines_others (ks : List Nat) (s : State) : (dropLines ks s).others = s.others := rfl
@[simp] theorem dropLines_agenda (ks : List Nat) (s : State) : (dropLines ks s).agenda = s.agenda := rfl
@[simp] theorem dropLines_rr (ks : List Nat) (s : State) : (dropLines ks s).rr = s.rr := rfl
@[simp] theorem dropLines_fresh (ks : List Nat) (s : State) : (dropLines ks s).fresh = s.fresh := rfl
@[simp] theorem dropLines_input (ks : List Nat) (s : State) : (dropLines ks s).input = s.input := rfl
@[simp] theorem dropLines_pick (ks : List Nat) (s : State) : (dropLines ks s).pick = s.pick := rfl
@[simp] theorem dropLines_hbm (ks : List Nat) (s : State) : (dropLines ks s).hbm = s.hbm := rfl
@[simp] theorem dropLines_hostMem (ks : List Nat) (s : State) : (dropLines ks s).hostMem = s.hostMem := rfl
@[simp] theorem dropLines_hostPoison (ks : List Nat) (s : State) : (dropLines ks s).hostPoison = s.hostPoison := rfl
@[simp] theorem dropLines_hostLines (ks : List Nat) (s : State) : (dropLines ks s).hostLines = s.hostLines := rfl
@[simp] theorem dropLines_selfTests (ks : List Nat) (s : State) : (dropLines ks s).selfTests = s.selfTests := rfl
@[simp] theorem dropLines_lasting (ks : List Nat) (s : State) : (dropLines ks s).lasting = s.lasting := rfl
@[simp] theorem dropLines_prq (ks : List Nat) (s : State) : (dropLines ks s).prq = s.prq := rfl
@[simp] theorem dropLines_pageReqs (ks : List Nat) (s : State) : (dropLines ks s).pageReqs = s.pageReqs := rfl
@[simp] theorem dropLines_frq (ks : List Nat) (s : State) : (dropLines ks s).frq = s.frq := rfl
@[simp] theorem dropLines_rq (ks : List Nat) (s : State) : (dropLines ks s).rq = s.rq := rfl
@[simp] theorem dropLines_prefetch (ks : List Nat) (s : State) : (dropLines ks s).prefetch = s.prefetch := rfl
@[simp] theorem dropLines_bringIns (ks : List Nat) (s : State) : (dropLines ks s).bringIns = s.bringIns := rfl
@[simp] theorem dropLines_swaps (ks : List Nat) (s : State) : (dropLines ks s).swaps = s.swaps := rfl
@[simp] theorem dropLines_holds (ks : List Nat) (s : State) : (dropLines ks s).holds = s.holds := rfl
@[simp] theorem dropLines_takes (ks : List Nat) (s : State) : (dropLines ks s).takes = s.takes := rfl
@[simp] theorem dropLines_joins (ks : List Nat) (s : State) : (dropLines ks s).joins = s.joins := rfl
@[simp] theorem dropLines_spawns (ks : List Nat) (s : State) : (dropLines ks s).spawns = s.spawns := rfl
@[simp] theorem dropLines_loomWaits (ks : List Nat) (s : State) : (dropLines ks s).loomWaits = s.loomWaits := rfl
@[simp] theorem dropLines_groups (ks : List Nat) (s : State) : (dropLines ks s).groups = s.groups := rfl
@[simp] theorem dropLines_nextGroup (ks : List Nat) (s : State) : (dropLines ks s).nextGroup = s.nextGroup := rfl
@[simp] theorem dropLines_strait (ks : List Nat) (s : State) : (dropLines ks s).strait = s.strait := rfl
@[simp] theorem dropLines_host (ks : List Nat) (s : State) : (dropLines ks s).host = s.host := rfl
@[simp] theorem dropLines_images (ks : List Nat) (s : State) : (dropLines ks s).images = s.images := rfl
@[simp] theorem dropLines_nextImage (ks : List Nat) (s : State) : (dropLines ks s).nextImage = s.nextImage := rfl
@[simp] theorem dropLines_l2Age (ks : List Nat) (s : State) : (dropLines ks s).l2Age = s.l2Age := rfl
@[simp] theorem dropLines_copies (ks : List Nat) (s : State) : (dropLines ks s).copies = s.copies := rfl
@[simp] theorem dropLines_failing (ks : List Nat) (s : State) : (dropLines ks s).failing = s.failing := rfl
@[simp] theorem dropLines_columns (ks : List Nat) (s : State) : (dropLines ks s).columns = s.columns := rfl
@[simp] theorem dropLines_dies (ks : List Nat) (s : State) : (dropLines ks s).dies = s.dies := rfl
@[simp] theorem setCopy_core (c : FrameCopy) (s : State) : (setCopy c s).core = s.core := rfl
@[simp] theorem setCopy_cur (c : FrameCopy) (s : State) : (setCopy c s).cur = s.cur := rfl
@[simp] theorem setCopy_others (c : FrameCopy) (s : State) : (setCopy c s).others = s.others := rfl
@[simp] theorem setCopy_hbm (c : FrameCopy) (s : State) : (setCopy c s).hbm = s.hbm := rfl
@[simp] theorem setCopy_sectors (c : FrameCopy) (s : State) : (setCopy c s).sectors = s.sectors := rfl
@[simp] theorem setCopy_l2 (c : FrameCopy) (s : State) : (setCopy c s).l2 = s.l2 := rfl
@[simp] theorem setCopy_hostMem (c : FrameCopy) (s : State) : (setCopy c s).hostMem = s.hostMem := rfl
@[simp] theorem setCopy_dies (c : FrameCopy) (s : State) : (setCopy c s).dies = s.dies := rfl
@[simp] theorem setCopy_strait (c : FrameCopy) (s : State) : (setCopy c s).strait = s.strait := rfl
@[simp] theorem setCopy_host (c : FrameCopy) (s : State) : (setCopy c s).host = s.host := rfl
@[simp] theorem endCopy_core (c : FrameCopy) (s : State) : (endCopy c s).core = s.core := rfl
@[simp] theorem endCopy_cur (c : FrameCopy) (s : State) : (endCopy c s).cur = s.cur := rfl
@[simp] theorem endCopy_others (c : FrameCopy) (s : State) : (endCopy c s).others = s.others := rfl
@[simp] theorem endCopy_hbm (c : FrameCopy) (s : State) : (endCopy c s).hbm = s.hbm := rfl
@[simp] theorem endCopy_sectors (c : FrameCopy) (s : State) : (endCopy c s).sectors = s.sectors := rfl
@[simp] theorem endCopy_l2 (c : FrameCopy) (s : State) : (endCopy c s).l2 = s.l2 := rfl
@[simp] theorem endCopy_hostMem (c : FrameCopy) (s : State) : (endCopy c s).hostMem = s.hostMem := rfl
@[simp] theorem endCopy_dies (c : FrameCopy) (s : State) : (endCopy c s).dies = s.dies := rfl
@[simp] theorem endCopy_strait (c : FrameCopy) (s : State) : (endCopy c s).strait = s.strait := rfl
@[simp] theorem endCopy_host (c : FrameCopy) (s : State) : (endCopy c s).host = s.host := rfl
@[simp] theorem noteWriteHit_core (k : Nat) (s : State) : (noteWriteHit k s).core = s.core := rfl
@[simp] theorem noteWriteHit_cur (k : Nat) (s : State) : (noteWriteHit k s).cur = s.cur := rfl
@[simp] theorem noteWriteHit_others (k : Nat) (s : State) : (noteWriteHit k s).others = s.others := rfl
@[simp] theorem noteWriteHit_hbm (k : Nat) (s : State) : (noteWriteHit k s).hbm = s.hbm := rfl
@[simp] theorem noteWriteHit_sectors (k : Nat) (s : State) : (noteWriteHit k s).sectors = s.sectors := rfl
@[simp] theorem noteWriteHit_l2 (k : Nat) (s : State) : (noteWriteHit k s).l2 = s.l2 := rfl
@[simp] theorem noteWriteHit_hostMem (k : Nat) (s : State) : (noteWriteHit k s).hostMem = s.hostMem := rfl
@[simp] theorem noteWriteHit_dies (k : Nat) (s : State) : (noteWriteHit k s).dies = s.dies := rfl
@[simp] theorem noteWriteHit_strait (k : Nat) (s : State) : (noteWriteHit k s).strait = s.strait := rfl
@[simp] theorem noteWriteHit_host (k : Nat) (s : State) : (noteWriteHit k s).host = s.host := rfl

/-- A line that enters its home slice, or takes new content there, is the sector's line. -/
theorem homeLine_putLine (k : Nat) (v : BitVec 512) (c : Option Nat) (mk : Marks) (d : Bool) (s : State) : ∃ l, homeLine (putLine k v c mk d s) k = some l ∧
    l.data = v ∧ l.code = c ∧ l.marks = mk ∧ l.dirty = d ∧ l.flips = [] := by
  unfold putLine
  split
  · next l _ => exact ⟨{ l with data := v, code := c, marks := mk, dirty := d, flips := [] }, by simp [homeLine], rfl, rfl, rfl, rfl, rfl⟩
  · exact ⟨_, by simp [homeLine]; rfl, rfl, rfl, rfl, rfl, rfl⟩

/-! ### Queues and flags of a core -/

@[simp] theorem Core.queue_setQueue_same (c : Core) (q : Queue) (v : EngQueue) : (c.setQueue q v).queue q = v := by cases q <;> rfl
theorem Core.queue_setQueue_other (c : Core) {q r : Queue} (v : EngQueue) (h : r ≠ q) : (c.setQueue q v).queue r = c.queue r := by
  cases q <;> cases r <;> first | rfl | exact absurd rfl h
@[simp] theorem Core.flag_setFlag_same (c : Core) (f : Nat) (v : BitVec 32) : (c.setFlag f v).flag f = v := by simp [Core.setFlag, Core.flag]
theorem Core.flag_setFlag_other (c : Core) {f g : Nat} (v : BitVec 32) (h : g ≠ f) : (c.setFlag f v).flag g = c.flag g := by
  simp only [Core.setFlag, Core.flag]
  exact mget_mset_other _ _ _ h

@[simp] theorem Core.setQueue_run (c : Core) (q : Queue) (v : EngQueue) : (c.setQueue q v).run = c.run := by cases q <;> rfl
@[simp] theorem Core.setQueue_attrs (c : Core) (q : Queue) (v : EngQueue) : (c.setQueue q v).attrs = c.attrs := by cases q <;> rfl
@[simp] theorem Core.setQueue_sh (c : Core) (q : Queue) (v : EngQueue) : (c.setQueue q v).sh = c.sh := by cases q <;> rfl
@[simp] theorem Core.setQueue_win (c : Core) (q : Queue) (v : EngQueue) : (c.setQueue q v).win = c.win := by cases q <;> rfl
@[simp] theorem Core.setQueue_tiles (c : Core) (q : Queue) (v : EngQueue) : (c.setQueue q v).tiles = c.tiles := by cases q <;> rfl
@[simp] theorem Core.setQueue_flags (c : Core) (q : Queue) (v : EngQueue) : (c.setQueue q v).flags = c.flags := by cases q <;> rfl
@[simp] theorem Core.setQueue_wp (c : Core) (q : Queue) (v : EngQueue) : (c.setQueue q v).wp = c.wp := by cases q <;> rfl
@[simp] theorem Core.setQueue_binds (c : Core) (q : Queue) (v : EngQueue) : (c.setQueue q v).binds = c.binds := by cases q <;> rfl
@[simp] theorem Core.setQueue_vec (c : Core) (q : Queue) (v : EngQueue) : (c.setQueue q v).vec = c.vec := by cases q <;> rfl
@[simp] theorem Core.setQueue_rep (c : Core) (q : Queue) (v : EngQueue) : (c.setQueue q v).rep = c.rep := by cases q <;> rfl
@[simp] theorem Core.setQueue_mat (c : Core) (q : Queue) (v : EngQueue) : (c.setQueue q v).mat = c.mat := by cases q <;> rfl
@[simp] theorem Core.setQueue_draw (c : Core) (q : Queue) (v : EngQueue) : (c.setQueue q v).draw = c.draw := by cases q <;> rfl
@[simp] theorem Core.setQueue_outbuf (c : Core) (q : Queue) (v : EngQueue) : (c.setQueue q v).outbuf = c.outbuf := by cases q <;> rfl
@[simp] theorem Core.setQueue_ph (c : Core) (q : Queue) (v : EngQueue) : (c.setQueue q v).ph = c.ph := by cases q <;> rfl
@[simp] theorem Core.setQueue_tlb (c : Core) (q : Queue) (v : EngQueue) : (c.setQueue q v).tlb = c.tlb := by cases q <;> rfl
@[simp] theorem Core.setQueue_stlb (c : Core) (q : Queue) (v : EngQueue) : (c.setQueue q v).stlb = c.stlb := by cases q <;> rfl
@[simp] theorem Core.setQueue_l1d (c : Core) (q : Queue) (v : EngQueue) : (c.setQueue q v).l1d = c.l1d := by cases q <;> rfl
@[simp] theorem Core.setQueue_l1i (c : Core) (q : Queue) (v : EngQueue) : (c.setQueue q v).l1i = c.l1i := by cases q <;> rfl
@[simp] theorem Core.setQueue_pbc (c : Core) (q : Queue) (v : EngQueue) : (c.setQueue q v).pbc = c.pbc := by cases q <;> rfl
@[simp] theorem Core.setQueue_bmc (c : Core) (q : Queue) (v : EngQueue) : (c.setQueue q v).bmc = c.bmc := by cases q <;> rfl
@[simp] theorem Core.setQueue_sdl (c : Core) (q : Queue) (v : EngQueue) : (c.setQueue q v).sdl = c.sdl := by cases q <;> rfl
@[simp] theorem Core.setQueue_refused (c : Core) (q : Queue) (v : EngQueue) : (c.setQueue q v).refused = c.refused := by cases q <;> rfl
@[simp] theorem Core.setQueue_preempt (c : Core) (q : Queue) (v : EngQueue) : (c.setQueue q v).preempt = c.preempt := by cases q <;> rfl
@[simp] theorem Core.setQueue_saver (c : Core) (q : Queue) (v : EngQueue) : (c.setQueue q v).saver = c.saver := by cases q <;> rfl
@[simp] theorem Core.setQueue_ended (c : Core) (q : Queue) (v : EngQueue) : (c.setQueue q v).ended = c.ended := by cases q <;> rfl
@[simp] theorem Core.setFlag_run (c : Core) (k : Nat) (v : BitVec 32) : (c.setFlag k v).run = c.run := rfl
@[simp] theorem Core.setFlag_attrs (c : Core) (k : Nat) (v : BitVec 32) : (c.setFlag k v).attrs = c.attrs := rfl
@[simp] theorem Core.setFlag_sh (c : Core) (k : Nat) (v : BitVec 32) : (c.setFlag k v).sh = c.sh := rfl
@[simp] theorem Core.setFlag_win (c : Core) (k : Nat) (v : BitVec 32) : (c.setFlag k v).win = c.win := rfl
@[simp] theorem Core.setFlag_tiles (c : Core) (k : Nat) (v : BitVec 32) : (c.setFlag k v).tiles = c.tiles := rfl
@[simp] theorem Core.setFlag_wp (c : Core) (k : Nat) (v : BitVec 32) : (c.setFlag k v).wp = c.wp := rfl
@[simp] theorem Core.setFlag_binds (c : Core) (k : Nat) (v : BitVec 32) : (c.setFlag k v).binds = c.binds := rfl
@[simp] theorem Core.setFlag_vq (c : Core) (k : Nat) (v : BitVec 32) : (c.setFlag k v).vq = c.vq := rfl
@[simp] theorem Core.setFlag_mq (c : Core) (k : Nat) (v : BitVec 32) : (c.setFlag k v).mq = c.mq := rfl
@[simp] theorem Core.setFlag_lq (c : Core) (k : Nat) (v : BitVec 32) : (c.setFlag k v).lq = c.lq := rfl
@[simp] theorem Core.setFlag_sq (c : Core) (k : Nat) (v : BitVec 32) : (c.setFlag k v).sq = c.sq := rfl
@[simp] theorem Core.setFlag_gq (c : Core) (k : Nat) (v : BitVec 32) : (c.setFlag k v).gq = c.gq := rfl
@[simp] theorem Core.setFlag_vec (c : Core) (k : Nat) (v : BitVec 32) : (c.setFlag k v).vec = c.vec := rfl
@[simp] theorem Core.setFlag_rep (c : Core) (k : Nat) (v : BitVec 32) : (c.setFlag k v).rep = c.rep := rfl
@[simp] theorem Core.setFlag_mat (c : Core) (k : Nat) (v : BitVec 32) : (c.setFlag k v).mat = c.mat := rfl
@[simp] theorem Core.setFlag_draw (c : Core) (k : Nat) (v : BitVec 32) : (c.setFlag k v).draw = c.draw := rfl
@[simp] theorem Core.setFlag_outbuf (c : Core) (k : Nat) (v : BitVec 32) : (c.setFlag k v).outbuf = c.outbuf := rfl
@[simp] theorem Core.setFlag_ph (c : Core) (k : Nat) (v : BitVec 32) : (c.setFlag k v).ph = c.ph := rfl
@[simp] theorem Core.setFlag_tlb (c : Core) (k : Nat) (v : BitVec 32) : (c.setFlag k v).tlb = c.tlb := rfl
@[simp] theorem Core.setFlag_stlb (c : Core) (k : Nat) (v : BitVec 32) : (c.setFlag k v).stlb = c.stlb := rfl
@[simp] theorem Core.setFlag_l1d (c : Core) (k : Nat) (v : BitVec 32) : (c.setFlag k v).l1d = c.l1d := rfl
@[simp] theorem Core.setFlag_l1i (c : Core) (k : Nat) (v : BitVec 32) : (c.setFlag k v).l1i = c.l1i := rfl
@[simp] theorem Core.setFlag_pbc (c : Core) (k : Nat) (v : BitVec 32) : (c.setFlag k v).pbc = c.pbc := rfl
@[simp] theorem Core.setFlag_bmc (c : Core) (k : Nat) (v : BitVec 32) : (c.setFlag k v).bmc = c.bmc := rfl
@[simp] theorem Core.setFlag_sdl (c : Core) (k : Nat) (v : BitVec 32) : (c.setFlag k v).sdl = c.sdl := rfl
@[simp] theorem Core.setFlag_refused (c : Core) (k : Nat) (v : BitVec 32) : (c.setFlag k v).refused = c.refused := rfl
@[simp] theorem Core.setFlag_preempt (c : Core) (k : Nat) (v : BitVec 32) : (c.setFlag k v).preempt = c.preempt := rfl
@[simp] theorem Core.setFlag_saver (c : Core) (k : Nat) (v : BitVec 32) : (c.setFlag k v).saver = c.saver := rfl
@[simp] theorem Core.setFlag_ended (c : Core) (k : Nat) (v : BitVec 32) : (c.setFlag k v).ended = c.ended := rfl

end Sys2Proof.Machine
end

