-- ==== Sys2Proof/Laws/Lanes.lean ====
section
/-! SUPPORT. The shared operations of Shuttle lanes, in the words of the statements: sources, destinations, guards, results, addresses. -/

namespace Sys2Proof.Laws
open Sys2Proof Sys2Proof.Machine Sys2Proof.Claims

/-- A free destination does not stall (R197). -/
theorem awaitDest_free {d : BitVec 6} {s : State} (h : Free d s.core.sh) : awaitDest d s = .ok () s := by
  rcases h with rfl | h
  · simp [awaitDest]
  · simp [awaitDest, h]

/-- A readable register gives its value, x62 its oldest entry (R195, R199). -/
theorem readX_reads {t : Bool} {r : BitVec 6} {s : State} {h' : Shuttle} {v : Word} (h : Reads r s.core.sh h' v) :
    readX t r s = .ok v { s with core := { s.core with sh := h' } } := by
  rcases h with ⟨rfl, e, h1, rfl, h3⟩ | ⟨rfl, rfl, rfl⟩ | ⟨h1, h2, h3, rfl, rfl⟩
  · rw [h3]
    simp [readX, h1]
  · simp [readX, Shuttle.get]
  · have h1' : ¬ r = 62#6 := h1
    have h2' : ¬ r = 0#6 := h2
    simp [readX, Shuttle.get, h1', h2', h3]

/-- The statements' write of a register is the model's. -/
theorem put_eq (h : Shuttle) (d v) : Claims.put h d v = h.put d v := rfl

/-- The two sources of a format SA lane are read in order. -/
theorem ab_reads {f : SA} {s : State} {h1 h2 : Shuttle} {x y : Word} (ha : Reads f.a s.core.sh h1 x)
    (hb : Reads f.b h1 h2 y) : SA.ab f s = .ok (x, y) { s with core := { s.core with sh := h2 } } := by
  have h2' := readX_reads (t := f.t) (s := { s with core := { s.core with sh := h1 } }) hb
  simp [SA.ab, readX_reads ha, h2']

/-- A lane that changes the Shuttle alone. -/
theorem runM_sh {m : M Unit} {s : State} {h : Shuttle} (hm : m s = .ok () { s with core := { s.core with sh := h } }) :
    runM m s = .next (onlySh s h) := by
  rw [runM_ok hm]; rfl

/-- A fixed-latency lane of two sources. -/
theorem saResult_ok {f : SA} {op} {s : State} {h1 h2 : Shuttle} {x y : Word} (hd : Free f.d s.core.sh) (ha : Reads f.a s.core.sh h1 x)
    (hb : Reads f.b h1 h2 y) : runM (saResult f op) s = .next (onlySh s (Claims.put h2 f.d (op x y))) :=
  runM_sh (by simp [saResult, awaitDest_free hd, ab_reads ha hb, put_eq])

/-- A fixed-latency lane of one source. -/
theorem saResult1_ok {f : SA} {op} {s : State} {h1 : Shuttle} {x : Word} (hd : Free f.d s.core.sh) (ha : Reads f.a s.core.sh h1 x) :
    runM (saResult1 f op) s = .next (onlySh s (Claims.put h1 f.d (op x))) :=
  runM_sh (by simp [saResult1, awaitDest_free hd, readX_reads ha, put_eq])

/-- A fixed-latency lane of a source and an immediate. -/
theorem siResult_ok {f : SI} {op} {s : State} {h1 : Shuttle} {x : Word} (hd : Free f.d s.core.sh) (ha : Reads f.a s.core.sh h1 x) :
    runM (siResult f op) s = .next (onlySh s (Claims.put h1 f.d (op x f.value))) :=
  runM_sh (by simp [siResult, awaitDest_free hd, readX_reads ha, put_eq])

/-- A long-latency result is left outstanding. -/
theorem later_run (p : Pending) (s : State) (hp : p.fault = none) : later p s = .ok () { s with core := { s.core with sh :=
    { s.core.sh.mark p.d with pending := s.core.sh.pending ++ [{ p with bundle := s.core.sh.pc, lane := s.core.sh.lane }] } } } := by
  cases p; simp_all [later]

/-- The statements' outstanding result is the model's. -/
theorem putLater_eq (h : Shuttle) (d v) : putLater h d v = { h.mark d with pending := h.pending ++ [{ d := d, value := v, bundle := h.pc, lane := h.lane }] } := by
  unfold putLater outstanding Shuttle.mark
  split <;> simp_all

/-- A long-latency lane of two sources. -/
theorem saLater_ok {f : SA} {op} {s : State} {h1 h2 : Shuttle} {x y : Word} (hd : Free f.d s.core.sh) (ha : Reads f.a s.core.sh h1 x)
    (hb : Reads f.b h1 h2 y) : runM (saLater f op) s = .next (onlySh s (putLater h2 f.d (op x y))) :=
  runM_sh (by simp [saLater, awaitDest_free hd, ab_reads ha hb, putLater_eq, later_run])

/-- The statements' guard is the model's (R31). -/
theorem guard_eq (h : Shuttle) (p : BitVec 3) (n : Bool) : guardTrue h p n = Guard h p n := by
  unfold guardTrue Guard Shuttle.pred bit
  have : (p.toNat == 0) = (p == 0) := by
    revert p; decide
  rw [this]

/-- The statements' predicate is the model's (R209). -/
theorem pred_eq (h : Shuttle) (a : BitVec 6) : h.pred a.toNat = predicate h a := by
  unfold Shuttle.pred predicate bit
  congr 1
  revert a; decide

/-- The immediate of a format SI lane. -/
theorem value_eq (f : SI) : f.value = immediate f.imm f.lit := by
  unfold SI.value immediate Lit.value; cases f.lit <;> rfl
/-- The immediate of a format SL lane. -/
theorem valueL_eq (f : SL) : f.value = immediate f.imm f.lit := by
  unfold SL.value immediate Lit.value; cases f.lit <;> rfl

/-- A lane that faults before any effect. -/
theorem runM_fault {m : M Unit} {s s' : State} {f : FaultInfo} (hm : m s = .error (.fault f false) s')
    (h : { s' with core := s.core } = s) (he : s'.core.sh.errinj = s.core.sh.errinj) (ht : s'.core.tlb = s.core.tlb)
    (hs : s'.core.stlb = s.core.stlb) : runM m s = .next (faultOn s.cur f s) := by
  rw [runM_error hm]
  have hb : { s.core with sh := { s.core.sh with errinj := s'.core.sh.errinj }, tlb := s'.core.tlb, stlb := s'.core.stlb } = s.core := by
    rw [he, ht, hs]
  have hc : s'.cur = s.cur := by rw [← h]
  simp only [afterStop, hb, if_false, Bool.false_eq_true]
  rw [h, hc]

/-- A virtual address is no archipelago address. -/
theorem imm_lt63 {va : Word} (h : va.toNat < 2 ^ 52) : bit va 63 = false := by
  unfold bit; rw [BitVec.getLsbD, Nat.testBit_lt_two_pow]; exact lt_trans h (by norm_num)

/-- A virtual address in range passes (R103). -/
theorem checkVirtual_ok {f : FaultInfo} {va : Word} {s : State} (h : va.toNat < 2 ^ 52) : checkVirtual f va s = .ok va.toNat s := by
  unfold checkVirtual; rw [ite_run, if_neg (by omega)]; rfl

/-- An access at its home point that is free to go does not wait (R323, R325, Table 18.8). -/
theorem awaitSector_ok {f : FaultInfo} {w : Bool} {l : Loc} {s : State} (hu : Untested s l) (hw : w = true → Unheld s l) :
    awaitSector f w l s = .ok () s := by
  obtain ⟨h1, h2, h3⟩ := hu
  have hg : homeGate f l s = .ok () s := by
    simp only [homeGate, meshGate, bind_run, get_run, ite_run, h1, h2]
    rfl
  have hf : sectorFree w l s = .ok () s := by
    simp only [sectorFree, bind_run, get_run, ite_run]
    rcases h3 with h3 | h3
    · simp [h3]
    · cases hh : l.host
      · cases w
        · simp [h3]
        · have := (hw rfl).2
          simp_all
      · simp
  simp only [awaitSector, bind_run, hg, hf]

/-- A read at its home point that is free to go. -/
theorem homeRead_ok {f : FaultInfo} {l : Loc} {s t : State} {r : SecRead} (hu : Untested s l) (h : locRead true 0 l s = (r, t)) :
    homeRead f l s = .ok r t := by
  simp [homeRead, awaitSector_ok hu, h]

/-- A write at its home point that is free to go. -/
theorem homeWrite_ok {f : FaultInfo} {l : Loc} {s : State} (m v mk) (hu : Unheld s l) : homeWrite f l m v mk s = .ok () (locWrite l m v mk s) := by
  simp [homeWrite, awaitSector_ok hu.1 (fun _ => hu)]

/-- A long-latency result, in the statements' words. -/
theorem later_outstanding (p : Pending) (s : State) (hp : p.fault = none) : later p s = .ok () { s with core := { s.core with sh := outstanding s.core.sh p } } := by
  rw [later_run p s hp]; unfold outstanding Shuttle.mark; split <;> simp_all

/-- A sector without a mark delivers its value to a load. -/
theorem shDeliver_ok {d : BitVec 6} {va : Word} {r : SecRead} {v : Word} {redo : Access} {s : State} (he : r.e3 = false) (hb : bad s r.marks = false) :
    shDeliver d va r v redo s = .ok () { s with core := { s.core with sh := outstanding s.core.sh { d := d, value := v, phase := openPhase s } } } := by
  simp only [shDeliver, bind_run, get_run, he, hb, if_false, Bool.false_eq_true]
  exact later_outstanding _ _ rfl

/-- Reading a register leaves the guard. -/
theorem reads_guard {r : BitVec 6} {h h' : Shuttle} {v : Word} (hr : Reads r h h' v) (p n) : Guard h' p n = Guard h p n := by
  rcases hr with ⟨_, e, h1, _, h3⟩ | ⟨_, _, rfl⟩ | ⟨_, _, _, _, rfl⟩
  · rw [h3]; rfl
  · rfl
  · rfl

/-- The offset of a store (R19). -/
theorem offset_eq (f : SS) (n : Nat) : SS.offset f n = storeOffset f n := by
  unfold SS.offset storeOffset Lit.value; cases f.lit <;> rfl

/-- The two sources of a store are read in order. -/
theorem ss_reads {f : SS} {s : State} {h1 h2 : Shuttle} {v b : Word} (hv : Reads f.data s.core.sh h1 v) (hb : Reads f.base h1 h2 b) :
    SS.operands f s = .ok (v, b) { s with core := { s.core with sh := h2 } } := by
  have h2' := readX_reads (t := f.t) (s := { s with core := { s.core with sh := h1 } }) hb
  simp [SS.operands, readX_reads hv, h2']

/-- A near-map address that the core may access passes (R126 to R128). -/
theorem checkNear_ok {na : Word} {s : State} (h : NearOk s na) : checkNear shData na s = .ok (na.toNat / 2 ^ 20, na.toNat % 2 ^ 20) s := by
  obtain ⟨h1, h2, h3, h4⟩ := h
  unfold checkNear
  simp only [bind_run, get_run, ite_run]
  rw [if_neg, if_neg, if_neg]
  · rfl
  · simpa using h4
  · intro hc
    simp only [Bool.and_eq_true, bne_iff_ne, ne_eq, Bool.not_eq_true', Bool.and_eq_false_imp, beq_iff_eq] at hc
    rcases h3 with h3 | h3 | h3
    · exact hc.1.1 h3
    · have := hc.1.2
      simp_all
    · simp_all
  · simp only [Bool.or_eq_true, decide_eq_true_eq, beq_iff_eq, not_or]
    exact ⟨by omega, h2⟩

/-- A near-map address is no archipelago address. -/
theorem near63 {na : Word} {s : State} (h : NearOk s na) : bit na 63 = false := by
  have := h.1
  unfold bit; rw [BitVec.getLsbD, Nat.testBit_lt_two_pow]; omega

end Sys2Proof.Laws
end

