-- ==== Sys2Proof/Laws/Paging.lean ====
section
/-! SUPPORT. Reads of sound sectors, walks to a large leaf, and translations that change nothing. -/

namespace Sys2Proof.Machine

/-- The bits of a sector as its home slice serves them show no error: of its line, else of HBM. -/
def SectorSound (s : State) (sec : Nat) : Prop :=
  retiredSector s sec = false ∧ (∀ l, homeLine s sec = some l → l.flips = []) ∧
    (homeLine s sec = none → (mget {} s.sectors sec).code.isSome = true → (mget {} s.sectors sec).flipped = [])

theorem readBits_sound {s : State} {code sec : Nat} (h : SectorSound s sec) : readBits s code sec = (homeData s sec, none) := by
  obtain ⟨hr, _, hf⟩ := h
  unfold readBits homeData
  generalize mget ({} : SectorMeta) s.sectors sec = m at hf ⊢
  simp only [hr, Bool.false_eq_true, if_false]
  cases hl : homeLine s sec with
  | some l => rfl
  | none =>
    cases hc : m.code with
    | none => simp
    | some c => simp [decodeFlips, hf hl (by simp [hc])]

theorem settleLine_sound {log : Recorder} {s : State} {sec : Nat} (h : SectorSound s sec) : settleLine log sec s = (false, s) := by
  unfold settleLine
  cases hl : homeLine s sec with
  | none => rfl
  | some l => simp [h.2.1 l hl]

/-- A read of a sector with no error, under its code, delivers its bytes and marks and changes nothing. -/
theorem readSector_clean {fg : Bool} {rd : Option Nat} {src sec : Nat} {s : State} (he : SectorSound s sec) (hi : injector s sec = none)
    (hc : ∀ c k, rd = some c → homeCode s sec = some k → k = c) :
    readSector fg rd src sec s = (⟨homeData s sec, homeMarks s sec, false⟩, s) := by
  have hj : injectionOf fg s sec = none := by unfold injectionOf; cases fg <;> simp [hi]
  have hm : readMismatch s none rd sec = false := by
    unfold readMismatch readCode
    cases h : homeCode s sec with
    | none => simp
    | some c => cases rd with
      | none => simp
      | some r => simpa using (hc r c rfl h).symm
  simp [readSector, readSectorBy, settleLine_sound he, hj, hm, readBits_sound he, joinErr, spendInjection]

/-- A walk whose level 3 entry is a cached pointer and whose level 2 entry is a leaf. -/
theorem walk_big {die asn tb va e3 e2 : Nat} {s : State} (h3 : pointerEntry die asn 3 (va / 2 ^ 40) (tb + 8 * (va / 2 ^ 40)) s = (.ok e3, s))
    (l3 : pteBit e3 5 = false) (a3 : pteTable e3 < memEnd) (v3 : pteBit e3 0 = true) (b3 : badPointer e3 = false) (c3 : cacheWalk die asn 3 (va / 2 ^ 40) e3 s = s)
    (h2 : pointerEntry die asn 2 (va / 2 ^ 28) (pteTable e3 + 8 * (va / 2 ^ 28 % 4096)) s = (.ok e2, s)) (v2 : pteBit e2 0 = true)
    (l2 : pteBit e2 5 = true) : walk die asn tb va s = (checkLeaf e2 (pteTable e3 + 8 * (va / 2 ^ 28 % 4096)) true, s) := by
  have a3' : decide (memEnd ≤ pteTable e3) = false := decide_eq_false (by omega)
  simp only [walk, h3, l3, a3', v3, b3, c3, h2, v2, l2, Bool.or_self, Bool.false_eq_true, if_false, if_true, Bool.not_true]

/-- A requester without a TLB translates through a leaf that needs no update, and changes nothing. -/
theorem translate_uncached {r : Req} {va pte addr : Nat} {big : Bool} {k : Kind} {s : State} (hc : r.cached = false) (hn : r.next = none) (hva : va < 2 ^ 52)
    (hf : (coreOf s r.core).refused = []) (hw : walk r.home r.asn r.tbase va s = (.leaf pte addr big, s))
    (hp : permits pte k = true) (hh : pteBit pte 56 = false) (ha : pteBit pte 6 = true) (hd : k.writes = true → pteBit pte 7 = true) :
    translate r va k s = .ok (leafLoc pte big va) s := by
  have ht : tlbFind s.core r va = none := by simp [tlbFind, hc]
  have hk : (k.writes && !pteBit pte 7) = false := by
    cases h : k.writes with
    | false => rfl
    | true => simp [hd h]
  have hu : ∀ c : Core, tlbAdd r va pte addr big (tlbDrop r va c) = c := fun c => by simp [tlbAdd, tlbDrop, hc]
  have hl : useLeaf r va k pte addr big s = .ok (leafLoc pte big va) s := by
    simp [useLeaf, hh, ha, hk, hu]
  have hv : ¬ 4503599627370496 ≤ va := by omega
  simp [translate, tryTranslate, tryTranslate.fresh, walkAhead, hn, hv, hf, ht, hw, hp, hl]

/-- A list of operations each of which succeeds and changes nothing. -/
theorem mapM_ok {α β : Type} {f : α → M β} {g : α → β} {s : State} : ∀ l : List α, (∀ a ∈ l, f a s = .ok (g a) s) → l.mapM f s = .ok (l.map g) s
  | [], _ => by simp
  | a :: l, h => by
    have ih := mapM_ok l (fun b hb => h b (List.mem_cons_of_mem a hb))
    simp [h a (List.mem_cons_self ..), ih]

/-- Reads of a list of places each of which changes nothing. -/
theorem foldl_locRead {g : Loc → SecRead} {s : State} : ∀ (l : List Loc) (acc : List SecRead), (∀ x ∈ l, locRead true 0 x s = (g x, s)) →
    l.foldl (fun (acc : List SecRead × State) x => ((locRead true 0 x acc.2).1 :: acc.1, (locRead true 0 x acc.2).2)) (acc, s) =
      ((l.map g).reverse ++ acc, s)
  | [], _, _ => rfl
  | x :: l, acc, h => by
    have ih := foldl_locRead l (g x :: acc) (fun y hy => h y (List.mem_cons_of_mem x hy))
    simp only [List.foldl_cons, h x (List.mem_cons_self ..), ih, List.map_cons, List.reverse_cons, List.append_assoc, List.singleton_append]

end Sys2Proof.Machine
end

