-- ==== Sys2Proof/Tests/Slice0.lean ====
section
/-! SUPPORT. Tests of the model on small cases, and for the statements with hypotheses the states that meet them. -/

namespace Sys2Proof.Tests
open Sys2Proof Sys2Proof.Machine Sys2Proof.Claims

set_option Elab.async false

/-! ### Helpers -/

/-- What a test asks of the result of an operation. -/
def okAnd {α : Type} (r : EStateM.Result Stop State α) (p : α → State → Bool) : Bool :=
  match r with
  | .ok a s => p a s
  | .error _ _ => false

theorem ok_of {α : Type} {r : EStateM.Result Stop State α} {p : α → State → Bool} (h : okAnd r p = true) :
    ∃ a s, r = .ok a s ∧ p a s = true := by
  cases r with
  | ok a s => exact ⟨a, s, rfl, h⟩
  | error => cases h

/-- What a test asks of a next state. -/
def nextAnd (o : Host.Outcome State Fault Refusal) (p : State → Bool) : Bool :=
  match o with
  | .next s => p s
  | _ => false

theorem next_of {o : Host.Outcome State Fault Refusal} {p : State → Bool} (h : nextAnd o p = true) :
    ∃ s, o = .next s ∧ p s = true := by
  cases o with
  | next s => exact ⟨s, rfl, h⟩
  | fault => cases h
  | refused => cases h

/-- A running core 0 with every right, whose first 256 MiB are mapped at their own addresses, and some registers: x3 an address, x4 and x5
numbers, x6 −2, x7 the most negative number, two entries in the reply queue; x9 is EMPTY. -/
def base : State :=
  let s := placedTables (switchTo State.reset 0)
  { s with core := { s.core with
      run := .running, attrs := placedAttrs
      sh := { s.core.sh with
        x := [(3, 0x20040), (4, 7), (5, 5), (6, -2), (7, 0x8000000000000000), (8, 0x20040), (9, 1)], empty := 0x200, p := 0x05, pc := 0x20000
        lane := 2, replies := [{ src := 1, value := 10 }, { src := 1, value := 11 }] } } }

/-- The base state with its Shuttle changed. -/
def withSh (f : Shuttle → Shuttle) : State := { base with core := { base.core with sh := f base.core.sh } }

/-- How a lane or command ended. -/
def endedBy (o : Host.Outcome State Fault Refusal) (e : Ended) : Bool := nextAnd o (fun s => s.core.ended == e)

/-- A lane completed and left this value in a register. -/
def leaves (i : Instr) (s : State) (d : Nat) (v : Word) : Bool :=
  nextAnd (exec i s) (fun t => t.core.ended == .done && mget 0 t.core.sh.x d == v)

/-- A long-latency lane left this value outstanding for its register. -/
def leavesLater (i : Instr) (s : State) (v : Word) : Bool :=
  nextAnd (exec i s) (fun t => t.core.ended == .done && t.core.sh.pending.map (·.value) == [v])

/-! ### Integer, float and branch lanes -/

/-- Registers that the premises of the Shuttle's statements read: a full one, x0, and x62 twice. -/
theorem witness_reads :
    Reads 4 base.core.sh base.core.sh 7 ∧ Reads 0 base.core.sh base.core.sh 0 ∧
    (∃ h1 h2, Reads 62 base.core.sh h1 10 ∧ Reads 62 h1 h2 11) ∧ Free 5 base.core.sh ∧ Free 0 base.core.sh := by
  refine ⟨.inr (.inr (by decide +kernel)), .inr (.inl (by decide)), ⟨{ base.core.sh with replies := [{ src := 1, value := 11 }] }, { base.core.sh with replies := [] },
      .inl ⟨rfl, { src := 1, value := 10 }, rfl, rfl, rfl⟩, .inl ⟨rfl, { src := 1, value := 11 }, rfl, rfl, rfl⟩⟩,
    .inr (by decide +kernel), .inl rfl⟩

/-- IntegerArithmetic, FloatResults: a lane with a free destination and two readable sources, one of them its destination. -/
theorem witness_IntegerArithmetic : Free 5 base.core.sh ∧ Reads 4 base.core.sh base.core.sh 7 ∧ Reads 5 base.core.sh base.core.sh 5 :=
  ⟨.inr (by decide +kernel), .inr (.inr (by decide +kernel)), .inr (.inr (by decide +kernel))⟩

theorem witness_FloatResults : Free 5 base.core.sh ∧ Reads 5 base.core.sh base.core.sh 5 ∧ Reads 4 base.core.sh base.core.sh 7 ∧
    Reads 6 base.core.sh base.core.sh (-2) :=
  ⟨.inr (by decide +kernel), .inr (.inr (by decide +kernel)), .inr (.inr (by decide +kernel)), .inr (.inr (by decide +kernel))⟩

/-- ImmediateAndPredicateLanes: the premises of its lanes, and a field that decode refuses, on both sides of the range. -/
theorem witness_ImmediateAndPredicateLanes : Free 5 base.core.sh ∧ Reads 4 base.core.sh base.core.sh 7 ∧
    (Instr.ceq ⟨0, 3, 4, false, 0, false, false⟩).guardOk = true ∧ (Instr.ceqi ⟨8, 3, 1, .none⟩).guardOk = true ∧
    decodeLane .shuttle (encodeWord (.ceq ⟨0, 3, 4, false, 0, false, false⟩)) .none = .error .illegalOp ∧
    decodeLane .shuttle (encodeWord (.ceqi ⟨8, 3, 1, .none⟩)) .none = .error .illegalOp :=
  ⟨.inr (by decide +kernel), .inr (.inr (by decide +kernel)), by decide +kernel⟩

/-- BranchesAndJumps: a true and a false guard, an aligned and a misaligned target, a counter that is EMPTY, fields that decode refuses. -/
theorem witness_BranchesAndJumps :
    Guard base.core.sh 2 false = true ∧ Guard base.core.sh 1 false = false ∧ Free 63 base.core.sh ∧
    Reads 8 base.core.sh base.core.sh 0x20040 ∧ (0x20040 : Word).toNat % 32 = 0 ∧ Reads 5 base.core.sh base.core.sh 5 ∧
    (5 : Word).toNat % 32 ≠ 0 ∧ Reads 63 base.core.sh base.core.sh 0 ∧ bit base.core.sh.empty (9 : BitVec 6).toNat = true ∧ base.core.sh.pending = [] ∧
    decodeLane .shuttle (encodeWord (.loop ⟨0, 3, .none⟩)) .none = .error .illegalOp ∧
    decodeLane .shuttle (encodeWord (.loop ⟨5, 0, .one 8⟩)) (.one 8) = .error .illegalOp :=
  ⟨by decide +kernel, by decide +kernel, .inr (by decide +kernel), .inr (.inr (by decide +kernel)), by decide, .inr (.inr (by decide +kernel)),
    by decide, .inr (.inr (by decide +kernel)), by decide +kernel, by decide +kernel, by decide +kernel, by decide +kernel⟩

/-! Results that R203 to R209, R214 give: wrap-around, signs, the borderline cases of division. -/

def sa (d a b : BitVec 6) (w : Bool := false) : SA := ⟨d, a, b, false, 0, false, w⟩
def si (d a : BitVec 6) (imm : BitVec 12) : SI := ⟨d, a, imm, .none⟩

theorem test_add32 : leaves (.add (sa 5 7 6 true)) base 5 (-2) = true := by decide +kernel
theorem test_sub : leaves (.sub (sa 5 5 4)) base 5 (-2) = true := by decide +kernel
theorem test_mulh : leaves (.mulh (sa 5 7 6)) base 5 1 = true := by decide +kernel
theorem test_shl_masks : leaves (.shl (sa 5 4 6)) base 5 0xC000000000000000 = true := by decide +kernel
theorem test_sar : leaves (.sar (sa 5 7 4)) base 5 0xFF00000000000000 = true := by decide +kernel
theorem test_shr32 : leaves (.shr (sa 5 6 5 true)) base 5 0x07FFFFFF = true := by decide +kernel
theorem test_min_signed : leaves (.min (sa 5 4 6)) base 5 (-2) = true := by decide +kernel
theorem test_clz32 : leaves (.clz (sa 5 4 0 true)) base 5 29 = true := by decide +kernel
theorem test_popc : leaves (.popc (sa 5 6 0)) base 5 63 = true := by decide +kernel
theorem test_sel_false : leaves (.sel ⟨5, 4, 6, false, 1, false, false⟩) base 5 (-2) = true := by decide +kernel
theorem test_div_rounds : leavesLater (.div (sa 5 6 5)) base 0 = true := by decide +kernel
theorem test_div_by_zero : leavesLater (.divu (sa 5 4 0)) base (-1) = true := by decide +kernel
theorem test_div_overflow : leavesLater (.div (sa 5 7 1)) (withSh (fun h => { h with x := mset 0 h.x 1 (-1) })) 0x8000000000000000 = true := by
  decide +kernel
theorem test_rem_sign : leavesLater (.rem (sa 5 6 5)) base (-2) = true := by decide +kernel
theorem test_addi_negative : leaves (.addi (si 5 4 0xFFF)) base 5 6 = true := by decide +kernel
theorem test_ori_same_register : leaves (.ori (si 4 4 8)) base 4 15 = true := by decide +kernel
theorem test_li_one_literal : leaves (.li ⟨5, 0, .one 0x80000000⟩) base 5 0xFFFFFFFF80000000 = true := by decide +kernel
theorem test_clt_signed : nextAnd (exec (.clt (sa 3 6 4)) base) (fun t => t.core.sh.p == 0x0D) = true := by decide +kernel
theorem test_cltu : nextAnd (exec (.cltu (sa 3 6 4)) base) (fun t => t.core.sh.p == 0x05) = true := by decide +kernel
theorem test_pxor : nextAnd (exec (.pxor (sa 2 2 0)) base) (fun t => t.core.sh.p == 0x01) = true := by decide +kernel
theorem test_reply_queue_pops_in_order : leaves (.sub (sa 5 62 62)) base 5 (-1) = true := by decide +kernel
theorem test_loop_wraps : nextAnd (exec (.loop ⟨1, 2, .none⟩) base)
    (fun t => mget 0 t.core.sh.x 1 == -1 && t.core.sh.target == some 0x20040) = true := by decide +kernel
theorem test_call_links : nextAnd (exec (.call ⟨0, false, 0xFFFFF⟩) base)
    (fun t => mget 0 t.core.sh.x 63 == 0x20020 && t.core.sh.target == some 0x1FFE0) = true := by decide +kernel
theorem test_empty_source_waits : endedBy (exec (.add (sa 5 9 4)) base) (.stalled .emptyRegister) = true := by decide +kernel
theorem test_empty_source_traps : endedBy (exec (.add ⟨5, 9, 4, true, 0, false, false⟩) base) (.faulted .emptyTrap) = true := by decide +kernel
theorem test_fkey_order : leaves (.fkey (sa 5 3 0)) (withSh (fun h => { h with x := mset 0 h.x 3 0xBF800000 })) 5 0x407FFFFF = true := by decide +kernel

/-! ### Memory lanes -/

/-- A state with a line of the L1 data cache at 0x20040. -/
def lined : State := { base with core := { base.core with l1d := [⟨0x20040 / 64, 0x1122334455667788, {}⟩] } }

/-- The access at an address maps, at a place for which p holds. -/
def mapsAnd (s : State) (va : Word) (k : Kind) (p : Loc → State → Bool) : Bool := okAnd (translate (coreReq s shData) va.toNat k s) p

/-- A sector that shows no error, in HBM or in a line of it. -/
def soundAt (s : State) (n : Nat) : Bool :=
  decide ((mget {} s.sectors n).flipped = []) && !retiredSector s n && (injector s n).isNone && (match homeLine s n with
    | some l => decide (l.flips = [] ∧ l.data = sectorData s n ∧ l.marks = (mget {} s.sectors n).marks ∧ l.code = (mget {} s.sectors n).code)
    | none => true)

theorem sound_of {s : State} {n : Nat} (h : soundAt s n = true) : Sound s n := by
  simp only [soundAt, Bool.and_eq_true, decide_eq_true_eq, Bool.not_eq_true', Option.isNone_iff_eq_none] at h
  refine ⟨h.1.1.1, h.1.1.2, h.1.2, fun l hl => ?_⟩
  have := h.2
  rw [hl] at this
  exact of_decide_eq_true this

/-- An access that is free to go; with `w` a write. -/
def goes (w : Bool) (s : State) (l : Loc) : Bool :=
  !trafficHeld s.strait s.cur && coreReaches s.strait s.cur (if l.host then l.addr / 2 ^ 52 else homeDie l.addr) (192 + slicePort (l.addr / 64))
    && (l.host || (!rowTested s (l.addr / 64) && !(w && copyHolds s (l.addr / 64))))

theorem untested_of {w : Bool} {s : State} {l : Loc} (h : goes w s l = true) : Untested s l := by
  simp only [goes, Bool.and_eq_true, Bool.not_eq_true', Bool.or_eq_true] at h
  exact ⟨h.1.1, h.1.2, h.2.imp id (·.1)⟩

theorem unheld_of {s : State} {l : Loc} (h : goes true s l = true) : Unheld s l := by
  refine ⟨untested_of h, ?_⟩
  simp only [goes, Bool.and_eq_true, Bool.not_eq_true', Bool.or_eq_true, Bool.true_and] at h
  exact h.2.imp id (·.2)

theorem maps_of {s : State} {va : Word} {k : Kind} {p : Loc → State → Bool} (h : mapsAnd s va k p = true) :
    ∃ l s1, Maps s va k l s1 ∧ p l s1 = true := ok_of h

/-- LoadsAndStores: an aligned load of a mapped address, once with its line in the L1 data cache and once without. -/
theorem witness_LoadsAndStores_load :
    Free 5 base.core.sh ∧ Reads 3 base.core.sh base.core.sh 0x20040 ∧ (0x20040 : Word).toNat % 8 = 0 ∧ (0x20040 : Word).toNat < 2 ^ 52 ∧
    (∃ l s1, Maps lined 0x20040 .read l s1 ∧ (match l1Find s1.core l with | some x => !bad s1 x.marks | none => false) = true) ∧
    (∃ l s1, Maps base 0x20040 .read l s1 ∧ (let r := locRead true 0 l s1
      (l1Find s1.core l).isNone && goes false s1 l && !r.1.e3 && !bad r.2 r.1.marks) = true) :=
  ⟨.inr (by decide +kernel), .inr (.inr (by decide +kernel)), by decide, by decide, maps_of (by decide +kernel), maps_of (by decide +kernel)⟩

/-- LoadsAndStores: a store with a true guard at a mapped address, and one with a false guard. -/
theorem witness_LoadsAndStores_store :
    Reads 4 base.core.sh base.core.sh 7 ∧ Reads 3 base.core.sh base.core.sh 0x20040 ∧ Guard base.core.sh 0 false = true ∧
    Guard base.core.sh 1 false = false ∧ (0x20040 : Word).toNat % 8 = 0 ∧ (0x20040 : Word).toNat < 2 ^ 52 ∧
    ∃ l s1, Maps base 0x20040 .write l s1 ∧ goes true s1 l = true :=
  ⟨.inr (.inr (by decide +kernel)), .inr (.inr (by decide +kernel)), by decide +kernel, by decide +kernel, by decide, by decide,
    maps_of (by decide +kernel)⟩

theorem agrees_of {s : State} {n c : Nat} (h : (match homeCode s n with | some k => k == c | none => true) = true) :
    Agrees s n c := by
  intro k hk
  rw [hk] at h
  simpa using h

/-- SectorWriteThenRead: an unwritten sector and the last byte of a sector written under code 0. -/
theorem witness_SectorWriteThenRead :
    (Sound base (0x30000 / 64) ∧ Agrees base (0x30000 / 64) 3 ∧ 0x30000 % 64 + 8 ≤ 64 ∧ 8 ≤ 8) ∧
    (Sound base (0x1003F / 64) ∧ Agrees base (0x1003F / 64) 16 ∧ 0x1003F % 64 + 1 ≤ 64 ∧ 1 ≤ 8) :=
  ⟨⟨sound_of (by decide +kernel), agrees_of (by decide +kernel), by decide, by decide⟩,
    sound_of (by decide +kernel), agrees_of (by decide +kernel), by decide, by decide⟩

/-- NearMapAndPrefetch: the core's own scratchpad at its first word; a base register; a block of one sector. -/
theorem witness_NearMapAndPrefetch :
    NearOk base 0 ∧ (0 : Word).toNat % 8 = 0 ∧ bad base (base.core.nearRead 0).2 = false ∧ Reads 0 base.core.sh base.core.sh 0 ∧
    Reads 3 base.core.sh base.core.sh 0x20040 ∧ Reads 4 base.core.sh base.core.sh 7 ∧
    (∃ l s1, Maps base 0x20040 .read l s1 ∧ (!l.host && l.addr % 64 == 0 && goes false s1 l && soundAt s1 (l.addr / 64) && (homeCode s1 (l.addr / 64)).isNone) = true) ∧
    (let c : Word := 0x801; c.toNat < 2 ^ 13 ∧ c.toNat / 128 % 2 = 0 ∧ 1 ≤ c.toNat % 128 ∧ c.toNat % 128 ≤ 64 ∧ 8 ≤ c.toNat / 256) :=
  ⟨by refine ⟨?_, ?_, .inl ?_, ?_⟩ <;> decide +kernel, by decide, by decide +kernel, .inr (.inl (by decide)), .inr (.inr (by decide +kernel)),
    .inr (.inr (by decide +kernel)), maps_of (by decide +kernel), by decide⟩

/-- NearMapAndPrefetch: a page that the TLB maps, for the line that PREF leaves. -/
theorem witness_NearMapAndPrefetch_hit :
    ∃ l s1, Maps base 0x20040 .read l s1 ∧ (match tlbFind s1.core (coreReq s1 shData) 0x20040 with
      | some e => let m := leafLoc e.pte.toNat e.big 0x20040
        permits e.pte.toNat .read && !m.host && goes false s1 m
      | none => false) = true := maps_of (by decide +kernel)

/-- AtomicResults: an aligned, mapped and unmarked place, with a true and with a false guard. -/
theorem witness_AtomicResults :
    Free 5 base.core.sh ∧ Reads 3 base.core.sh base.core.sh 0x20040 ∧ Reads 4 base.core.sh base.core.sh 7 ∧ Reads 5 base.core.sh base.core.sh 5 ∧
    Guard base.core.sh 0 false = true ∧ Guard base.core.sh 1 false = false ∧ (0x20040 : Word).toNat % 8 = 0 ∧
    ∃ l s1, Maps base 0x20040 .atomic l s1 ∧ (let r := locRead true 0 l { s1 with core := l1Drop l s1.core }
      goes true s1 l && !r.1.e3 && !bad r.2 r.1.marks) = true :=
  ⟨.inr (by decide +kernel), .inr (.inr (by decide +kernel)), .inr (.inr (by decide +kernel)), .inr (.inr (by decide +kernel)),
    by decide +kernel, by decide +kernel, by decide, maps_of (by decide +kernel)⟩

def ss (data base : BitVec 6) (off : BitVec 7) : SS := ⟨data, base, off, 0, false, false, .none⟩

theorem test_std_bytes : nextAnd (exec (.std (ss 6 3 1)) base) (fun t => t.hbm.readN 0x20048 8 == [0xFE, 255, 255, 255, 255, 255, 255, 255] &&
    t.hbm.read 0x20047 == 0 && t.hbm.read 0x20050 == 0) = true := by decide +kernel
theorem test_stb_negative_offset : nextAnd (exec (.stb (ss 4 3 0x7F)) base) (fun t => t.hbm.readN 0x2003E 3 == [0, 7, 0]) = true := by decide +kernel
theorem test_ldb_sign : leaves (.ldb (si 5 3 0)) lined 5 0xFFFFFFFFFFFFFF88 = true := by decide +kernel
theorem test_ldhu : leaves (.ldhu (si 5 3 6)) lined 5 0x1122 = true := by decide +kernel
theorem test_ldw_misaligned : endedBy (exec (.ldw (si 5 3 2)) lined) (.faulted .misaligned) = true := by decide +kernel
theorem test_aadd32 : nextAnd (exec (.aadd (sa 5 3 6 true)) base) (fun t => t.hbm.readN 0x20040 8 == [0xFE, 255, 255, 255, 0, 0, 0, 0]) = true := by
  decide +kernel
theorem test_acas_keeps : nextAnd (exec (.acas (sa 5 3 4)) base) (fun t => t.hbm.readN 0x20040 8 == [0, 0, 0, 0, 0, 0, 0, 0] &&
    t.core.sh.pending.map (·.value) == [0]) = true := by decide +kernel
theorem test_stn_scratchpad : nextAnd (exec (.stn (ss 4 0 1)) base) (fun t => t.core.win.read 8 == 7 && t.core.win.read 0 == 0) = true := by
  decide +kernel

/-! ### Consistency, flags, system registers, translation, phases, handler -/

/-- Base with operands of BIND in x10 to x13: an object, an archipelago object, a region, its length with binding 31 and scope 4. -/
def bindState : State := withSh (fun h => { h with x := h.x ++ [(10, 0x20040), (11, 0x8000000000020040), (12, 0xFFFFFFFFFFFC0), (13, 0x40009F)] })

theorem witness_Bindings :
    Reads 10 bindState.core.sh bindState.core.sh 0x20040 ∧ Reads 12 bindState.core.sh bindState.core.sh 0xFFFFFFFFFFFC0 ∧
    Reads 13 bindState.core.sh bindState.core.sh 0x40009F ∧ Reads 11 bindState.core.sh bindState.core.sh 0x8000000000020040 ∧
    (let c : Word := 0x40009F; let b : Word := 0xFFFFFFFFFFFC0; let len := c.toNat / 2 ^ 16
      c.toNat / 256 % 256 = 0 ∧ c.toNat / 32 % 8 ≤ 4 ∧ len ≠ 0 ∧ len % 64 = 0 ∧ b.toNat % 64 = 0 ∧ b.toNat + len ≤ 2 ^ 52) ∧
    (0x20040 : Word).toNat % 4 = 0 ∧ (0x20040 : Word).toNat < 2 ^ 52 ∧
    (0x8000000000020040 : Word).toNat / 2 ^ 63 = 1 ∧ (0x8000000000020040 : Word).toNat / 2 ^ 39 % 2 ^ 14 = 0 ∧
    ({ len := 64 } : Binding).len ≠ 0 := by
  refine ⟨.inr (.inr ?_), .inr (.inr ?_), .inr (.inr ?_), .inr (.inr ?_), ?_⟩ <;> decide +kernel

/-- The object at the address can be acquired or released: its place is unmarked and its row is under no test. -/
def objectAt (s : State) (va : Word) (k : Kind) (n c : Nat) (up : Bool) : Bool := okAnd (translate (coreReq s shData) va.toNat k s) (fun l s1 =>
  let r := locRead true 0 l (if k == .atomic then { s1 with core := l1Drop l s1.core } else s1)
  let v := (r.1.data.extractLsb' (8 * (va.toNat % 64)) (8 * n)).toNat
  !rowTested s1 (l.addr / 64) && !r.1.e3 && !bad r.2 r.1.marks &&
    (decide (0 ≤ signedOf n (v + (2 ^ (8 * n) - c % 2 ^ (8 * n)))) == up))

/-- AcquireAndRelease: an object that has reached its comparand 0, one that has not reached 7, and one to release, with no log entry of
a binding; ACQ.ALL and REL.ALL with no object and with one. -/
theorem witness_AcquireAndRelease :
    Free 5 base.core.sh ∧ Reads 3 base.core.sh base.core.sh 0x20040 ∧ Reads 4 base.core.sh base.core.sh 7 ∧ Reads 0 base.core.sh base.core.sh 0 ∧
    (0x20040 : Word).toNat % 8 = 0 ∧ objectAt base 0x20040 .read 8 0 true = true ∧ objectAt base 0x20040 .read 8 7 false = true ∧
    objectAt base 0x20040 .atomic 8 0 true = true ∧ loggedIn base.core (bindsTo base.core 0x20040) = false ∧ base.core.sdl = [] ∧
    unacked base base.cur (· == 1) = false ∧ bit (0x008 : BitVec 12) 3 = true := by
  refine ⟨.inr ?_, .inr (.inr ?_), .inr (.inr ?_), .inr (.inl ?_), ?_⟩ <;> decide +kernel

/-- A marker at each head, as the join of an MFENCE of all queues finds them. -/
def joinState : State :=
  let v : EngQueue := { entries := [.fence] }
  { base with core := { base.core with vq := v, mq := v, lq := v, sq := v, gq := v, sh := { base.core.sh with fence := .waiting 0x1F } } }

/-- FencesAndFlags: an MFENCE with room, one that has joined, a join; a flag of this core and of another by its window. -/
theorem witness_FencesAndFlags :
    base.core.ph.openId = none ∧ base.core.sh.fence = .none ∧ (∀ q ∈ maskQueues 0x1F, (base.core.queue q).used < depthOf q) ∧
    (withSh (fun h => { h with fence := .joined })).core.sh.fence = .joined ∧
    joinState.input.core = joinState.cur ∧ joinState.core.sh.fence = .waiting 0x1F ∧
    (∀ q ∈ maskQueues 0x1F, (joinState.core.queue q).entries.head? = some .fence ∧ (q = .matrix → joinState.core.mat.nest = none) ∧
      joinState.core.sdl.all (fun e => e.engine != (if q == .ferryLoad then 5 else engineOf q)) = true) ∧
    Reads 0 base.core.sh base.core.sh 0 ∧ Reads 4 base.core.sh base.core.sh 7 ∧ 8 ≤ (31 : BitVec 6).toNat ∧ (31 : BitVec 6).toNat ≤ 31 ∧
    (0x100000 : Word).toNat % 2 ^ 20 = 0 ∧ Free 5 base.core.sh ∧
    decodeLane .shuttle (encodeWord (.flagr ⟨5, 1, 2, .none⟩)) .none = .error .illegalOp ∧
    decodeLane .shuttle (encodeWord (.flagr ⟨5, 0, 32, .none⟩)) .none = .error .illegalOp := by
  refine ⟨?_, ?_, ?_, ?_, ?_, ?_, ?_, .inr (.inl ?_), .inr (.inr ?_), ?_, ?_, ?_, .inr ?_, ?_⟩ <;> decide +kernel

/-- FencesAndFlags: core 1 of the same launch, whose flag the window at 1 MiB reaches. -/
theorem witness_FencesAndFlags_window :
    NearOk (withCore base 1 { run := .haltedDone, attrs := { launch := 1 } }) 0x100000 := by
  refine ⟨?_, ?_, .inr (.inl ?_), ?_⟩ <;> decide +kernel

/-- SystemRegisters: room in the vector queue, entries of SRD and SWR at its head, a pending result for the first, the INJECT right. -/
theorem witness_SystemRegisters :
    Free 5 base.core.sh ∧ VectorRoom base.core ∧ Reads 4 base.core.sh base.core.sh 7 ∧ bit base.core.attrs.rights 5 = true ∧
    (3 : Word).toNat / 2 ^ 52 = 0 ∧ (3 : Word).toNat % 64 < 4 ∧ base.core.ph.exec = none ∧
    (∃ p : Pending, p = { d := 5, ready := false, ticket := 9 } ∧ p.ticket = 9 ∧ p.ready = false ∧ p.redo = none) := by
  refine ⟨.inr ?_, ⟨?_, ?_⟩, .inr (.inr ?_), ?_, ?_, ?_, ?_, ⟨_, rfl, rfl, rfl, rfl⟩⟩ <;> try decide +kernel

theorem wf_of {α : Type} [DecidableEq α] {d : α} {m : SMap α} (h : (decide ((m.map (·.1)).Pairwise (· < ·)) && m.all (fun e => e.2 != d)) = true) : mwf d m := by
  simpa [mwf, List.pairwise_map] using h

/-- TranslationInvalidation: a range at the end of the address space and an empty range; the right; canonical stores. -/
theorem witness_TranslationInvalidation :
    mwf {} base.others ∧ mwf {} base.dies ∧ bit base.core.attrs.rights 0 = true ∧ Free 5 base.core.sh ∧ Reads 0 base.core.sh base.core.sh 0 ∧
    (0xFFFFFFFFF0000 : Word).toNat % 65536 = 0 ∧ (0xFFFFFFFFF0000 : Word).toNat + (1 : Word).toNat * 65536 ≤ 2 ^ 52 ∧
    (0xFFFFFFFFF0000 : Word).toNat < 2 ^ 52 := by
  have h1 : base.others = [] := by decide +kernel
  refine ⟨by simp [h1, mwf], wf_of (by decide +kernel), ?_, .inr ?_, .inr (.inl ?_), ?_⟩ <;> decide +kernel

/-- Inside phase 0, and with phase 0 closed. -/
def openPhase : State := { base with core := { base.core with ph := { next := 1, openId := some 0 } } }
def closedPhase : State := { base with core := { base.core with ph := { next := 1, closed := [(0, 9)] } } }

/-- Phases, of the Shuttle's instructions: outside a phase, inside one, and with a closed phase to abandon. -/
theorem witness_Phases_instructions :
    ¬LateFault base.core ∧ base.core.ph.openId = none ∧ (∀ q, (base.core.queue q).markers < 4) ∧ openPhase.core.ph.openId = some 0 ∧
    (∀ q, (openPhase.core.queue q).markers < 4) ∧ Free 5 closedPhase.core.sh ∧ closedPhase.core.ph.openId = none ∧
    closedPhase.core.ph.closed = [] ++ [(0, 9)] ∧ base.core.ph.closed = [] := by
  refine ⟨?_, by decide +kernel, by intro q; cases q <;> decide +kernel, by decide +kernel, by intro q; cases q <;> decide +kernel,
    .inr (by decide +kernel), by decide +kernel, by decide +kernel, by decide +kernel⟩
  have h : base.core.sh.pending = [] := by decide +kernel
  simp [LateFault, h]

/-- A launch record of one core with nothing to set. -/
def smallRecord : Record := ⟨0, 0, 0, 0, 1, 1, false, 0, 0, 0, 0, 0, 0, 0, 0, 0, [], [], []⟩

/-- The launch of core 0. -/
def launchOne : Launch := ⟨1, smallRecord, none, true, [(0, none)]⟩

/-- In the handler, with a held store queue. -/
def inHandlerState : State :=
  { base with
    core := { base.core with sh := { base.core.sh with hmode := true, epc := 0x20043 }, sq := { entries := [.fence], held := true } }
    host := { base.host with launches := [launchOne] } }

/-- FaultsAndTheHandler, of RTE: inside and outside the handler, a held queue whose head holds no grant. -/
theorem witness_FaultsAndTheHandler_return :
    base.core.sh.hmode = false ∧ inHandlerState.core.sh.hmode = true ∧ (inHandlerState.core.queue .ferryStore).held = true ∧
    (∀ q, (inHandlerState.core.queue q).held = true → grantsOf inHandlerState.core q = []) ∧
    (∃ l ∈ inHandlerState.host.launches, l.number = inHandlerState.core.attrs.launch ∧ l.leaves = [(inHandlerState.cur, none)]) := by
  refine ⟨by decide +kernel, by decide +kernel, by decide +kernel, by intro q; cases q <;> decide +kernel, ?_⟩
  exact ⟨launchOne, List.mem_singleton.2 rfl, by decide +kernel, by decide +kernel⟩

theorem test_acq_waits : endedBy (exec (.acq (sa 5 3 4)) base) (.stalled .condition) = true := by decide +kernel
theorem test_rel_adds : nextAnd (exec (.rel (sa 5 3 4)) base) (fun t => t.hbm.read 0x20040 == 7 && mget 0 t.core.sh.x 5 == 0) = true := by
  decide +kernel
theorem test_flagadd_wraps : nextAnd (exec (.flagadd ⟨9, 0, 6, false, 0, false, false⟩) base) (fun t => mget 0 t.core.flags 9 == 0xFFFFFFFE) = true := by
  decide +kernel
theorem test_srd_coreid : leaves (.srd (si 5 0 0)) base 5 0 = true := by decide +kernel
theorem test_srd_rqstat : leaves (.srd (si 5 0 4)) base 5 0x102 = true := by decide +kernel
theorem test_swr_epc_keeps_lane : nextAnd (exec (.swr (si 0 6 0x101)) base) (fun t => t.core.sh.epc == 0xFFFFFFFFFFFE6) = true := by decide +kernel
theorem test_phase_x_without_phase : leaves (.phaseX (si 5 0 0)) base 5 1 = true := by decide +kernel
theorem test_rte_resumes : nextAnd (exec (.rte (si 0 0 2)) inHandlerState) (fun t => t.core.sh.pc == 0x20040 && t.core.sh.lane == 3 && !t.core.sh.hmode &&
    t.core.sq.entries == [] && !t.core.sq.held) = true := by decide +kernel
theorem test_rte_outside : endedBy (exec (.rte (si 0 0 0)) base) (.faulted .badOperand) = true := by decide +kernel

/-! ### The vector engine -/

/-- A vector command at the head of its queue. -/
def atVector (i : Instr) (ph : PhaseState := {}) (phase : Option Nat := none) : State :=
  { base with core := { base.core with ph := ph, vq := { entries := [.cmd { instr := i, phase := phase }] } } }

/-- An executing phase that has used nothing yet. -/
def freshExec : PhaseExec :=
  { id := 0, passed := 0x1F, vec := {}, draw := {}, counts := [], deferred := [], heldFull := 0, consumePend := 0, wasFull := 0, readTiles := 0,
    wroteTiles := 0, inherited := 0, vwritten := 0, slotsRead := 0, joint := false, rewind := false, atC := none }

def execPhase : PhaseState := { next := 1, exec := some freshExec }

def va' (d a b : BitVec 5) (ty : BitVec 3) (v : BitVec 2 := 0) (sat : Bool := false) (m : BitVec 3 := 0) : VA := ⟨d, a, b, ty, m, sat, v⟩

/-- OperandsShapesAndRepeat: an operand captured, one to pop from a full and from an empty reply queue; a literal and a captured operand. -/
theorem witness_OperandsShapesAndRepeat :
    (∃ s k, (s : State).core.queue .vector = { entries := [.cmd k] } ∧ (s.core.queue .vector).headCmd = some k ∧ k.opa = some 9 ∧ k.opb = some 8) ∧
    (∃ k, ((atVector (.vcnt ⟨0, 0, 0, 62, .none⟩)).core.queue .vector).headCmd = some k ∧ k.opa = none ∧
      (atVector (.vcnt ⟨0, 0, 0, 62, .none⟩)).core.sh.replies ≠ []) ∧
    VcOperand ⟨2, 0, 0, 0, .one 5⟩ base base 5 ∧
    (∃ v s1, VcOperand ⟨2, 0, 0, 62, .none⟩ (atVector (.vsets ⟨2, 0, 0, 62, .none⟩)) s1 v ∧ v.toNat ≤ 64) ∧
    ¬InPhaseV (.vcnt ⟨0, 0, 0, 0, .none⟩) (atVector (.vcnt ⟨0, 0, 0, 0, .none⟩)) ∧
    InPhaseV (.vcnt ⟨0, 0, 0, 0, .none⟩) (atVector (.vcnt ⟨0, 0, 0, 0, .none⟩) execPhase (some 0)) := by
  refine ⟨⟨{ base with core := { base.core with vq := { entries := [.cmd { instr := .vcnt ⟨0, 0, 0, 0, .none⟩, opa := some 9, opb := some 8 }] } } }, _, rfl, rfl,
    rfl, rfl⟩, ⟨{ instr := .vcnt ⟨0, 0, 0, 62, .none⟩ }, by decide +kernel⟩, .inl (by decide +kernel), ?_, by unfold InPhaseV; decide +kernel,
    by unfold InPhaseV; decide +kernel⟩
  obtain ⟨v, s1, h, hv⟩ := ok_of (r := engOperand .vector false 62 (atVector (.vsets ⟨2, 0, 0, 62, .none⟩))) (p := fun v _ => decide (v.toNat ≤ 64))
    (by decide +kernel)
  exact ⟨v, s1, .inr ⟨rfl, h⟩, of_decide_eq_true hv⟩

theorem ready_of {i : Instr} {srcs dsts : List Nat} {s : State}
    (h : (s.core.rep.isNone && match s.core.ph.exec with
      | none => true
      | some e => dsts.all (fun d => !bit e.inherited (physReg s.core.vec.vbase d) && (bit e.vwritten (physReg s.core.vec.vbase d) ||
          srcs.all (fun r => physReg s.core.vec.vbase r != physReg s.core.vec.vbase d)))) = true) : VectorReady i srcs dsts s := by
  simp at h
  refine ⟨h.1, fun _ e he d hd => ?_⟩
  have h2 := h.2
  simp [he] at h2
  simpa using h2 d hd

/-- The vector statements: a command outside a phase, and one inside the executing phase whose destination no earlier command has read. -/
theorem witness_VectorArithmetic :
    VectorReady (.vadd (va' 3 1 2 0)) [1, 2] [3] base ∧ VectorReady (.vadd (va' 3 1 2 0)) [1, 2] [3] (atVector (.vadd (va' 3 1 2 0)) execPhase (some 0)) ∧
    InPhaseV (.vadd (va' 3 1 2 0)) (atVector (.vadd (va' 3 1 2 0)) execPhase (some 0)) ∧ VectorReady (.vcmpeq (va' 7 1 2 0)) [] [] base ∧
    (7 : BitVec 5) ≠ 0 ∧ decodeLane .vector (encodeWord (.vcmplt (va' 8 1 2 0))) .none = .error .illegalOp :=
  ⟨ready_of (by decide +kernel), ready_of (by decide +kernel), by unfold InPhaseV; decide +kernel, ready_of (by decide +kernel), by decide, by decide +kernel⟩

theorem witness_VectorLogicAndMoveResults :
    VectorReady (.vperm (va' 3 1 2 0)) [1, 2] [3] base ∧ tySize 0 ∣ base.core.vec.rowb ∧ 0 < base.core.vec.rows ∧
    VectorReady (.vmov (va' 3 1 0 0 2)) [1] [] base ∧ (Instr.vsel (va' 3 1 2 0)).guardOk = true ∧
    decodeLane .vector (encodeWord (.vsel (va' 3 1 2 0))) .none = .error .illegalOp :=
  ⟨ready_of (by decide +kernel), by decide +kernel, by decide +kernel, ready_of (by decide +kernel), by decide, by decide +kernel⟩

/-- Base with bytes in vector registers v1 and v2. -/
def withVectors (a b : List Byte) : State :=
  { base with core := { base.core with
      win := (base.core.win.write (vregOff 1) a).write (vregOff 2) b, vec := { base.core.vec with rows := 1, rowb := 32 } } }

/-- A vector command leaves these first bytes in v3 and these flags. -/
def vectorGives (i : Instr) (s : State) (bs : List Byte) (flags : BitVec 6) : Bool :=
  nextAnd (exec i s) (fun t => t.core.ended == .done && t.core.win.readN (vregOff 3) bs.length == bs && t.core.vec.vstat == flags)

/-- R51, R56: 1 + 2^-24 is a tie, and rounds to even; its NX flag is set. -/
theorem test_vadd_fp32_tie : vectorGives (.vadd (va' 3 1 2 0)) (withVectors [0, 0, 0x80, 0x3F] [0, 0, 0x80, 0x33]) [0, 0, 0x80, 0x3F] 0x10 = true := by
  decide +kernel
theorem test_vadd_int8_wraps : vectorGives (.vadd (va' 3 1 2 7)) (withVectors [0x7F, 0xFF] [1, 1]) [0x80, 0] 0 = true := by decide +kernel
theorem test_vadd_int8_saturates : vectorGives (.vadd (va' 3 1 2 7 0 true)) (withVectors [0x7F, 0xFF] [1, 1]) [0x7F, 0] 0x20 = true := by
  decide +kernel
theorem test_vmul_inf_zero : vectorGives (.vmul (va' 3 1 2 0)) (withVectors [0, 0, 0x80, 0x7F] [0, 0, 0, 0]) [0, 0, 0xC0, 0x7F] 0x01 = true := by
  decide +kernel
theorem test_vshl_low_bits : vectorGives (.vshl (va' 3 1 2 7)) (withVectors [1] [9]) [2] 0 = true := by decide +kernel
theorem test_vsar_int16 : vectorGives (.vsar (va' 3 1 2 6)) (withVectors [0, 0x80] [15, 0]) [0xFF, 0xFF] 0 = true := by decide +kernel

/-- A small shape: one row of 32 bytes (or 64), so that one sector holds a register's bytes. -/
def shaped (b : Nat) (s : State) : State := { s with core := { s.core with vec := { s.core.vec with rows := 1, rowb := b } } }

theorem witness_VectorFunctionsAndReductions :
    isF 0 = true ∧ VectorReady (.vexp2 (va' 3 1 0 0)) [1] [3] base ∧ VectorReady (.vrsum (va' 3 1 0 7)) [1] [3] base ∧
    tySize 7 ∣ base.core.vec.rowb ∧ VectorReady (.vtopk (va' 3 1 2 0)) [1] [3] base ∧
    (let sk : Word := 0x200; sk.toNat / 2 ^ 16 % 2 ^ 16 = 0 ∧ 0 < sk.toNat % 2 ^ 16 ∧ sk.toNat % 2 ^ 16 ≤ 512 ∧ sk.toNat % 2 ^ 16 ≤ places 0 base) := by
  refine ⟨by decide, ready_of ?_, ready_of ?_, ?_, ready_of ?_, ?_⟩ <;> decide +kernel

/-- VectorConversionResults: a widening into two registers, a stochastic narrowing, blocks of 32. -/
theorem witness_VectorConversionResults :
    VectorReady (.vcvt (va' 30 1 0 2)) [1] [30, 31] base ∧ 30 + (places 2 base * tySize 0 + 2047) / 2048 ≤ 32 ∧ places 2 base ≤ 2048 ∧
    VectorReady (.vcvtsr (va' 3 1 2 0)) [1] [3] base ∧ VectorReady (.vqmx (va' 30 1 0 0)) [1] [30, 31] base ∧ (30 : Nat) < 31 ∧
    32 ∣ places 0 base ∧ VectorReady (.vdqmx (va' 3 30 0 0)) [30, 31] [3] base := by
  refine ⟨ready_of ?_, ?_, ?_, ready_of ?_, ready_of ?_, ?_, ?_, ready_of ?_⟩ <;> decide +kernel

/-- Base with tile 5 FULL. -/
def full5 : State := { base with core := { base.core with tiles := { base.core.tiles with tag := 32 } } }

theorem unmarked (s : State) (h : s.core.tiles.marks = []) (n : Nat) (o : Nat → Nat) :
    ∀ k, k < n → ∀ mk, mk = s.core.tiles.mark (o k) → bad s mk = false := by
  intro k _ mk hm
  subst hm
  simp [Tiles.mark, h, mget, bad]

/-- VectorTileAndMemoryResults: a plain load from the last half of a tile; a load that consumes its tile; a store that fills its tile. -/
theorem witness_VectorTileAndMemoryResults_tile :
    (let f : VT := ⟨3, 0, 5, 0, 0, false, 1⟩;
      (∀ k, k < 2048 → ∀ mk, mk = base.core.tiles.mark ((4096 * f.tile.toNat + 2048 + k) / 64) → bad base mk = false) ∧
      VectorReady (.vldt f) [] [3] base ∧ TileReady f base 2048 2048 ∧ ¬InPhaseV (.vldt f) base ∧ f.tag = 0) ∧
    (let f : VT := ⟨3, 0, 5, 2, 0, false, 0⟩;
      (∀ k, k < 2048 → ∀ mk, mk = full5.core.tiles.mark ((4096 * f.tile.toNat + 0 + k) / 64) → bad full5 mk = false) ∧
      VectorReady (.vldt f) [] [3] full5 ∧ TileReady f full5 0 2048 ∧ ¬InPhaseV (.vldt f) full5 ∧ f.tag = 2 ∧ grantsOf full5.core .vector = [] ∧
      openFor full5.core false 5 = true ∧ firstWaiter full5.core .vector 5 = true ∧ (∀ q, sourceWaiter full5.core 5 (· == 1) q = false) ∧
      mget 0 full5.core.tiles.readers 5 = 0) ∧
    (let f : VT := ⟨0, 1, 5, 1, 0, false, 0⟩;
      base.core.rep = none ∧ (headOr base .vector (.vstt f)).deferred = false ∧ TileReady f base 0 2048 ∧ ¬InPhaseV (.vstt f) base ∧
      bit f.vd 4 = false ∧ f.tag = 1 ∧ bit base.core.tiles.tag 5 = false ∧ grantsOf base.core .vector = []) := by
  refine ⟨⟨unmarked base (by decide +kernel) _ _, ready_of ?_, ?_⟩, ⟨unmarked full5 (by decide +kernel) _ _, ready_of ?_, ?_, ?_, ?_, ?_, ?_, ?_, ?_, ?_⟩, ?_⟩
  all_goals first
    | (intro q; cases q <;> decide +kernel)
    | (unfold TileReady InPhaseV; decide +kernel)
    | (unfold TileReady; decide +kernel)
    | decide +kernel

/-- Base with one row of 64 bytes and s1 at a mapped address. -/
def vmem : State := { base with core := { base.core with vec := { base.core.vec with rows := 1, rowb := 64, s := [(1, 0x30000)] } } }

/-- VectorTileAndMemoryResults, memory forms: a load of mapped memory and a store of one sector to it. -/
theorem witness_VectorTileAndMemoryResults_memory :
    let f : VT := ⟨3, 0, 1, 0, 0, false, 3⟩
    let g : VT := ⟨0, 1, 1, 0, 0, false, 3⟩
    let va := (mget 0 vmem.core.vec.s (g.tile.toNat % 8)).toNat
    VectorReady (.vldt f) [] [3] vmem ∧ ¬InPhaseV (.vldt f) vmem ∧ va % 64 = 0 ∧ va < 2 ^ 52 ∧
    (∃ bs s1, engBytes (vFault 0x70 0) false va 64 vmem = .ok bs s1 ∧ (decide (s1.core.vec = vmem.core.vec) && s1.core.rep.isNone) = true) ∧
    vmem.core.vec.rows * vmem.core.vec.rowb = 64 ∧ (headOr vmem .vector (.vstt g)).deferred = false ∧ bit g.vd 4 = false ∧
    (headOr vmem .vector (.vstt g)).logged = false ∧ (headOr vmem .vector (.vstt g)).sect = 0 ∧
    sdlHolds vmem.core 2 vmem.core.attrs.asn.toNat (va / 65536) = false ∧
    (∃ r s1, tryTranslate (coreReq vmem (vFault 0x71 0)) va .write vmem = .ok r s1 ∧
      (match r with | .ok l => !rowTested s1 (l.addr / 64) | .error _ => false) = true) := by
  refine ⟨ready_of ?_, ?_, ?_, ?_, ok_of ?_, ?_, ?_, ?_, ?_, ?_, ?_, ok_of ?_⟩
  all_goals first
    | (unfold InPhaseV; decide +kernel)
    | decide +kernel

/-- OperandsShapesAndRepeat, of the repeat: a first repeat of two, the last one, and a repeat of none; the instruction of the first completes. -/
theorem witness_OperandsShapesAndRepeat_repeat :
    let s := fun n j => { vmem with core := { vmem.core with rep := some ⟨n, 7, j⟩ } }
    (s 2 0).core.rep = some ⟨2, 7, 0⟩ ∧ (s 2 1).core.rep = some ⟨2, 7, 1⟩ ∧ (s 0 0).core.rep = some ⟨0, 7, 0⟩ ∧
    endedBy (exec (.vadd (va' 3 1 2 0)) { s 2 0 with core := { (s 2 0).core with rep := none } }) .done = true ∧
    endedBy (exec (.vadd (va' 3 1 2 0)) (s 2 0)) .again = true ∧ endedBy (exec (.vadd (va' 3 1 2 0)) (s 2 1)) .done = true := by
  decide +kernel

/-- R54: round to nearest even of 2^24 + 1 as FP32, by FCVTF. -/
theorem test_fcvtf_tie : nextAnd (exec (.fcvtf (sa 5 3 0)) (withSh (fun h => { h with x := mset 0 h.x 3 0x1000001 })))
    (fun t => mget 0 t.core.sh.x 5 == 0x4B800000 && t.core.sh.fstat == 0x10) = true := by decide +kernel
theorem test_vrsum_int8 : vectorGives (.vrsum (va' 3 1 0 7)) (withVectors ([0x7F, 1, 0xFF] ++ List.replicate 29 0) []) [0x7F] 0 = true := by decide +kernel
theorem test_vrcp_zero : vectorGives (.vrcp (va' 3 1 0 0)) (withVectors [0, 0, 0, 0, 0, 0, 0, 0x40] []) [0, 0, 0x80, 0x7F, 0, 0, 0, 0x3F] 0x02 = true := by
  decide +kernel
theorem test_vcvt_bf16 : vectorGives (.vcvt (va' 3 1 1 0)) (withVectors [0, 0x80, 0x80, 0x3F] []) [0x80, 0x3F] 0x10 = true := by decide +kernel
theorem test_vperm_row : vectorGives (.vperm (va' 3 1 2 7)) (withVectors [5, 6, 7] [2, 0, 1]) [7, 5, 6] 0 = true := by decide +kernel
theorem test_vscan_sum : vectorGives (.vscan (va' 3 1 0 7)) (withVectors [1, 2, 3] []) [1, 3, 6] 0 = true := by decide +kernel

/-! ### Registers that are EMPTY, results, replies, faults, bundles -/

/-- Base with one outstanding result. -/
def waiting (p : Pending) : State := withSh (fun h => { h with pending := [p] })

/-- OperandPresence: an EMPTY source with and without its trap, an EMPTY destination, a fault that a producer has left; results that have come
back, that have not, and a read of FSTAT; entries held at the core and in the outbound buffer. -/
theorem witness_OperandPresence :
    Free 5 base.core.sh ∧ Blocks 9 base.core.sh ∧ NoLateFault 9 base.core.sh ∧ ¬Free 9 base.core.sh ∧
    Blocks 62 { base.core.sh with replies := [] } ∧
    (∃ (p : Pending) (e : FaultInfo), (waiting p).core.sh.pending = p :: [] ∧ p.d = 9 ∧ p.ready = true ∧ p.fault = some e ∧
      bit (waiting p).core.sh.empty (9 : BitVec 6).toNat = true) ∧
    base.input.core = base.cur ∧ base.input.n = ([] : List Pending).length ∧
    (waiting { d := 9, value := 1 }).core.sh.pending = [] ++ { d := 9, value := 1 } :: [] ∧ ({ d := 9, value := 1 } : Pending).ready = true ∧
    ({ d := 9, ready := false } : Pending).redo = none ∧ ({ d := 9, ready := false, redo := some .fstat } : Pending).phase = none ∧
    (∀ r ∈ base.strait.waiting, r.op ≠ 0x58) ∧
    (withSh (fun h => { h with heldReplies := [{ src := 1, value := 3 }] })).core.sh.heldReplies = { src := 1, value := 3 } :: [] ∧
    ({ base with core := { base.core with outbuf := [(5, false)] } }).core.outbuf = (5, false) :: [] := by
  have hp : base.core.sh.pending = [] := by decide +kernel
  refine ⟨.inr ?_, .inr ?_, ?_, ?_, .inl ?_, ⟨{ d := 9, fault := some { code := .addrRange, engine := 1 } }, _, rfl, rfl, rfl, rfl, ?_⟩, ?_⟩
  · decide +kernel
  · decide +kernel
  · intro p h; rw [hp] at h; cases h
  · rintro (h | h) <;> exact absurd h (by decide +kernel)
  · decide +kernel
  · decide +kernel
  · decide +kernel

/-- Base with a handler, and one that has stopped at a fault. -/
def handled : State := withSh (fun h => { h with tvec := 0x40000 })
def stoppedState : State := { handled with core := { handled.core with run := .haltedFault } }

/-- FaultsAndTheHandler: a running core with a handler and one without; a stopped core that finds one. -/
theorem witness_FaultsAndTheHandler :
    Reads 4 base.core.sh base.core.sh 7 ∧ base.core.run = .running ∧ base.core.attrs.joint = false ∧ base.core.sh.tvec = 0 ∧
    handled.core.run = .running ∧ handled.core.sh.tvec ≠ 0 ∧ handled.core.sh.hmode = false ∧ handled.core.sh.lane < 8 ∧
    FaultCode.misaligned ≠ .pageFault ∧ stoppedState.input.core = stoppedState.cur ∧ stoppedState.core.run = .haltedFault ∧
    stoppedState.core.sh.tvec ≠ 0 ∧ stoppedState.core.sh.hmode = false := by
  refine ⟨.inr (.inr ?_), ?_⟩ <;> decide +kernel

/-- A bundle at 0x20000 in a line of the L1 instruction cache: kind 0, one ADD in lane 1; and one with an undefined tag. -/
def fetching (header : Nat) : State :=
  let line := leNat (leBytes 4 header ++ leBytes 4 0x01143100)
  { base with core := { base.core with sh := { base.core.sh with lane := 0 }, l1i := [⟨0x20000 / 64, BitVec.ofNat 512 line, {}⟩] } }

/-- BundlesAndTheirKinds, of the fetch: a bundle in the instruction cache that decodes, one that does not, and one in memory. -/
theorem witness_BundlesAndTheirKinds_fetch :
    (fetching 0x10).core.sh.pc.toNat < 2 ^ 52 ∧ (fetching 0x10).core.attrs.joint = false ∧
    (∃ l s1, translate (coreReq (fetching 0x10) fetchFault) 0x20000 .exec (fetching 0x10) = .ok l s1 ∧
      (match s1.core.l1i.find? (fun y => y.key == l.key) with
        | some x => !bad s1 x.marks && (match decodeBundle 0 none (laneWords (sliceBytes x.data 0 32)) with | .ok b => b.slots.length == 1 | _ => false)
        | none => false) = true) ∧
    (∃ l s1, translate (coreReq (fetching 0x90) fetchFault) 0x20000 .exec (fetching 0x90) = .ok l s1 ∧
      (match s1.core.l1i.find? (fun y => y.key == l.key) with
        | some x => (match decodeBundle 0 none (laneWords (sliceBytes x.data 0 32)) with | .error (n, .illegalLane) => n == 1 | _ => false)
        | none => false) = true) ∧
    (∃ l s1, translate (coreReq base fetchFault) 0x20000 .exec base = .ok l s1 ∧
      ((s1.core.l1i.find? (fun y => y.key == l.key)).isNone && !rowTested s1 (l.addr / 64) && !(locRead true 0 l s1).1.e3) = true) := by
  refine ⟨?_, ?_, ok_of ?_, ok_of ?_, ok_of ?_⟩ <;> decide +kernel

/-- A core that has drained. -/
def drained : State := withSh (fun h => { h with empty := 0 })

/-- BundlesAndTheirKinds: no late fault; a drained core outside the handler, and one with an EMPTY register. -/
theorem witness_BundlesAndTheirKinds :
    ¬LateFault drained.core ∧ drained.core.ph.openId = none ∧ drained.core.sh.hmode = false ∧
    (∀ q, (drained.core.queue q).entries = [] ∧ (drained.core.queue q).kept = []) ∧ drained.core.ph.exec = none ∧
    drained.core.mat.nest = none ∧ drained.core.mat.arrival = none ∧ drained.core.sh.empty = 0 ∧ drained.core.sdl = [] ∧
    base.core.sh.empty ≠ 0 := by
  have h : drained.core.sh.pending = [] := by decide +kernel
  refine ⟨by simp [LateFault, h], by decide +kernel, by decide +kernel, by intro q; cases q <;> decide +kernel, by decide +kernel⟩

/-- Table 2.4, a wait word of GE on f2 with value 3: 2 does not meet it, 3 does, and so does a flag that has passed it. -/
theorem test_wait_ge : WaitCondition 0x10000003 [(2, 2)] = false ∧ WaitCondition 0x10000003 [(2, 3)] = true ∧
    WaitCondition 0x10000003 [(2, 0x1000002)] = true := by decide +kernel

/-- The lane at fault stands in the record: a TRAP in lane 3 (its code 7 in word 4), and the resume point in lane 4. -/
theorem test_trap_record : nextAnd (exec (.trap (si 0 4 7)) { handled with core := { handled.core with sh := { handled.core.sh with lane := 3 } } })
    (fun t => t.core.sh.frec.getD 0 0 == 0x1003000000000003 && t.core.sh.frec.getD 1 0 == 0x20000 && t.core.sh.frec.getD 4 0 == 7 &&
      t.core.sh.frec.getD 5 0 == 7 && t.core.sh.epc == 0x20004 && t.core.sh.pc == 0x40000 && t.core.sh.hmode) = true := by decide +kernel
theorem test_result_arrives : nextAnd (exec .longLatencyResult (waiting { d := 9, value := 77, flag := 10 }))
    (fun t => mget 0 t.core.sh.x 9 == 77 && t.core.sh.empty == 0 && mget 0 t.core.flags 10 == 1) = true := by decide +kernel
/-- Without a handler the core stops at the fault. -/
theorem test_fault_halts : nextAnd (exec (.jr (sa 0 4 0)) base) (fun t => t.core.run == .haltedFault && t.core.sh.pc == 0x20000 && t.core.sh.lane == 2) = true := by
  decide +kernel

/-! ### Memory -/

/-- Base with 64 KiB pages under a level-1 table at 0x18000: page 3 a leaf, page 4 not present, page 5 held in host memory, page 6 a leaf
in host memory, page 7 a leaf that is not writable. -/
def paged : State :=
  let put := fun a v s => devWrite 16 a (leBytes 8 v) s
  put 0x18038 0x70035 (put 0x18030 0x010000000006003D (put 0x18028 0x010000000005003E (put 0x18018 0x3003D (put 0x10000 0x18001 base))))

/-- The sector of a table that a walk may read. -/
def tableOk (s : State) (a : Nat) : Bool :=
  soundAt s (a / 64) && (match homeCode s (a / 64) with | some k => k == 16 | none => true) && !rowTested s (a / 64)

theorem table_of {s : State} {a : Nat} (h : tableOk s a = true) : TableSector s a := by
  unfold tableOk at h
  simp only [Bool.and_eq_true, Bool.not_eq_true'] at h
  exact ⟨sound_of h.1.1, agrees_of h.1.2, h.2⟩

theorem walks_of {s : State} {va e1 : Nat}
    (h : (let e3 := entryAt s (level3 s va)
      let e2 := entryAt s (level2 e3 va)
      decide (va < 2 ^ 52) && decide (s.core.attrs.tbase % 2 ^ 15 = 0) && decide (tlbFind s.core (coreReq s shData) va = none) &&
        decide ((dieOf s (s.cur / 192 % 4)).walk = []) && decide (s.core.refused = []) &&
        decide (e3 % 256 = 1 ∧ e3 < 2 ^ 52 ∧ e3 / 2 ^ 15 * 2 ^ 15 < 0x6000000000) && decide (e2 % 256 = 1 ∧ e2 < 2 ^ 52 ∧ e2 / 2 ^ 15 * 2 ^ 15 < 0x6000000000) &&
        decide (e1 = entryAt s (level1 e2 va)) && tableOk s (level3 s va) && tableOk s (level2 e3 va) && tableOk s (level1 e2 va)) = true) :
    WalksTo s va e1 := by
  simp only [Bool.and_eq_true, decide_eq_true_eq] at h
  obtain ⟨⟨⟨⟨⟨⟨⟨⟨⟨⟨h1, h2⟩, h3⟩, h4⟩, h5⟩, h6⟩, h7⟩, h8⟩, h9⟩, h10⟩, h11⟩ := h
  exact ⟨h1, h2, ⟨h3, h4, h5⟩, h6, h7, h8, table_of h9, table_of h10, table_of h11⟩

theorem witness_WalkOfAMappedPage :
    (WalksTo paged 0x30008 0x3003D ∧ GoodLeaf 0x3003D ∧ Permitted 0x3003D .atomic) ∧
    (WalksTo paged 0x6FFFF 0x010000000006003D ∧ GoodLeaf 0x010000000006003D ∧ Permitted 0x010000000006003D .exec ∧
      (0x010000000006003D : Nat).testBit 56 = true ∧ mget false paged.host.portsDown 0 = false) ∧
    (WalksTo paged 0x70000 0x70035 ∧ GoodLeaf 0x70035 ∧ Permitted 0x70035 .read) := by
  refine ⟨⟨walks_of ?_, ?_, ?_⟩, ⟨walks_of ?_, ?_, ?_, ?_, ?_⟩, ⟨walks_of ?_, ?_, ?_⟩⟩
  all_goals first
    | decide +kernel
    | (unfold GoodLeaf; decide +kernel)
    | (unfold Permitted; decide +kernel)

/-- PageRequests: a miss, with a ring of four entries; the answers to a request of core 0. -/
def missing : State := { paged with prq := { base := 0x40000, size := 4 } }
def asked : State :=
  { base with pageReqs := [⟨0, 4, 0, [(0, 1)], true, 0⟩], input := { base.input with value := 0x40000 } }

theorem witness_PageRequests :
    WalksTo missing 0x40123 0 ∧ 0 % 4 = 0 ∧ missing.pageReqs = [] ∧ missing.prefetch = [] ∧ missing.prq.full = false ∧ missing.cur < 1024 ∧
    asked.pageReqs = [⟨0, 4, 0, [(0, 1)], true, 0⟩] ∧ asked.input.value = BitVec.ofNat 64 (4 * 2 ^ 16 + 0 * 2 ^ 4) ∧
    (∀ k, (coreOf asked k).sdl = []) ∧ asked.core.refused = [] ∧
    (let slot := missing.prq.base.toNat + 32 * (missing.prq.head.toNat % missing.prq.size.toNat);
      slot % 32 = 0 ∧ Sound missing (slot / 64) ∧ Agrees missing (slot / 64) 16) := by
  refine ⟨walks_of ?_, ?_, ?_, ?_, ?_, ?_, ?_, ?_, ?_, ?_, ?_, sound_of ?_, agrees_of ?_⟩
  case refine_9 =>
    intro k
    have h1 : asked.core.sdl = [] := by decide +kernel
    have h2 : asked.others = [] := by decide +kernel
    simp only [coreOf, h2]
    split <;> simp [h1, mget]
  all_goals decide +kernel

/-- PageBringIn: a bring-in of the host-held page 5 with a free frame, one with none, and what a copied frame needs. -/
def bringing (frames : Word) : State :=
  let s := { paged with bringIns := [⟨0, 0x8000, 5, 0, 0x50000, 0, [], 0⟩] }
  withDie s 0 { dieOf s 0 with ffr := { base := 0x50000, size := 8, head := frames }, released := { base := 0x51000, size := 8 } }

theorem witness_PageBringIn :
    (bringing 1).bringIns[(bringing 1).input.n]? = some ⟨0, 0x8000, 5, 0, 0x50000, 0, [], 0⟩ ∧
    peekLeaf (bringing 1) 0 0x8000 (65536 * 5) = some (0x010000000005003E, 0x18028) ∧
    (0x010000000005003E : Nat).testBit 0 = false ∧ (0x010000000005003E : Nat).testBit 1 = true ∧ (0x010000000005003E : Nat).testBit 56 = true ∧
    mget false (bringing 1).host.portsDown 0 = false ∧ (dieOf (bringing 1) 0).ffr.head ≠ (dieOf (bringing 1) 0).ffr.tail ∧
    (dieOf (bringing 1) 0).released.full = false ∧ Sound (bringing 1) (0x50000 / 64) ∧
    (dieOf (bringing 0) 0).ffr.head = (dieOf (bringing 0) 0).ffr.tail ∧
    0x5FFFFF0000 % 65536 = 0 ∧ 0x5FFFFF0000 < memEnd ∧ retiredSector base (0x5FFFFF0000 / 64) = false ∧ base.hostPoison = [] := by
  refine ⟨?_, ?_, ?_, ?_, ?_, ?_, ?_, ?_, sound_of ?_, ?_⟩ <;> decide +kernel

/-- PageSwapOut: an eligible group to choose, and a group whose next of two pages is page 3. -/
def swapping (w : Option Swap) : State :=
  let put := fun a n v s => devWrite 16 a (leBytes n v) s
  let s := put 0x60100 8 0x30000 (put 0x60018 8 0 (put 0x60010 8 0x60100 (put 0x6000C 4 2 (put 0x60008 2 0x1000 (put 0x60004 4 9 paged)))))
  let s := { s with
    swaps := mset none s.swaps 0 w
    host := { s.host with groupTable := 0x60000, groupCount := 1, swapLow := 4, swapHigh := 6 } }
  let s := withDie s 0 { dieOf s 0 with ffr := { base := 0x50000, size := 8 }, hfr := { base := 0x52000, size := 8, head := 1 } }
  withDie s 1 { dieOf s 1 with hfr := { base := 0x52000, size := 8, head := 1 } }

theorem witness_PageSwapOut :
    swapDue (swapping none) 0 = true ∧ mget none (swapping none).swaps 0 = none ∧ chooseGroup (swapping none) = some 0 ∧
    (let s := swapping (some ⟨0, 0, true⟩);
      let s1 := (devRead (groupField s 0 16 8) 8 s).2
      swapDue s 0 = true ∧ mget none s.swaps 0 = some ⟨0, 0, true⟩ ∧ 1 < groupField s 0 12 4 ∧ tableOf s1 0 = some 0x8000 ∧
      (devRead (groupField s 0 16 8) 8 s).1 = 0x30000 ∧ peekLeaf s1 0 0x8000 0x30000 = some (0x3003D, 0x18018) ∧
      (0x3003D : Nat).testBit 0 = true ∧ (0x3003D : Nat).testBit 56 = false ∧ frameOf 0x3003D / 65536 = 3 ∧ copyOf s1 2 3 = none ∧
      mget false s1.host.portsDown 1 = false ∧ (dieOf s1 1).hfr.isEmpty = false ∧ (dieOf s1 0).ffr.full = false) ∧
    (let s := { swapping (some ⟨0, 0, true⟩) with copies := [{ kind := 2, old := 3, new := 9, pteAddr := 0x18018, pte := 0x3003D, va := 0x30000 }] };
      let s1 := (devRead (groupField s 0 16 8) 8 s).2
      (copyOf s1 2 3).map (fun c => (c.new, c.hit)) = some (9, false) ∧ peekLeaf s1 0 0x8000 0x30000 = some (0x3003D, 0x18018) ∧
      mget false s1.host.portsDown (9 / 2 ^ 36) = false ∧ (dieOf s1 0).ffr.full = false) ∧
    (let s := { swapping (some ⟨0, 0, true⟩) with copies := [{ kind := 2, old := 3, new := 9, hit := true }] };
      ((copyOf s 2 3).map (·.hit)) = some true) := by
  decide +kernel

/-- A sector stored under FP32 RAW with flipped bits, and a retired frame. -/
def erring (fl : List Nat) : State := { base with sectors := mset {} base.sectors 0x1000 { code := some 0, flips := fl } }
def retiredState : State := withDie base (homeDie 0x40000) { dieOf base (homeDie 0x40000) with retired := [(4, true)] }

theorem witness_ErrorClassDelivery :
    injector (erring [3]) 0x1000 = none ∧ retiredSector (erring [3]) 0x1000 = false ∧ homeLine (erring [3]) 0x1000 = none ∧
    (mget {} (erring [3]).sectors 0x1000).code = some 0 ∧ ((decodeFlips 0 0x1000 [3] 0).2.map (·.cls)) = some 0 ∧
    ((decodeFlips 0 0x1000 [3, 5] 0).2.map (·.cls)) = some 3 ∧ retiredSector retiredState (0x40000 / 64) = true ∧
    isCritical 1 0 31 = true ∧ isE3Code 1 = false ∧ (∃ w hi lo g, minorOf 1 = some (w, hi, lo, g) ∧ lo ≤ (elemOf 1 w 0 lo).2 ∧ (elemOf 1 w 0 lo).2 ≤ hi) := by
  refine ⟨?_, ?_, ?_, ?_, ?_, ?_, ?_, ?_, ?_, ?_⟩
  case refine_10 =>
    have h : (match minorOf 1 with
      | some (w, hi, lo, _) => decide (lo ≤ (elemOf 1 w 0 lo).2 ∧ (elemOf 1 w 0 lo).2 ≤ hi)
      | none => false) = true := by decide +kernel
    split at h
    · next w hi lo g hm => exact ⟨w, hi, lo, g, hm, of_decide_eq_true h⟩
    · cases h
  all_goals decide +kernel

/-- MemoryUpkeep: a requantisation entry that is admitted, one with no free frame, one of a page that is no leaf; scrubs, the end of a test,
a row to spare, a frame to retire; and a checkpoint in progress. -/
def requanting (frames : Word) (pte : Nat) : State :=
  let put := fun a n v s => devWrite 16 a (leBytes n v) s
  let s := put 0x18018 8 pte (put 0x61000 8 0x18018 paged)
  let s := { s with rq := { base := 0x61000, size := 4, head := 1 }, host := { s.host with rqCap := 1 } }
  (List.range 4).foldl (fun s d => withDie s d { dieOf s d with ffr := { base := 0x50000, size := 8, head := frames } }) s

theorem witness_MemoryUpkeep :
    (let s := requanting 1 0x080000000003003D;
      s.host.ck.status ≠ 2 ∧ s.host.ck.status ≠ 3 ∧ s.copies.find? (fun c => c.kind == 0) = none ∧ s.rq.isEmpty = false ∧ s.host.rqCap ≠ 0 ∧
      (devRead 0x61000 8 s).1 = 0x18018 ∧ (devRead 0x61008 8 s).1 % 65536 = 0 ∧ (devRead 0x61011 15 s).1 = 0 ∧ (devRead 0x18018 8 s).1 = 0x080000000003003D ∧
      requantable 0x080000000003003D = true ∧ (dieOf s (homeDie (frameOf 0x080000000003003D))).ffr.isEmpty = false) ∧
    (dieOf (requanting 0 0x080000000003003D) (homeDie (frameOf 0x080000000003003D))).ffr.isEmpty = true ∧ requantable 0x3003D = false ∧
    (∀ h c w : Bool, let x : FrameCopy := { kind := 0, old := 3, new := 9, hit := h, copied := c, wanted := w };
      ({ base with copies := [x] }).copies.find? (fun c => c.kind == 0) = some x) ∧
    (let s := { State.reset with selfTests := [⟨0, rowLocation 0x1000, [0x1000], false, 0, 1⟩], lasting := [(0, rowLocation 0)] };
      s.selfTests = [⟨0, rowLocation 0x1000, [0x1000], false, 0, 1⟩] ∧ s.input.n = 0 ∧ retiredSector s 0x1000 = false ∧ (dieOf s 0).testLog.full = true ∧
      (∀ k, (mget {} s.sectors k).cells = []) ∧ (0, rowLocation 0) ∈ s.lasting) ∧
    (let s := { erring [3] with input := { base.input with addr := 0x40000 } };
      s.input.addr.toNat / 64 = 0x1000 ∧ 64 * 0x1000 < memEnd ∧ retiredSector s 0x1000 = false ∧ (mget {} s.sectors 0x1000).flipped = [3] ∧
      (mget {} s.sectors 0x1000).code = some 0 ∧ ((decodeFlips 0 0x1000 [3] 0).2.map (·.cls)) = some 0) ∧
    65536 * 2 < memEnd ∧ (dieOf base (homeDie 0)).retired.length < 8192 ∧ copyOf base 1 2 = none ∧ retiredSector base (1024 * 2) = false ∧
    (∀ h c : Bool, let x : FrameCopy := { kind := 1, old := 2, new := 3, hit := h, copied := c };
      copyOf { base with copies := [x] } 1 2 = some x) ∧
    ({ base with host := { base.host with ck := { base.host.ck with status := 2 } } }).host.ck.status = 2 := by
  refine ⟨?_, ?_, ?_, ?_, ⟨?_, ?_, ?_, ?_, ?_, ?_⟩, ?_⟩
  case refine_9 =>
    intro k; rfl
  all_goals decide +kernel

/-- Two flipped bits of a word under FP32 RAW are beyond its SEC-DED: E3 with the poison mark; one is corrected (R82). -/
theorem test_read_poison : (let r := (readSector true (some 0) 0 0x1000 (erring [3, 5])).1; r.marks.poison && r.e3) = true := by decide +kernel
theorem test_read_corrects : (let r := (readSector true (some 0) 0 0x1000 (erring [3])).1; !r.marks.poison && !r.e3) = true := by decide +kernel
theorem test_critical_bit_corrected : decodeFlips 1 0 [31] 5 = (5, some ⟨0, 1, some [], false⟩) := by decide +kernel
theorem test_denied_write_waits : (match translate (coreReq paged shData) 0x70000 .write paged with
    | .error (.wait .pageMiss _) s => s.pageReqs.map (·.cause) == [2]
    | _ => false) = true := by decide +kernel
theorem test_walk_sets_access_bits : (match translate (coreReq paged shData) 0x30008 .write paged with
    | .ok l s => l.addr == 0x30008 && s.hbm.read 0x18018 == 0xFD
    | _ => false) = true := by decide +kernel
theorem test_missing_page_waits : (match translate (coreReq missing shData) 0x40123 .read missing with
    | .error (.wait .pageMiss _) s => s.hbm.readN 0x40000 8 == [0x23, 1, 4, 0, 0, 0, 0, 0] && s.prq.head == 1
    | _ => false) = true := by decide +kernel

/-! ### Launches, contexts, phases, checkpoints -/

/-- The bytes of a launch record of one core, 5 of die 0 (or of row r), with entry 0x20000, rights g and table 0x8000. -/
def recordBytes (entry row g : Nat) : List Byte :=
  leBytes 8 entry ++ [0, BitVec.ofNat 8 row, 5, 1, 1, 0, 0, BitVec.ofNat 8 g] ++ leBytes 8 0 ++ leBytes 8 0x8000 ++ List.replicate 96 0

/-- Base with a launch record in memory, in x10, and a run state for core 5. -/
def launching (bs : List Byte) (r : RunState) (rights : BitVec 6 := 0x3F) : State :=
  let s := withSh (fun h => { h with x := h.x ++ [(10, 0x70000)] })
  let s := withCore (devWrite 16 0x70000 bs { s with core := { s.core with attrs := { s.core.attrs with rights := rights } } }) 5 { run := r }
  s

/-- The record read at LAUNCH, and what p says of it. -/
def launchAnd (s : State) (p : List Byte → State → Bool) : Bool :=
  okAnd (launchBytes 0x70000 128 s) (fun r s1 => match r with
    | .ok hd => okAnd (launchBytes (0x70000 + 128) (if headerOk hd then recordSize hd - 128 else 0) s1) (fun r2 s2 => match r2 with
      | .ok tl => p (hd ++ tl) s2
      | .error _ => false)
    | .error _ => false)

theorem launch_of {s : State} {p : List Byte → State → Bool} (h : launchAnd s p = true) :
    ∃ hd s1 tl s2, launchBytes 0x70000 128 s = .ok (.ok hd) s1 ∧
      launchBytes (0x70000 + 128) (if headerOk hd then recordSize hd - 128 else 0) s1 = .ok (.ok tl) s2 ∧ p (hd ++ tl) s2 = true := by
  obtain ⟨r, s1, h1, h2⟩ := ok_of h
  cases r with
  | error => cases h2
  | ok hd =>
    obtain ⟨r2, s2, h3, h4⟩ := ok_of h2
    cases r2 with
    | error => cases h4
    | ok tl => exact ⟨hd, s1, tl, s2, h1, h3, h4⟩

/-- LaunchesAccepted: a record that is placed; one with an excess of rights; one on a busy and one on a disabled core; a malformed one. -/
theorem witness_LaunchesAccepted :
    let s := launching (recordBytes 0x20000 0 0x3F) .free;
    Free 5 s.core.sh ∧ Reads 10 s.core.sh s.core.sh 0x70000 ∧ bit s.core.attrs.rights 4 = true ∧ (0x70000 : Word).toNat % 64 = 0 ∧
    (∃ hd s1 tl s2, launchBytes 0x70000 128 s = .ok (.ok hd) s1 ∧
      launchBytes (0x70000 + 128) (if headerOk hd then recordSize hd - 128 else 0) s1 = .ok (.ok tl) s2 ∧
      (match parseRecord (hd ++ tl) with | some r => r.rights &&& ~~~s.core.attrs.rights == 0 && !placeRefused s2 r && !placeBusy s2 r | none => false) = true) := by
  refine ⟨.inr ?_, .inr (.inr ?_), ?_, ?_, launch_of (p := fun bs s2 => match parseRecord bs with
    | some r => r.rights &&& ~~~(launching (recordBytes 0x20000 0 0x3F) .free).core.attrs.rights == 0 && !placeRefused s2 r && !placeBusy s2 r
    | none => false) ?_⟩ <;> decide +kernel

theorem witness_LaunchesAccepted_not :
    launchAnd (launching (recordBytes 0x20001 0 0x3F) .free) (fun bs _ => decide (parseRecord bs = none)) = true ∧
    launchAnd (launching (recordBytes 0x20000 0 0x3F) .free 0x10) (fun bs s => match parseRecord bs with
      | some r => r.rights &&& ~~~s.core.attrs.rights != 0
      | none => false) = true ∧
    launchAnd (launching (recordBytes 0x20000 0 0x3F) .running) (fun bs s => match parseRecord bs with
      | some r => !placeRefused s r && placeBusy s r
      | none => false) = true ∧
    launchAnd (launching (recordBytes 0x20000 0 0x3F) .disabled) (fun bs s => match parseRecord bs with
      | some r => placeRefused s r
      | none => false) = true := by decide +kernel

/-- The last rectangle of a die is a legal one; one more row is not. -/
theorem witness_LaunchesAccepted_limits :
    (parseRecord (recordBytes 0x20000 11 0)).isSome = true ∧ parseRecord (recordBytes 0x20000 12 0) = none := by decide +kernel

/-- A port's record, submitted by link 0 of a device in step 8, with a checkpoint's state. -/
def submitting (bs : List Byte) (ck : Nat) : State :=
  { base with host := { base.host with boot := 8, ports := [(0, { buf := (Memory.write [] 0 bs) })], ck := { base.host.ck with status := ck } } }

theorem witness_LaunchesAccepted_port :
    (let s := submitting (recordBytes 0x20000 0 0) 0;
      0 = s.input.link.toNat ∧ barOpen s 0 = true ∧ (mget {} s.host.ports 0).stat ≠ 1 ∧ (mget {} s.host.ports 0).stat ≠ 6 ∧ s.host.ck.status = 0 ∧
      (parseRecord ((mget {} s.host.ports 0).buf.readN 0 4096)).isSome = true) ∧
    (submitting (recordBytes 0x20000 0 0) 1).host.ck.status = 1 ∧
    parseRecord ((mget {} (submitting (recordBytes 0x20000 12 0) 0).host.ports 0).buf.readN 0 4096) = none := by decide +kernel

/-- A claimed launch of core 5 with a register and a tile length, and one of core 5 that has reached its leaf. -/
def claimed (started : Bool) (leaf : Option Bool) : State :=
  let r : Record := { smallRecord with entry := 0x20000, col0 := 5, inits := [(4, 9)], tlens := [(63, 64)] }
  { base with host := { base.host with launches := [⟨7, r, some 2, started, [(5, leaf)]⟩] }, input := { base.input with n := 7 } }

theorem witness_LaunchesRun :
    (coreOf (claimed false none) 5).saver = [] ∧
    (∃ l, Claimed (claimed false none) l ∧ (claimed false none).input.n = l.number ∧ l.record.cores = [5] ∧ l.record.inits = [(4, 9)] ∧
      l.record.tlens = [(63, 64)]) ∧
    (∃ l, (claimed true (some false)).host.launches = [l] ∧ l.started = true ∧ (∀ x ∈ l.leaves, x.2.isSome = true) ∧
      writesDone (claimed true (some false)) l = true ∧ l.record.doneAddr = 0) ∧
    (∃ l, (claimed true none).host.launches = [l] ∧ ∃ x ∈ l.leaves, x.2 = none) :=
  ⟨by decide +kernel, ⟨_, ⟨rfl, rfl⟩, rfl, by decide +kernel, rfl, rfl⟩, ⟨_, rfl, rfl, by decide, by decide +kernel, rfl⟩, ⟨_, rfl, _, .head _, rfl⟩⟩

/-- SavingAndPreemption, of CTXSAVE and CTXLOAD: a free target, a running one, and the requests. -/
theorem witness_SavingAndPreemption :
    Free 5 base.core.sh ∧ Reads 5 base.core.sh base.core.sh 5 ∧ Reads 0 base.core.sh base.core.sh 0 ∧ bit base.core.attrs.rights 5 = true ∧
    (5 : Word).toNat < 768 ∧ (5 : Word).toNat ≠ base.cur ∧ (coreOf base 5).run = .free ∧
    (let s := withCore base 5 { run := .running };
     (coreOf s 5).preemptible = true ∧ (coreOf s 5).attrs.joint = false ∧ (coreOf s 5).preempt = none) := by
  refine ⟨.inr ?_, .inr (.inr ?_), .inr (.inl ?_), ?_⟩ <;> decide +kernel

/-- A core under a pre-emption request, without a phase and inside one at the end of its window. -/
def preempted (e : Option PhaseExec) : State :=
  { base with
    pick := 0x20000
    core := { base.core with preempt := some 0, ph := { base.core.ph with exec := e }, attrs := { base.core.attrs with pwin := 65536 } }
    host := { base.host with boot := 8 } }

theorem witness_SavingAndPreemption_request :
    (let s := { base with host := { base.host with boot := 8 } };
     0 = s.input.core ∧ barOpen s s.input.link.toNat = true ∧ (coreOf s 0).run = .running ∧ (coreOf s 0).attrs.joint = false ∧ (coreOf s 0).preempt = none) ∧
    (coreOf stoppedState 0).run = .haltedFault ∧
    (∀ r ∈ [RunState.running, .haltedFault], let s := { preempted none with core := { (preempted none).core with run := r } };
     s.cur = s.input.core ∧ s.core.preemptible = true ∧ s.core.sh.pending = [] ∧ s.takes = [] ∧ s.joins = [] ∧ s.loomWaits = [] ∧
      s.core.preempt.isSome = true ∧ s.core.ph.exec = none ∧ s.core.mat.nest = none ∧ s.core.mat.arrival = none ∧ s.core.gq.entries = []) ∧
    (let s := preempted (some freshExec);
     s.core.preempt = some 0 ∧ 0 + s.core.attrs.pwin ≤ s.pick.toNat ∧ s.core.ph.exec = some freshExec ∧ freshExec.parked = false ∧ s.core.holdsJoin = false ∧
      s.core.tiles.drain = 0 ∧ s.core.mat.nest = none ∧ s.core.mat.arrival = none ∧ s.core.gq.entries = [] ∧ s.core.gq.kept = [] ∧ s.core.gq.ending = [] ∧
      freshExec.has .vector = true) := by decide +kernel

/-- A PHASE.B marker at the head of the vector queue, alone and behind an earlier phase. -/
def atMarker (id : Nat) (ph : PhaseState) : State := { base with core := { base.core with ph := ph, vq := { entries := [.phaseB id] } } }

theorem witness_Phases :
    (let s := atMarker 0 { next := 1, openId := some 0 };
     s.input.core = s.cur ∧ (s.core.queue s.input.queue).entries = [.phaseB 0] ∧ (s.core.queue s.input.queue).ending = [] ∧ earlierGone s.core 0 = true ∧
      s.core.preempt = none ∧ s.core.sh.pending = [] ∧ s.core.ph.exec = none) ∧
    freshExec.rewind = false ∧ (preempted none).core.preempt.isSome = true ∧ (preempted none).core.ph.exec = none ∧
    earlierGone (atMarker 1 { next := 2, openId := some 1, exec := some freshExec }).core 1 = false ∧
    (let v : EngQueue := { entries := [.phaseC 0] }
     let s := { base with core := { base.core with ph := { next := 1, closed := [(0, 9)], exec := some freshExec }, vq := v, mq := v, lq := v, sq := v, gq := v } };
     s.input.core = s.cur ∧ s.core.ph.exec = some freshExec ∧ s.core.holdsJoin = false ∧ readyToCommit s.core = true ∧ s.core.preempt = none ∧ freshExec.deferred = [] ∧
      s.core.ph.flagDue = [] ∧ (∀ p ∈ freshExec.counts, p.1 < 8) ∧ s.core.ph.closed = [(freshExec.id, 9)] ∧
      (∀ q, ∀ x ∈ (s.core.queue q).entries, ∀ k, x = .cmd k → k.deferred = false)) ∧
    readyToCommit (atVector (.vcnt ⟨0, 0, 0, 0, .none⟩) execPhase (some 0)).core = false := by
  refine ⟨?_, ?_, ?_, ?_, ?_, ⟨?_, ?_, ?_, ?_, ?_, ?_, ?_, ?_, ?_, by
    intro q x hx k hk
    subst hk
    cases q <;> simp [Core.queue] at hx⟩, ?_⟩ <;> decide +kernel

/-- A device in a checkpoint's or restore's STATE. -/
def checkpointing (st : Nat) (room : Word) : State :=
  { State.reset with host := { State.reset.host with ck := { State.reset.host.ck with status := st, size := [(0, room), (1, room)] } } }

/-- Checkpoints: the states in which each event acts, a ring with and without room, the quiet device and one that runs. -/
theorem witness_Checkpoints :
    (checkpointing 0 0).host.ck.status = 0 ∧ (checkpointing 1 0).host.ck.status = 1 ∧ (checkpointing 3 0).host.heldSubmits = [] ∧
    barOpen (checkpointing 0 0) (checkpointing 0 0).input.link.toNat = false ∧
    (let s := { checkpointing 1 0 with host := { (checkpointing 1 0).host with boot := 8 } };
     barOpen s s.input.link.toNat = true ∧ s.host.ck.status = 1 ∧ s.host.heldSubmits = []) ∧
    quiet (checkpointing 1 0) = true ∧ quiet base = false ∧
    (let s := checkpointing 2 0x20000;
     s.host.ck.nextFrame < 0x600000 ∧ mget false s.host.portsDown 0 = false ∧ mget false s.host.portsDown 1 = false) := by decide +kernel

/-- Checkpoints: a restore's ring that holds 64 bytes of a retired frame's record, and one with fewer. -/
def restoring (held : Word) (crc : Nat) : State :=
  { checkpointing 3 0x1000 with
    hostMem := Memory.write [] 0 (leBytes 8 (62 * 2 ^ 58 + 5) ++ leBytes 8 0 ++ leBytes 4 crc)
    host := { (checkpointing 3 0x1000).host with ck := { (checkpointing 3 0x1000).host.ck with head := [(0, held)] } } }

theorem witness_Checkpoints_restore :
    (let s := restoring 64 0;
     let w := fieldAt (ringGet s 0 64) 0 8;
     s.host.ck.status = 3 ∧ s.input.n < 2 ∧ mget false s.host.portsDown 0 = false ∧ mget false s.host.ck.ended 0 = false ∧
      ringGet s 0 64 ≠ endRecord ∧ w / 2 ^ 23 % 2 ^ 32 = 0 ∧ fieldAt (ringGet s 0 64) 8 8 = 0 ∧ w % 2 ^ 23 = 5 ∧ w % 2 ^ 23 < 0x600000 ∧
      mget 0 s.host.ck.lastFrame 0 ≤ 5 ∧ recordLength w = 20 ∧
      64 ≤ (mget 0 s.host.ck.head 0 - mget 0 s.host.ck.tail 0).toNat) := by decide +kernel

theorem test_launch_claims : nextAnd (exec (.launch (sa 5 10 0)) (launching (recordBytes 0x20000 0 0x3F) .free))
    (fun t => t.core.sh.pending.map (·.value) == [0] && t.host.launches.map (fun l => l.leaves) == [[(5, none)]]) = true := by decide +kernel
theorem test_launch_start : nextAnd (exec .launchStart (claimed false none)) (fun t => (coreOf t 5).sh.pc == 0x20000 && (coreOf t 5).run == .running &&
    mget 0 (coreOf t 5).sh.x 4 == 9 && (coreOf t 5).tiles.len 63 == 64 && (coreOf t 5).tiles.len 62 == 4096) = true := by decide +kernel

/-! ### The host side and the archipelago -/

/-- A device in step k of its bring-up. -/
def booting (k : Nat) : State := atStep State.reset k

/-- ResetAndPowerStates: each step of the bring-up; an image with a newer SVN; links up and not; one function and the last one to enter D3hot. -/
theorem witness_ResetAndPowerStates :
    mwf {} State.reset.dies ∧ (booting 1).host.boot = 1 ∧ (booting 2).host.boot = 2 ∧ (booting 3).host.boot = 3 ∧ (booting 4).host.boot = 4 ∧
    (booting 5).host.boot = 5 ∧ (booting 6).host.boot = 6 ∧ (booting 7).host.boot = 7 ∧ linkExists (booting 8).host 0 = true ∧
    (let s := { State.reset with host := { State.reset.host with boot := 8, imageSvn := 3, minSvn := 2 } };
     3 ≤ s.host.boot ∧ s.host.boot ≤ 8 ∧ s.host.minSvn < s.host.imageSvn) ∧
    0 = (booting 8).input.link.toNat ∧ 4 < (booting 8).host.boot ∧ allHot (booting 8).host = false ∧ mget false (booting 8).host.d3hot 0 = false := by
  refine ⟨?_, ?_⟩
  · have h : State.reset.dies = [] := rfl
    simp [h, mwf]
  · decide +kernel

/-- Functions in D3hot by link, with core 0 as it is in base. -/
def hotState (d : SMap Bool) (c : RunState) : State :=
  { base with host := { base.host with boot := 8, d3hot := d, d3stopped := if c == .stopped then [0] else [] }, core := { base.core with run := c } }

theorem witness_ResetAndPowerStates_hot :
    (let s := hotState [(2, true)] .running;
     linkExists s.host 0 = true ∧ mget false s.host.d3hot 0 = false ∧ allHot { s.host with d3hot := mset false s.host.d3hot 0 true } = true ∧
      toStop s = [0]) ∧ (∀ n, (coreOf (hotState [(2, true)] .running) n).attrs.joint = false) ∧
    (let s := hotState [] .running;
     allHot { s.host with d3hot := mset false s.host.d3hot 0 true } = false) ∧
    (let s := hotState [(0, true), (2, true)] .stopped;
     allHot s.host = true ∧ linkExists s.host 0 = true ∧ s.host.d3stopped = [0] ∧ (coreOf s 0).run = .stopped ∧
      leafReached s 0 (coreOf s 0).attrs.launch = false) := by
  refine ⟨?_, fun n => ?_, ?_, ?_⟩
  case refine_2 =>
    have h1 : (hotState [(2, true)] .running).core.attrs.joint = false := by decide +kernel
    have h2 : (hotState [(2, true)] .running).others = [] := by decide +kernel
    unfold coreOf
    split
    · exact h1
    · rw [h2]; rfl
  all_goals decide +kernel

/-- A BAR access of link 0 with an open BAR. -/
def accessing : State := { base with host := { base.host with boot := 8 }, input := { base.input with addr := 0x30000, mask := 0xFF } }

/-- HostSide: the BARs open and closed, a tested and a sound place, a control-window address, ports and cores. -/
theorem witness_HostSide :
    0x30000 = accessing.host.hbmwin.toNat + accessing.input.addr.toNat % 2 ^ 30 / 8 * 8 ∧ barOpen accessing accessing.input.link.toNat = true ∧
    barOpen base base.input.link.toNat = false ∧ rowTested accessing (0x30000 / 64) = false ∧ copyHolds accessing (0x30000 / 64) = false ∧ Sound accessing (0x30000 / 64) ∧
    accessing.host.hbmwin.toNat % 8 = 0 ∧ accessing.input.mask = 0xFF#64 ∧ accessing.input.n = 0 ∧ accessing.host.boot = 8 ∧
    rowTested { accessing with selfTests := [⟨0, rowLocation (0x30000 / 64), [], false, 0, 12345⟩] } (0x30000 / 64) = true ∧
    ({ accessing with input := { accessing.input with value := 920 } }).input.value.toNat ≥ 920 ∧ accessing.input.value.toNat < 920 ∧
    ({ accessing with input := { accessing.input with ok := false } }).input.ok = false ∧
    (let s := { accessing with input := { accessing.input with core := 767 } };
     s.input.core < 768 ∧ (coreOf s s.input.core).run = .free ∧ s.host.launches = []) ∧ (coreOf accessing accessing.input.core).run ≠ .free := by
  refine ⟨?_, ?_, ?_, ?_, ?_, sound_of ?_, ?_⟩ <;> decide +kernel

theorem witness_AttestationRequests : 0 = (booting 5).input.link.toNat ∧ 4 < (booting 5).host.boot ∧ linkExists (booting 5).host 0 = true := by
  decide +kernel

/-- A BAR2 write stores the bytes of its mask, little-endian. -/
theorem test_bar2_write : nextAnd (exec .bar2Write { accessing with input := { accessing.input with value := 0x0102 } })
    (fun t => t.hbm.readN 0x30000 3 == [2, 1, 0] && t.host.reply == 1) = true := by decide +kernel
/-- FIPS 180-4's example: the digests of the message "abc". -/
theorem test_sha : (sha256 [0x61, 0x62, 0x63]).take 4 = [0xBA, 0x78, 0x16, 0xBF] ∧ (sha384 [0x61, 0x62, 0x63]).take 4 = [0xCB, 0x00, 0x75, 0x3F] := by
  decide +kernel
theorem test_curve : onCurve p384g = true := by decide +kernel

/-- A WRITE flit of channel 1, HOPS 1, marked poison and NEAR, from core 0x12F of island 5 to island 9: its
header written out from Table 14.6, and the first bytes of its sector. -/
theorem test_flit_image :
    let b := flitImage .write { vc := 1, hops := 1, poison := true, near := true, dst := 9, src := 5, score := 0x12F, tag := 0x01020304, size := 6,
                                addr := 0x40, data := bitsOfBytes ((List.range 64).map (BitVec.ofNat 8)) }
    b.length = 128 ∧ b.take 20 = [0x12, 0x29, 9, 0, 5, 0, 0x2F, 1, 4, 3, 2, 1, 0, 6, 0, 0, 0x40, 0, 0, 0] ∧
    (b.drop 64).take 4 = [0, 1, 2, 3] := by decide +kernel

/-- Base with a route to island 1 and archipelago addresses in x10 (to load) and x11. -/
def remote : State :=
  let s := withSh (fun h => { h with x := h.x ++ [(10, 0x8020000000000040)] })
  { s with strait := { s.strait with islands := [(1, 0)] } }

/-- RemoteAccesses: an address of island 1 with a way out; an aligned one of its own form without the right. -/
theorem witness_RemoteAccesses :
    Free 5 remote.core.sh ∧ Reads 10 remote.core.sh remote.core.sh 0x8020000000000040 ∧ (0x8020000000000040 : Word).toNat % 8 = 0 ∧
    (∃ port, RemoteWay remote 0x8020000000000040 port) ∧ Reads 4 remote.core.sh remote.core.sh 7 ∧ Guard remote.core.sh 0 false = true ∧
    (0x8020000000000040 : Word).toNat / 2 ^ 63 = 1 ∧ aasFormOk 0x8020000000000040 = true ∧
    bit ({ remote with core := { remote.core with attrs := {} } }).core.attrs.rights 2 = false := by
  refine ⟨.inr ?_, .inr (.inr ?_), ?_, ?_, .inr (.inr ?_), ?_⟩
  case refine_4 =>
    have h : (match routeOut remote.strait remote.cur 1 with
      | .ok p => !injectionHeld remote.strait remote.cur p (stageChannel remote.strait.inForce remote.core.attrs.stage.toNat)
      | .error _ => false) = true := by decide +kernel
    split at h
    · next p hp => exact ⟨p, by decide, by decide, by decide +kernel, by decide +kernel, hp, by simpa using h⟩
    · cases h
  all_goals decide +kernel

/-- A request of island 1 that arrives at port 0, under a window for HBM or for the near map. -/
def arriving (near : Bool) (off : Word) (size : BitVec 4) : State :=
  let w : BitVec 128 := BitVec.ofNat 128 (2 ^ 127 + (if near then 2 ^ 126 else 0) + 7 * 2 ^ 123 + 1023 * 2 ^ 98 + 0xFFFF * 2 ^ 32)
  { remote with
    strait := { remote.strait with windows := [(0, w)] }
    input := { remote.input with flit := { remote.input.flit with src := 1, near := near, addr := off, size := size, mask := 0xFF, chop := 0x50 } } }

theorem admits_of {s : State} {near : Bool} {src need off n : Nat} (h : (List.range 16).any (fun i =>
    let w := mget 0 s.strait.windows i
    decide (bit w 127 = true ∧ bit w 126 = near ∧ bit w (125 - need) = true ∧ w.toNat / 2 ^ 88 % 2 ^ 10 ≤ src ∧ src ≤ w.toNat / 2 ^ 98 % 2 ^ 10 ∧
    w.toNat % 2 ^ 23 ≤ off / 65536 ∧ (off + n - 1) / 65536 ≤ w.toNat / 2 ^ 32 % 2 ^ 23 ∧ w.toNat % 2 ^ 23 ≤ w.toNat / 2 ^ 32 % 2 ^ 23 ∧
    (near = true → w.toNat % 2 ^ 23 < 2 ^ 16 ∧ w.toNat / 2 ^ 32 % 2 ^ 23 < 2 ^ 16))) = true) : Admits s near src need off n := by
  simp only [List.any_eq_true, List.mem_range] at h
  obtain ⟨i, hi, h⟩ := h
  exact ⟨i, hi, of_decide_eq_true h⟩

theorem reply_of {s : State} (h : (match routeThrough s.strait s.input.port.toNat s.input.flit.src.toNat with
    | .ok p => !mget false s.strait.stopped (8 * p + 6) && !mget false s.strait.testing p
    | .error _ => false) = true) : ∃ p, ReplyPort s p := by
  split at h
  · next p hp => exact ⟨p, hp, by simpa using h⟩
  · cases h

/-- InboundRequests: reads, writes and atomics that a window admits, a tile write that one admits, and requests that none does. -/
theorem witness_InboundRequests :
    (let s := arriving false 0x30008 3;
     Taken s ∧ (∃ p, ReplyPort s p) ∧ Reached s ∧ rowTested s (0x30008 / 64) = false ∧ copyHolds s (0x30008 / 64) = false ∧ 0x30008 < 0x6000000000 ∧
      Admits s false 1 0 0x30008 8 ∧ Admits s false 1 1 0x30008 8 ∧ Admits s false 1 2 0x30008 8 ∧ s.input.flit.size ≠ 6 ∧ s.input.flit.chop.toNat = 0x50 ∧
      (readSector true none 0 (0x30008 / 64) s).1.e3 = false ∧ (readSector true none 0 (0x30008 / 64) s).1.marks.poison = false) ∧
    (let s := arriving false 0x30000 6;
     Taken s ∧ (∃ p, ReplyPort s p) ∧ Reached s ∧ s.input.flit.size = 6 ∧ Admits s false 1 2 0x30000 64 ∧
      (readSector true none 0 (0x30000 / 64) s).1.e3 = false ∧
      (readSector true none 0 (0x30000 / 64) { s with sectors := mset {} s.sectors 0xC00 { code := some 0, flips := [3, 5] } }).1.e3 = true) ∧
    (let s := arriving true 0x1000 6;
     Taken s ∧ (∃ p, ReplyPort s p) ∧ Reached s ∧ s.input.flit.near = true ∧ Admits s true 1 1 0x1000 64 ∧ targetOk s true 0x1000 = true ∧
      0x1000 % 2 ^ 20 + 64 ≤ 0x40000) ∧
    (let s := arriving true 0x1008 3;
     Taken s ∧ (∃ p, ReplyPort s p) ∧ Reached s ∧ s.input.flit.near = true ∧ Admits s true 1 0 0x1008 8 ∧ Admits s true 1 1 0x1008 8) ∧
    targetOk (arriving true 0x300000000 6) true 0x300000000 = false := by
  refine ⟨⟨?_, reply_of ?_, ?_, ?_, ?_, ?_, admits_of ?_, admits_of ?_, admits_of ?_, ?_⟩, ⟨?_, reply_of ?_, ?_, ?_, admits_of ?_, ?_⟩,
    ⟨?_, reply_of ?_, ?_, ?_, admits_of ?_, ?_⟩, ⟨?_, reply_of ?_, ?_, ?_, admits_of ?_, admits_of ?_⟩, ?_⟩
  all_goals first
    | (unfold Taken; decide +kernel)
    | (unfold Reached; decide +kernel)
    | decide +kernel

/-- A request that waits for its reply. -/
def replying (kind : FlitKind) (engine : Nat) : State :=
  { remote with
    core := { remote.core with sh := { remote.core.sh with pending := [{ d := 9, ready := false, ticket := 1 }] } }
    strait := { remote.strait with waiting := [{ tag := 3, island := 1, core := 0, engine := engine, ticket := 1, addr := 0x40, kind := kind }] }
    input := { remote.input with flit := { remote.input.flit with src := 1, tag := 3 } } }

theorem witness_RemoteAccesses_replies :
    Taken (replying .read 1) ∧ (∃ r, (replying .read 1).strait.waiting = [r] ∧ r.tag = (replying .read 1).input.flit.tag.toNat ∧
      r.island = (replying .read 1).input.flit.src.toNat ∧ r.core = (replying .read 1).cur ∧ r.done = false ∧ r.engine = 1 ∧ r.kind = .read ∧ r.ch = none ∧
      r.ticket < 2 ^ 64 ∧ r.n = 8 ∧ r.quiet = false ∧ ∃ pd, (replying .read 1).core.sh.pending = [pd] ∧ pd.ticket = r.ticket ∧ pd.ready = false ∧ pd.phase = none) ∧
    (replying .read 1).loomWaits = [] ∧ (replying .read 1).input.flit.poison = false ∧ (replying .read 1).input.flit.e1 = false ∧
    bit (replying .read 1).input.flit.opnd 0 = false ∧ (replying .write 1).strait.waiting.map (fun r => (r.kind, r.ch)) = [(.write, none)] ∧
    (replying .atomic 5).strait.waiting.map (fun r => (r.engine, r.quiet)) = [(5, false)] := by
  refine ⟨by unfold Taken; decide +kernel, ⟨_, rfl, ?_⟩, ?_⟩
  · exact ⟨by decide +kernel, by decide +kernel, by decide +kernel, rfl, rfl, rfl, rfl, by decide, rfl, rfl, _, rfl, rfl, rfl, rfl⟩
  · decide +kernel

/-- The island in a routing state, and with a drain of core 0 that waits. -/
def routing (r : Routing) : State :=
  { base with
    strait := { base.strait with routing := r, drainEnd := 5, drains := [⟨0, 1, 0, true⟩] } }

theorem witness_StraitControl :
    bit base.core.attrs.rights 3 = true ∧ Free 5 base.core.sh ∧ Reads 4 base.core.sh base.core.sh 7 ∧ (7 : Word) ≠ 0 ∧ (7 : Word).toNat ≤ 2 ^ 32 ∧
    base.strait.routing = .normal ∧ base.strait.waiting = [] ∧ base.loomWaits = [] ∧
    (routing .drained).strait.routing = .drained ∧ (routing .drained).strait.heldMsgs = [] ∧
    (routing .drained).strait.heldFlits = [] ∧ (routing .drained).strait.heldTimes = [] ∧
    (fencePart 0 7).isSome = true ∧ (fencePart 1 4).isSome = true ∧ (fencePart 2 15).isSome = true ∧ (fencePart 3 1023).isSome = true ∧
    (0x0000000500000201 : Word).toNat = 5 * 2 ^ 32 + 2 * 256 + 1 ∧ meshEntryOk 5 2 1 (resetRoute 5 1) = true ∧
    (0x1000000300000001 : Word).toNat = 2 ^ 60 + 3 * 2 ^ 32 + 1 ∧ (0x200000000000003F : Word).toNat = 2 * 2 ^ 60 + 63 ∧
    (routing .draining).strait.routing = .draining ∧ (routing .draining).strait.flying = [] ∧ (routing .draining).pick.toNat < (routing .draining).strait.drainEnd ∧
    (routing .draining).strait.drainEnd ≤ ({ routing .draining with pick := 5 }).pick.toNat ∧
    (∃ w, (routing .draining).strait.drains = [w] ∧ w.core = (routing .draining).cur ∧ w.mode = 0 ∧ w.first = true) := by
  refine ⟨?_, .inr ?_, .inr (.inr ?_), ?_, ?_, ?_, ?_, ?_, ?_, ?_, ?_, ?_, ?_, ?_, ?_, ?_, ?_, ?_, ?_, ?_, ?_, ?_, ?_, ?_, ⟨_, rfl, ?_, rfl, rfl⟩⟩ <;>
    decide +kernel

/-- Links: ports with failures, one flit sent, an island that is no master of the pick clock, long since its last TIME. -/
def linking : State :=
  { remote with
    pick := 0x200000
    strait := { remote.strait with retries := [(0, 16)], sent := [(.read, { remote.input.flit with tag := 3 })] }
    input := { remote.input with flit := { remote.input.flit with tag := 3, opnd := 0x300000 } } }

theorem witness_StraitControl_links :
    linking.strait.heldMsgs = [] ∧ linking.strait.heldFlits = [] ∧ linking.strait.heldTimes = [] ∧
    mget 0 base.strait.retries 0 < 16 ∧ 16 ≤ mget 0 linking.strait.retries 0 ∧
    ((linking.strait.sent.filter (fun x => x.2.out.toNat == 0))[linking.input.n]?).isSome = true ∧ mget false linking.strait.testing 0 = false ∧ Taken linking ∧
    linking.selfTests = [] ∧ linking.strait.pickMaster = false ∧ linking.strait.lastSend + 65536 ≤ linking.pick.toNat ∧
    base.pick.toNat < base.strait.lastSend + 65536 ∧ linking.host.boot ≠ 0xE0 ∧ linking.strait.routing = .normal ∧ linking.strait.stopped = [] ∧
    linking.strait.testing = [] ∧
    linking.strait.fencedPorts = [] ∧ linking.strait.lastTime + 2 ^ 20 ≤ linking.pick.toNat ∧ linking.host.launches = [] ∧
    (let s := { linking with strait := { linking.strait with masterPick := 0x300000, lastTime := 0x200000 } };
     s.pick.toNat < (s.strait.masterPick + (s.pick - BitVec.ofNat 64 s.strait.lastTime)).toNat) := by
  refine ⟨?_, ?_, ?_, ?_, ?_, ?_, ?_, ?_, ?_⟩
  case refine_8 => unfold Taken; decide +kernel
  all_goals decide +kernel

theorem test_remote_load_sends : nextAnd (exec (.ldd (si 5 10 0)) remote) (fun t => t.strait.sent.map (fun x => x.1) == [.read] &&
    t.strait.waiting.map (·.island) == [1] && t.core.sh.pending.map (·.ready) == [false]) = true := by decide +kernel
theorem test_inbound_atomic : nextAnd (exec .atomic (let s := arriving false 0x30008 3
    { s with input := { s.input with flit := { s.input.flit with opnd := 5 } } }))
    (fun t => t.hbm.read 0x30008 == 5 && t.strait.sent.map (fun x => x.1) == [.atomicData]) = true := by decide +kernel

/-! ### The Loom, the Heddle, the NSM -/

/-- A sequence of 40 tokens in four blocks, the last one empty, with its pool of eight slots of which four are free: virtual addresses from v,
physical ones from p. -/
def kvTables (v p : Nat) (s : State) : State :=
  let put := fun a n x s => devWrite 0 (p + a) (leBytes n x) s
  let sd := put 0 64 (v + 0x1000 + (v + 0x6000) * 2 ^ 64 + 40 * 2 ^ 128 + 4 * 2 ^ 192)
  let pool := put 0x2000 64 (v + 0x10000 + (v + 0x3000) * 2 ^ 64 + (v + 0x4000) * 2 ^ 128 + 8 * 2 ^ 192 + 4 * 2 ^ 224 + 64 * 2 ^ 256)
  let tables := put 0x1000 16 (2 + 3 * 2 ^ 32 + 1 * 2 ^ 64 + 0xFFFFFFFF * 2 ^ 96)
  let counts := put 0x3002 6 (1 + 1 * 2 ^ 16 + 2 * 2 ^ 32)
  let free := put 0x4000 16 (4 + 5 * 2 ^ 32 + 6 * 2 ^ 64 + 7 * 2 ^ 96)
  free (counts (tables (pool (sd s))))

/-- Base with a task in slot 3 of die 0 with this record, its id 0x32 in x10, a mask in x11, an id of a free slot in x12. -/
def tasked (t : Task) : State :=
  let s := withSh (fun h => { h with x := h.x ++ [(10, 0x32), (11, 1), (12, 0x42)] })
  withDie s 0 { dieOf s 0 with tasks := [(3, { t with gen := 2 })] }

def queued : State := tasked { state := 1, key := 9, stamp := 4 }
def atWork (n : Nat) : State := tasked { state := 4, pendingN := n, cancc := 1 }

/-- A template with key 5, class 0, this die, no parent, at 0x70000. -/
def templated : State :=
  devWrite 0 0x70000 (leBytes 32 (0xFFFFFFFF + 5 * 2 ^ 32 + 2 ^ 28 * 2 ^ 64 + 77 * 2 ^ 192)) (withSh (fun h => { h with x := h.x ++ [(10, 0x70000)] }))

/-- TakesAndSpawns, of SPAWN: a template that is read and placed. -/
theorem witness_TakesAndSpawns_spawn :
    let s := templated
    let sh1 := { outstanding s.core.sh { d := 5, ready := false, flag := 6, ticket := 1, redo := some (.spawn 0x70000) } with nextTicket := 1 }
    let s1 := { s with core := { s.core with sh := sh1 } }
    Free 5 s.core.sh ∧ Reads 10 s.core.sh s.core.sh 0x70000 ∧ NewTicket s.core.sh ∧ s.core.sh.nextTicket + 1 = 1 ∧ (0x70000 : Word).toNat % 32 = 0 ∧
    LoomWay s 6 (s.cur / 192) ∧
    ∃ bs s2, (loomReach (templateReq s1) (s1.core.attrs.e1pol == 1)).read 0x70000 32 s1 = .ok bs s2 ∧
      (let w := fun k => BitVec.ofNat 64 (leNat ((bs.drop (8 * k)).take 8))
      decide (s2.core = s1.core) && s2.cur == s.cur && (match Template.parse (w 0) (w 1) (w 2) (w 3) with
        | some m => m.here && m.parent == 0xFFFFFFFF && m.wkey == 0 && !batchable s2 0 m.cls
        | none => false) && decide (s.cur < 768) && decide ((taskOf s2 0 0).gen < 16) && decide (freeSlot s2 0 = some 0) &&
        decide (s2.takes = [])) = true := by
  have hp : templated.core.sh.pending = [] := by decide +kernel
  refine ⟨.inr ?_, .inr (.inr ?_), by simp [NewTicket, hp], ?_, ?_, ?_, ok_of ?_⟩
  all_goals first
    | decide +kernel
    | (unfold LoomWay; decide +kernel)

/-- TakesAndSpawns: a task to take and none; the end of a wait, before and at its time; the store of a die's tasks is canonical. -/
theorem witness_TakesAndSpawns :
    Free 5 queued.core.sh ∧ Reads 11 queued.core.sh queued.core.sh 1 ∧ NewTicket queued.core.sh ∧ (1 : Word) ≠ 0 ∧
    chooseTask queued 0 1 = some (0, 3) ∧ (taskOf queued 0 3).shedtask = false ∧ chooseTask queued 0 2 = none ∧
    mwf {} (dieOf queued 0).tasks ∧ bestTask queued 0 1 = some 3 ∧ LoomWay queued 6 (queued.cur / 192) ∧
    (let s := { waiting { d := 9, ready := false, ticket := 1 } with takes := [⟨0, 1, 1, some 8⟩] };
     s.takes = [⟨0, 1, 1, some 8⟩] ∧ s.input.n = 0 ∧ s.core.sh.pending = [{ d := 9, ready := false, ticket := 1 }] ∧ s.pick.toNat < 8 ∧
      8 ≤ ({ s with pick := 8 }).pick.toNat) := by
  have hp : queued.core.sh.pending = [] := by decide +kernel
  refine ⟨.inr ?_, .inr (.inr ?_), by simp [NewTicket, hp], ?_, ?_, ?_, ?_, wf_of ?_, ?_, ?_, ?_⟩
  all_goals first
    | decide +kernel
    | (unfold LoomWay; decide +kernel)

/-- TaskResults: a task in each state that its instructions need, a stale id, a JOIN that waits and one that ends, an ended task. -/
theorem witness_TaskResults :
    Free 5 queued.core.sh ∧ Reads 10 queued.core.sh queued.core.sh 0x32 ∧ Reads 4 queued.core.sh queued.core.sh 7 ∧
    LoomWay queued 6 0 ∧ Names queued 0x32 0 3 ∧ (taskOf queued 0 3).state = 1 ∧ Plain (taskOf queued 0 3) ∧
    Names (atWork 0) 0x32 0 3 ∧ (taskOf (atWork 0) 0 3).state = 4 ∧ Plain (taskOf (atWork 0) 0 3) ∧ (taskOf (atWork 0) 0 3).pendingN = 0 ∧
    (taskOf (atWork 1) 0 3).pendingN ≠ 0 ∧ (0x42 : BitVec 32).toNat / 2 ^ 22 = queued.host.island.toNat ∧ staleTask queued 0x42 = true ∧ slotOff queued 0 4 = false ∧
    (let s := tasked { state := 6, told := true };
     s.joins = [] ∧ s.groups = [] ∧ Plain (taskOf s 0 3) ∧ (taskOf s 0 3).ending = none ∧ (taskOf s 0 3).pendingN = 0 ∧ (taskOf s 0 3).told = true ∧
      (taskOf s 0 3).state = 6) ∧
    (let s := { waiting { d := 9, ready := false, ticket := 1 } with joins := [⟨.core 0 1, 0x32⟩] };
     s.joins = [⟨.core 0 1, 0x32⟩] ∧ s.input.n = 0 ∧ s.core.sh.pending = [{ d := 9, ready := false, ticket := 1 }]) ∧
    idDie 0x32 = 0 ∧ idSlot 0x32 = 3 := by
  refine ⟨.inr ?_, .inr (.inr ?_), .inr (.inr ?_), ?_, ?_, ?_, ?_, ?_, ?_⟩
  all_goals first
    | decide +kernel
    | (unfold LoomWay; decide +kernel)
    | (unfold Names; decide +kernel)
    | (unfold Plain; decide +kernel)

/-- Base with the tables at 0x40000, a task at work, an attachment base and pools; x10 its id, x13 the request's address. -/
def attaching : State :=
  let s := kvTables 0x40000 0x40000 (atWork 0)
  let s := devWrite 0 0x70000 (leBytes 16 (0x40000 + 0 * 2 ^ 64 + 2 * 2 ^ 96)) s
  let s := withDie s 0 { dieOf s 0 with attBase := 0x78000 }
  { s with core := { s.core with attrs := { s.core.attrs with kvpools := 0x42000 }, sh := { s.core.sh with x := s.core.sh.x ++ [(13, 0x70000)] } } }

/-- What the Loom reads and counts for a TKV of two blocks. -/
def attachAnd (p : List Byte → Seq → Pool → List (Nat × Bool) → State → Bool) : Bool :=
  let s := attaching
  let sh0 := { outstanding s.core.sh { d := 5, ready := false, flag := 6, ticket := 1, redo := some (.tkv 0x32 0x70000) } with nextTicket := 1 }
  let s0 := { s with core := { s.core with sh := sh0 } }
  let r := loomReach (templateReq s0) (s.core.attrs.e1pol == 1)
  okAnd (r.read 0x70000 16 s0) (fun bs s1 => okAnd (readSeq r (BitVec.ofNat 64 (leNat (bs.take 8))) s1) (fun q s2 =>
    okAnd (readPool r s.core.attrs.kvpools q.pool s2) (fun pl s3 =>
      okAnd (((List.range 2).mapM (fun k => do
        let x ← heldEntry r q pl k
        pure (x, false)) : M (List (Nat × Bool))) s3) (fun ops s4 =>
          okAnd (countOps r pl ops [] [] s4) (fun c s5 =>
            okAnd (commitCounts r pl s.core.attrs.asn.toNat s.core.attrs.tbase c.1 c.2 s5) (fun _ s6 =>
              decide (s6.core = s0.core) && s6.cur == s.cur && soundAt s6 (0x78000 / 64) && (homeCode s6 (0x78000 / 64)).isNone && p bs q pl ops s6))))))

/-- TaskAttachments: a request of two blocks whose tables, pool and counts are read and written as the statement's premises say. -/
theorem witness_TaskAttachments :
    Free 5 attaching.core.sh ∧ Reads 10 attaching.core.sh attaching.core.sh 0x32 ∧ Reads 13 attaching.core.sh attaching.core.sh 0x70000 ∧
    LoomWay attaching 6 0 ∧ Names attaching 0x32 0 3 ∧ (taskOf attaching 0 3).over = false ∧ firstFree attRecords ((dieOf attaching 0).attUsed.map (·.1)) = some 0 ∧
    (dieOf attaching 0).attBase = 0x78000 ∧ attaching.holds = [] ∧
    attachAnd (fun bs q _ ops _ => leNat (bs.take 8) % 64 == 0 && leNat ((bs.drop 12).take 2) == 2 && leNat (bs.drop 14) == 0 && q.cap == 4 &&
      ops == [(2, false), (3, false)]) = true := by
  refine ⟨.inr ?_, .inr (.inr ?_), .inr (.inr ?_), ?_⟩
  all_goals first
    | decide +kernel
    | (unfold LoomWay Names; decide +kernel)

/-- A die with an open shed of class 0 in place 2 and a closed, empty one in place 4, and an unpinned slot to push back. -/
def shedState : State :=
  let s := kvTables 0x40000 0x40000 (withSh (fun h => { h with x := h.x ++ [(10, 0x100), (11, 1)] }))
  withDie s 0 { dieOf s 0 with
    sheds := [(2, { used := true, window := 10 }), (4, { used := true, closed := some 0 })], pinned := [⟨0x42000, 0x42000, 0, 0x8000, 3, false⟩, ⟨0x42000, 0x42000, 0, 0x8000, 2, true⟩] }

theorem witness_HeddleResults :
    Free 5 shedState.core.sh ∧ Reads 10 shedState.core.sh shedState.core.sh 0x100 ∧ Reads 4 shedState.core.sh shedState.core.sh 7 ∧
    NewTicket shedState.core.sh ∧ HeddleWay shedState ∧ hcfgOk 1 7 = true ∧ Reads 11 shedState.core.sh shedState.core.sh 1 ∧ mwf {} (dieOf shedState 0).sheds ∧
    (shedOf shedState 0 2).used = true ∧ (shedOf shedState 0 2).closed = none ∧ shedState.pick.toNat < (shedOf shedState 0 2).opened + (shedOf shedState 0 2).window ∧
    (shedOf shedState 0 4).used = true ∧ (shedOf shedState 0 4).closed.isSome = true ∧ (shedOf shedState 0 4).rows = [] ∧
    (formShed 0 4 shedState).1 = true ∧ (formShed 0 4 shedState).2.spawns = [] ∧
    (dieOf shedState 0).pinned[0]? = some ⟨0x42000, 0x42000, 0, 0x8000, 3, false⟩ ∧ slotPinned shedState 0x42000 3 = false ∧
    (dieOf shedState 0).pinned[1]? = some ⟨0x42000, 0x42000, 0, 0x8000, 2, true⟩ ∧ slotPinned shedState 0x42000 2 = false ∧
    (let r := loomReach (dropReq 0 0 0x8000) false;
     okAnd (r.read 0x42000 64 shedState) (fun bs s1 => match Pool.parse 0x42000 0x42000 (bitsOfBytes bs) with
      | some p => okAnd (pushSlots r p [3] s1) (fun _ _ => true) && okAnd (r.ready [(p.bpt + 2 * 2, 2)] s1) (fun _ s2 =>
          okAnd (pushSlots r p [2] s2) (fun _ s3 => okAnd (r.write (p.bpt + 2 * 2) (leBytes 2 0) s3) (fun _ _ => true)))
      | none => false) = true) := by
  have hp : shedState.core.sh.pending = [] := by decide +kernel
  refine ⟨.inr ?_, .inr (.inr ?_), .inr (.inr ?_), by simp [NewTicket, hp], ?_, ?_, .inr (.inr ?_), wf_of ?_, ?_⟩
  all_goals first
    | decide +kernel
    | (unfold HeddleWay; decide +kernel)

/-- A live root in record 5 of die 0, named by x10; its NSM addresses in x11 (word 3) and x12, and a stale handle in x13. -/
def noded : State :=
  let s := withSh (fun h => { h with x := h.x ++ [(10, 0x100000005), (11, 0x3000100000005), (12, 0xFFFFFFFF), (13, 0x200000005)] })
  withDie s 0 { dieOf s 0 with nodes := [(5, { live := true, gen := 1, vl := 4 })] }

theorem witness_NodeResults :
    Free 5 noded.core.sh ∧ Reads 10 noded.core.sh noded.core.sh 0x100000005 ∧ Reads 4 noded.core.sh noded.core.sh 7 ∧ NewTicket noded.core.sh ∧ LoomWay noded 7 0 ∧
    NamesNode noded 0x100000005 0 5 ∧ (nodeOf noded 0 5).parent = 0xFFFFFFFF#32 ∧ NamesNode noded 0x3000100000005 0 5 ∧
    (0x3000100000005 : Word).toNat < 2 ^ 50 ∧ 2 ^ 48 ≤ (0x3000100000005 : Word).toNat ∧
    Reads 12 noded.core.sh noded.core.sh 0xFFFFFFFF#64 ∧
    firstFree 524288 (mergeUsed (((dieOf noded 0).nodes.filter (fun x => x.2.live)).map (·.1)) ((dieOf noded 0).nodesOff.map (·.1))) = some 0 ∧
    nodeOff noded 0 5 = false ∧
    (0x200000005 : Word).toNat / 2 ^ 22 % 2 ^ 10 = noded.host.island.toNat ∧
    staleNode noded ((0x200000005 : Word).setWidth 32) ((0x200000005 : Word).toNat / 2 ^ 32) = true := by
  have hp : noded.core.sh.pending = [] := by decide +kernel
  refine ⟨.inr ?_, .inr (.inr ?_), .inr (.inr ?_), by simp [NewTicket, hp], ?_, ?_, ?_, ?_, ?_, ?_, .inr (.inr ?_), ?_⟩
  all_goals first
    | decide +kernel
    | (unfold LoomWay; decide +kernel)
    | (unfold NamesNode; decide +kernel)

theorem test_take_gives_task : nextAnd (exec (.take (sa 5 11 0)) queued) (fun t => t.core.sh.pending.map (·.value) == [0x32] &&
    (taskOf t 0 3).state == 4) = true := by decide +kernel
theorem test_tstat_stale : nextAnd (exec (.tstat (sa 5 12 0)) queued) (fun t => t.core.sh.pending.map (·.value) == [0x180000000000000]) = true := by
  decide +kernel
theorem test_tkv_counts : nextAnd (exec (.tkv (sa 5 10 13)) attaching) (fun t => t.hbm.readN 0x43004 4 == [2, 0, 3, 0] &&
    t.core.sh.pending.map (·.value) == [2]) = true := by decide +kernel
theorem test_nvloss : nextAnd (exec (.nvloss (sa 5 10 4)) noded) (fun t => (nodeOf t 0 5).vl == 11) = true := by decide +kernel

/-! ### The matrix engine and the draw unit -/

/-- Base with a matrix command at its head. -/
def atMatrix (i : Instr) (ph : PhaseState := {}) (phase : Option Nat := none) (g : MatState → MatState := id) : State :=
  { base with core := { base.core with ph := ph, mat := g base.core.mat, mq := { entries := [.cmd { instr := i, phase := phase }], pos := 1 } } }

/-- MatrixConfiguration: no arrival; an operand captured, one to pop, a literal; values at the limits of each table, and no such value
beyond them. -/
theorem witness_MatrixConfiguration :
    base.core.mat.arrival = none ∧ base.core.attrs.joint = false ∧ MxOperand ⟨4, 0x20, true, .none⟩ base base 7 ∧
    MxOperand ⟨0, 0x20, true, .one 7⟩ base base (immediate (0 : BitVec 6) (.one 7)) ∧
    McfgValue 0 65536 ∧ McfgValue 1 (-2) ∧ McfgValue 0x20 (384 * 2 ^ 16 + 48) ∧ McfgValue 0x23 (384 * 2 ^ 16 + 144 * 2 ^ 8 + 48) ∧
    McfgValue 0x4F 31 ∧ ¬McfgValue 0 0 ∧ MdescValue 0 15 ∧ MdescValue 2 262144 ∧ MdescValue 4 (64 * 2 ^ 8 + 64) ∧ ¬MdescValue 0 16 ∧
    MunfValue 0 262080 ∧ MunfValue 4 (4095 * 2 ^ 16 + 1) ∧ MunfValue 3 0x11111111 := by
  refine ⟨?_, ?_, .inr ⟨rfl, ?_⟩, .inl ⟨by decide, rfl, rfl⟩, .inl ⟨0, by decide, by decide⟩, .inl ⟨0, by decide, by decide⟩,
    .inr (.inl ⟨rfl, 48, 384, by decide⟩), .inr (.inr (.inr (.inr (.inl ⟨rfl, 48, 0, 144, 384, by decide⟩)))),
    .inr (.inr (.inr (.inr (.inr (.inr ⟨15, by decide, by decide⟩))))), ?_, .inl (by decide), .inr (.inr (.inl (by decide))),
    .inr (.inr (.inr ⟨rfl, 64, 64, by decide⟩)), ?_, .inl (by decide), .inr (.inr (.inr ⟨.inr rfl, 1, 4095, by decide⟩)),
    .inr (.inr (.inl ⟨rfl, by decide, by decide⟩))⟩
  · decide +kernel
  · decide +kernel
  · rfl
  · simp only [McfgValue]
    intro h
    simp at h
    omega
  · simp [MdescValue]

/-- One level of one step, one element of C from 64 FP8 elements of tiles 0 and 1 (Tables 12.3, 12.4). -/
def tiny : MatState → MatState := fun m => { m with
  cfg := [(0x20, 0x10001), (0x22, 100)], desc := [(2, 64), (4, 1), (0x12, 64), (0x14, 1)] }
def mt : MT := ⟨0, 0, 0, 1, 0, true, 0⟩

theorem witness_NestStarts :
    (let s := atMatrix (.mgo mt) {} none tiny;
     MatrixIdle s ∧ (let g := geoOf mt s.core.mat.cfg s.core.mat.desc s.core.mat.unf;
     checkNest g mt.ga.toNat mt.gb.toNat s.core.mat.metas none = true ∧ inPhase s (headOr s .matrix (.mgo mt)) = false ∧
     ∃ u s1, nestTags (matFault 2) false mt g s = .ok u s1 ∧ decide (s1.core.mat = s.core.mat) = true)) ∧
    (let s := atMatrix (.mgo mt);
     MatrixIdle s ∧ checkNest (geoOf mt s.core.mat.cfg s.core.mat.desc s.core.mat.unf) mt.ga.toNat mt.gb.toNat s.core.mat.metas none = false) := by
  refine ⟨⟨?_, ?_, ?_, ok_of ?_⟩, ?_⟩
  all_goals first
    | decide +kernel
    | (unfold MatrixIdle; decide +kernel)

/-- Base with a nest that runs. -/
def nesting (joint : Bool) (c : Core) : Core :=
  let i : Instr := if joint then .mjoin mt else .mgo mt
  { c with mat := { tiny c.mat with nest := some ⟨{ instr := i }, (tiny {}).cfg, (tiny {}).desc, [], joint, 0, 1, 0, 0⟩ } }

theorem witness_NestEnds :
    let s := { base with core := nesting false base.core };
    s.input.core = s.cur ∧ ∃ n, s.core.mat.nest = some n ∧ n.joint = false ∧ nestFields n = some mt ∧ mt.ga = 0 ∧ mt.gb = 0 ∧
      nestInPhase s.core n = false ∧ checkNest (geoOf mt n.cfg n.desc n.unf) 0 0 s.core.mat.metas none = true ∧
      nestMarks s s.cur (geoOf mt n.cfg n.desc n.unf) none = none :=
  ⟨by decide, _, rfl, rfl, rfl, rfl, rfl, by decide +kernel, by decide +kernel, by decide +kernel⟩

/-- The quad of core 0, each member as f makes it. -/
def quad (f : Nat → Core → Core) : State :=
  let s := [1, 16, 17].foldl (fun t k => withCore t k (f k { base.core with attrs := { base.core.attrs with joint := true } })) base
  { s with pick := 0x20000, core := f 0 { s.core with attrs := { s.core.attrs with joint := true } } }

/-- A member at the join. -/
def arrived (c : Core) : Core := { c with mat := { tiny c.mat with arrival := some { cmd := { instr := .mjoin mt }, tick := 4 } } }

/-- A joint nest that has issued k steps. -/
def jointNest (k : Nat) : Nest := ⟨{ instr := .mjoin mt }, (tiny {}).cfg, (tiny {}).desc, [], true, 0, 1, k, 0⟩
/-- A member in the joint nest. -/
def joined (k : Nat) (c : Core) : Core := { c with mat := { tiny c.mat with nest := some (jointNest k) } }

theorem joint_of {s : State} {k : Nat} {n : Nest} (h : (coreOf s k).mat.nest = some n) (hj : n.joint = true) : JointNest s k n := ⟨h, hj⟩

theorem members_of {s : State} {p : Nat → Nest → Bool} (h : ((quadMembers s.cur).all fun k => match (coreOf s k).mat.nest with
    | some m => m.joint && p k m
    | none => false) = true) : ∀ k ∈ quadMembers s.cur, ∃ m, JointNest s k m ∧ p k m = true := by
  intro k hk
  have h1 := List.all_eq_true.mp h k hk
  split at h1
  · next m hm =>
    have h2 := Bool.and_eq_true_iff.mp h1
    exact ⟨m, ⟨hm, h2.1⟩, h2.2⟩
  · cases h1

theorem witness_JointOperations :
    (let s := quad (fun _ c => { c with ph := execPhase, mat := tiny c.mat, mq := { entries := [.cmd { instr := .mjoin mt, phase := some 0 }] } });
     MatrixIdle s ∧ InPhaseM (.mjoin mt) s ∧ s.core.attrs.joint = true ∧ mget 0 s.core.mat.cfg 0x22 ≠ 0 ∧
     (∀ k ∈ quadMembers s.cur, (coreOf s k).run ≠ .disabled) ∧
     (let g := geoOf mt s.core.mat.cfg s.core.mat.desc s.core.mat.unf;
      checkNest g mt.ga.toNat mt.gb.toNat s.core.mat.metas (some (qcOf s.cur)) = true ∧ ∃ u s1, nestTags (matFault 3) true mt g s = .ok u s1 ∧ true = true)) ∧
    (let s := quad (fun _ => arrived);
     s.input.core = s.cur ∧ s.cur ∈ quadMembers s.cur ∧
     ∀ k ∈ quadMembers s.cur, (coreOf s k).mat.arrival.isSome = true ∧ joinKey (coreOf s k) = joinKey s.core) ∧
    (let s := quad (fun k c => { (if k = 17 then { c with mat := tiny c.mat } else arrived c) with ph := { execPhase with exec := some { freshExec with joint := true } } });
     s.core.mat.arrival.map (·.tick) = some 4 ∧ (∃ k ∈ quadMembers s.cur, (coreOf s k).mat.arrival = none) ∧
     (mget 0 s.core.mat.cfg 0x22).toNat + 4 < s.pick.toNat ∧ ∀ k ∈ quadMembers s.cur, (coreOf s k).attrs.joint = true ∧ (match (coreOf s k).ph.exec with
       | some e => e.joint && e.has .matrix && (coreOf s k).mat.loss == 0
       | none => false) = true) := by
  refine ⟨⟨?_, ?_, ?_, ?_, ?_, ?_, ok_of ?_⟩, ?_⟩
  all_goals first
    | decide +kernel
    | (unfold MatrixIdle; decide +kernel)
    | (unfold InPhaseM; decide +kernel)

/-- JointOperations, of the steps: one that is due, one that is not because a member has no nest, and the end of the four nests. -/
theorem witness_JointOperations_steps :
    (let s := quad (fun _ => joined 0);
     s.input.core = s.cur ∧ s.cur ∈ quadMembers s.cur ∧ JointNest s s.cur (jointNest 0) ∧ nestFields (jointNest 0) = some mt ∧
     StepDue s (jointNest 0) ∧ ∃ p, (nestSteps (geoOf mt (tiny {}).cfg (tiny {}).desc []))[0]? = some p ∧
       stepMarks s s.cur (geoOf mt (tiny {}).cfg (tiny {}).desc []) (some (quartersOf s s.cur)) p = none) ∧
    (let s := quad (fun k c => if k = 17 then c else joined 0 c);
     JointNest s s.cur (jointNest 0) ∧ ¬StepDue s (jointNest 0)) ∧
    (let s := quad (fun _ => joined 1);
     JointNest s s.cur (jointNest 1) ∧ (nestSteps (geoOf mt (tiny {}).cfg (tiny {}).desc [])).length ≤ 1 ∧
     ∀ k ∈ quadMembers s.cur, ∃ m f, JointNest s k m ∧ nestFields m = some f ∧ (nestSteps (geoOf f m.cfg m.desc m.unf)).length ≤ m.issued) := by
  refine ⟨⟨?_, ?_, joint_of ?_ rfl, rfl, ⟨fun k hk => ?_, .inl ?_⟩, ⟨_, rfl, ?_⟩⟩, ⟨joint_of ?_ rfl, fun h => ?_⟩, joint_of ?_ rfl, ?_, fun k hk => ?_⟩
  case refine_4 =>
    obtain ⟨m, h1, h2⟩ := members_of (p := fun _ m => decide (0 ≤ m.issued)) (by decide +kernel) k hk
    exact ⟨m, h1, of_decide_eq_true h2⟩
  case refine_8 =>
    obtain ⟨m, h1, -⟩ := h.1 17 (by decide +kernel)
    have : (coreOf (quad (fun k c => if k = 17 then c else joined 0 c)) 17).mat.nest = none := by decide +kernel
    rw [JointNest, this] at h1
    cases h1.1
  case refine_11 =>
    obtain ⟨m, h1, h2⟩ := members_of (p := fun _ m => match nestFields m with
      | some f => decide ((nestSteps (geoOf f m.cfg m.desc m.unf)).length ≤ m.issued)
      | none => false) (by decide +kernel) k hk
    split at h2
    · next f hf => exact ⟨m, f, h1, hf, of_decide_eq_true h2⟩
    · cases h2
  all_goals decide +kernel

theorem witness_BankCommands :
    MatrixIdle (atMatrix (.msave ⟨1, 2, true⟩)) ∧ ¬InPhaseM (.msave ⟨1, 2, true⟩) (atMatrix (.msave ⟨1, 2, true⟩)) ∧
    (let s := atMatrix (.mload ⟨1, 2, true⟩) execPhase (some 0);
     MatrixIdle s ∧ InPhaseM (.mload ⟨1, 2, true⟩) s ∧ (∀ e, s.core.ph.exec = some e → bit e.slotsRead 2 = false) ∧ s.core.outbuf.length < 256 ∧
     ∀ k, k < 4 → (mget {} s.core.mat.metas k).mode < 4) := by
  unfold MatrixIdle InPhaseM
  refine ⟨by decide +kernel, by decide +kernel, by decide +kernel, by decide +kernel, ?_, by decide +kernel⟩
  intro e h
  cases h
  decide

/-- WriteBack: one row of FP32 into tile 5 at a pitch of 384, without and with a fill of its EMPTY tile, its bound off. -/
theorem witness_WriteBack :
    let s := fun f => atMatrix (.mout f) {} none (fun m => { m with cfg := [(0x23, 384 * 2 ^ 16 + 1)] });
    (∀ tag ∈ ([0, 1] : List (BitVec 2)), let f : MO := ⟨0, 5, tag, 0, 0, true, 3, true⟩;
      MatrixIdle (s f) ∧ 0 < bits (mget 0 (s f).core.mat.cfg 0x23) 5 0 ∧ 96 * tySize f.ty ≤ bits (mget 0 (s f).core.mat.cfg 0x23) 31 16 ∧
      384 ≤ (64 - 5) * 4096 ∧ inPhase (s f) (headOr (s f) .matrix (.mout f)) = false ∧ bit (s f).core.tiles.tag 5 = false ∧
      grantsOf (s f).core .matrix = [] ∧ (Bound.ofWord (mget (0 : BitVec 256) (s f).core.mat.bounds f.k.toNat)).action = 0) ∧
    ∀ tag, voidMask (matFault 6) false (s ⟨0, 5, tag, 0, 0, true, 3, true⟩) = .ok 0 (s ⟨0, 5, tag, 0, 0, true, 3, true⟩) := by
  refine ⟨?_, fun tag => rfl⟩
  unfold MatrixIdle
  decide +kernel

/-- BoundChecks: bounds of each action from 0 to 1 in FP32, a refused one, and elements within and beyond them. -/
def boundOf (action : Nat) (int : Bool) : BitVec 256 := BitVec.ofNat 256 (0x3F800000 * 2 ^ 32 + action * 2 ^ 64 + (if int then 2 ^ 66 else 0))

theorem witness_BoundChecks :
    (Bound.ofWord 0).action = 0 ∧ (Bound.ofWord (boundOf 1 true)).refused 0 = true ∧
    (∀ a ∈ [1, 2, 3], (Bound.ofWord (boundOf a false)).action = a ∧ (Bound.ofWord (boundOf a false)).refused 0 = false ∧
      ((Bound.ofWord (boundOf a false)).check 0 0x3F800000).1 = false ∧ ((Bound.ofWord (boundOf a false)).check 0 0x40000000).1 = true) ∧
    base.core.mat.bretry = false := by decide +kernel

theorem witness_DrawConfiguration :
    MatrixIdle base ∧ MxOperand ⟨4, 0, true, .none⟩ base base 7 ∧ base.core.outbuf.length < 256 ∧ DcfgValue 0 (48 * 2 ^ 8 + 0) ∧
    DcfgValue 1 (7 * 2 ^ 32 + 384 * 2 ^ 16) ∧ DcfgValue 2 261376 ∧ DcfgValue 3 (4095 * 2 ^ 36 + 262080 * 2 ^ 18) ∧ DcfgValue 4 (65536 * 2 ^ 32) ∧
    ¬DcfgValue 0 (48 * 2 ^ 8 + 1) := by
  refine ⟨by unfold MatrixIdle; decide +kernel, .inr ⟨rfl, rfl⟩, by decide +kernel, .inl ⟨rfl, 0, 48, by decide⟩,
    .inr (.inl ⟨rfl, 7, 384, 0, by decide⟩), .inr (.inr (.inl (by decide))), .inr (.inr (.inr (.inl ⟨rfl, 4095, 262080, 0, by decide⟩))),
    .inr (.inr (.inr (.inr ⟨rfl, 65536, 0, by decide⟩))), ?_⟩
  rintro (⟨-, row, n, h⟩ | h)
  · have := h.2.2
    simp at this
    omega
  · simp at h

theorem witness_DrawLists :
    (∀ e ∈ ([(3, 0xFF800000), (7, 0xFF800000)] : List (Nat × Nat)), e.2 = 0xFF800000) ∧
    (([(3, 0xFF800000), (7, 0xFF800000)] : List (Nat × Nat)).map (·.1)).Nodup ∧ ([3, 7] : List Nat).Pairwise (· < ·) ∧ (5 : Nat) < 2 ^ 24 ∧
    0 < acceptCount ⟨1, [3], [(1, [(3, 0x3F800000)]), (1, [])], [(1, [(3, 0x3F800000)])]⟩ 5 := by decide +kernel

/-- Base with one row to draw: its record at 0x2000, two candidates at 0, its distribution at 0x1000, clusters at 0x3000, a draft record
in tile 4 whose two target lists stand at 0x5000 and 0x5040 and whose draft list at 0x5000. -/
def drawing (i : Instr) : State :=
  let put := fun a n x (c : Core) => c.writeScratch a (leBytes n x) {}
  let cfg : SMap Word := [(0, 0x100), (1, 0x20000), (2, 0x2000), (3, 2 ^ 36 + 0x1000 * 2 ^ 18), (4, 16 * 2 ^ 32 + 0x3000)]
  let s := atMatrix i
  let one := fun a c => put a 16 (1 + 2 ^ 32 + 3 * 2 ^ 64 + 0x3F800000 * 2 ^ 96) c
  let c := { s.core with draw := { s.core.draw with cfg := cfg } }
  let c := put 0x2000 12 (0x3F800000 + 0x3F800000 * 2 ^ 32 + 4 * 2 ^ 64) c
  let c := put 0 24 (2 + 3 * 2 ^ 64 + 0x3F800000 * 2 ^ 96 + 7 * 2 ^ 128) c
  let c := one 0x5000 (one 0x5040 c)
  { s with core := put 0x4000 56 (1 + 3 * 2 ^ 32 + 0x140 * 2 ^ 288 + 0x141 * 2 ^ 304 + 0x140 * 2 ^ 432) c }

def drawMt : MT := ⟨0, 4, 0, 0, 0, true, 1⟩
def drawnRow : RowRec := ⟨0x3F800000, fp32.decode 0x3F800000, 4, false⟩
def drawnList : List ListEntry := [(3, 0x3F800000), (7, 0)]

theorem is_of {α : Type} [DecidableEq α] {r : EStateM.Result Stop State α} {a : α} {s : State}
    (h : okAnd r (fun v t => decide (v = a) && decide (t = s)) = true) : r = .ok a s := by
  obtain ⟨v, t, rfl, h⟩ := ok_of h
  obtain ⟨h1, h2⟩ := Bool.and_eq_true_iff.mp h
  rw [of_decide_eq_true h1, of_decide_eq_true h2]

/-- DrawResults: each drawing command on one row that is not void; DCLUS's cluster and its table; DACCEPT's draft record; DGRAM's list. -/
theorem witness_DrawResults :
    (∀ p ∈ [(Instr.dsamp drawMt, 0x25), (.dclus drawMt, 0x26), (.dargmax drawMt, 0x28)],
      OneRow p.1 p.2 (drawing p.1) (drawing p.1) 0 0 drawnRow drawnList) ∧
    (let s := drawing (.dclus drawMt);
     (∀ e ∈ drawnList, e.1 < bits (mget 0 s.core.draw.cfg 4) 48 32) ∧ 0 < bits (mget 0 s.core.draw.cfg 4) 48 32 ∧
     okAnd (drawRow (matFault 0x26) false true 0 s) (fun r s2 =>
       let d := distribution drawnRow.topp drawnList
       decide (r = (drawList ((streamWord (rowStream s.core 0)).toNat / 256) d, replyStatus d.1)) && decide (r.1 = some 3) &&
       okAnd (readSp (matFault 0x26) false (0x3000 + 4 * 3) 4 s2) (fun _ t => decide (t = s2))) = true) ∧
    (let s := drawing (.daccept drawMt);
     MatrixIdle s ∧ ¬InPhaseM (.daccept drawMt) s ∧ drawRows (matFault 0x27) false s = .ok ([0], 0) s ∧ (0 : Nat).testBit 0 = false ∧
     drawMt.ga = 0 ∧ drawMt.ta.toNat + 0 / 32 < 64 ∧ s.core.outbuf.length < 256 ∧
     ∃ dr, draftRecord (matFault 0x27) false (4096 * 4) s = .ok dr s) ∧
    (let s := drawing (.dgram drawMt);
     MatrixIdle s ∧ ¬InPhaseM (.dgram drawMt) s ∧ 0 < bits (mget 0 s.core.draw.cfg 1) 24 16 ∧ 0 < bits (mget 0 s.core.draw.cfg 3) 47 36 ∧
     (∀ k, k < 4 → (mget {} s.core.mat.metas k).mode = 0) ∧ drawRows (matFault 0x24) false s = .ok ([0], 0) s ∧
     (rowStream s.core 0).tbase ≠ 0xFFFFFFFF ∧ rowRecord (matFault 0x24) false 0 s = .ok drawnRow s ∧
     checkLists (matFault 0x24) [(0, drawnRow)] s = .ok () s ∧ bit drawMt.mode 0 = true ∧
     storedCandidates (matFault 0x24) false (0, drawnRow) s = .ok drawnList s ∧ drawnRow.gram = false) := by
  refine ⟨?_, ⟨?_, ?_, ?_⟩, ⟨?_, ?_, is_of ?_, ?_, ?_, ?_, ?_, ⟨_, is_of (a := ⟨1, [3], [(1, [(3, 0x3F800000)]), (1, [(3, 0x3F800000)])], [(1, [(3, 0x3F800000)])]⟩) ?_⟩⟩,
    ?_, ?_, ?_, ?_, ?_, is_of ?_, ?_, is_of ?_, is_of ?_, ?_, is_of ?_, ?_⟩
  · intro p hp
    simp only [List.mem_cons, List.not_mem_nil, or_false] at hp
    rcases hp with rfl | rfl | rfl <;>
    · refine ⟨?_, ?_, is_of ?_, ?_, is_of ?_, ?_, ?_⟩
      all_goals first
        | decide +kernel
        | (unfold MatrixIdle; decide +kernel)
        | (unfold InPhaseM; decide +kernel)
  all_goals first
    | decide +kernel
    | (unfold MatrixIdle; decide +kernel)
    | (unfold InPhaseM; decide +kernel)

/-- 64 ones by 64 ones add 64 to an FP32 element (R70, R72). -/
theorem test_nest_adds_a_unit :
    let ones := List.replicate 64 (0x38 : Byte)
    let c := (base.core.writeScratch 0 ones {}).writeScratch 0x1000 ones {}
    nextAnd (exec .nestComplete { base with core := nesting false c }) (fun t =>
      t.core.win.readN 0x40000 4 == [0, 0, 0x80, 0x42] && mget 0 t.core.flags 1 == 1) = true := by decide +kernel
theorem test_mzero_mode : nextAnd (exec (.mzero ⟨1, 2, false⟩) base) (fun t => (mget {} t.core.mat.metas 1).mode == 2 && (mget {} t.core.mat.metas 5).mode == 2) = true := by
  decide +kernel
theorem test_mout_int8 : nextAnd (exec (.mout ⟨0, 5, 1, 7, 0, false, 0, true⟩)
      { base with core := { base.core with
        win := Memory.write base.core.win 0x40000 [0x2C, 1, 0, 0, 0xFE, 0xFF, 0xFF, 0xFF]
        mat := { base.core.mat with metas := [(0, { mode := 2 })], cfg := [(0x23, 96 * 2 ^ 16 + 64 + 1)] } } })
    (fun t => t.core.win.readN 0x5000 3 == [0x7F, 0xFE, 0] && bit t.core.tiles.tag 5 && (mget {} t.core.mat.metas 0).sat) = true := by decide +kernel
theorem test_dargmax_ranks : nextAnd (exec (.dargmax drawMt) (drawing (.dargmax drawMt))) (fun t => t.core.outbuf == [(3, false)]) = true := by
  decide +kernel
/-- RFC 8439, appendix A.1, vector 1: with a zero key, nonce and counter the first word is 0xade0b876. -/
theorem test_chacha : streamWord {} = 0xade0b876 := by decide +kernel

/-! ### The Ferry -/

/-- Base with a Ferry command at its head, its operand captured, n sectors of tile 5 to move. -/
def ferrying (i : Instr) (f : FM) (v : Word) (n : Nat := 1) : State :=
  let c := { base.core with tiles := { base.core.tiles with tlen := [(5, 64 * n)] } }
  { base with core := c.setQueue (ferryQueue f) { entries := [.cmd { instr := i, opa := some v }] } }

/-- The command stands at the head, outside a phase. -/
def stands (i : Instr) (f : FM) (s : State) (v : Word) (c : Cmd) : Bool :=
  decide (InPhaseF f i s = false ∧ (s.core.queue (ferryQueue f)).headCmd = some c ∧ c.opa = some v ∧ c.instr = i ∧ c.relp = false ∧ f.acq = false)

theorem head_of {i : Instr} {f : FM} {s : State} {v : Word} {c : Cmd} (h : stands i f s v c = true) : FerryHead i f s s v c := by
  obtain ⟨h1, h2, h3, h4, h5, h6⟩ := of_decide_eq_true h
  refine ⟨fun _ => h1, ?_, h2, h4, h5, fun h => by simp [h6] at h⟩
  simp [engOperand, h2, h3, bind, EStateM.bind, get, getThe, MonadStateOf.get, EStateM.get, pure, EStateM.pure]

/-- The command waits for none of its writes. -/
def performed (f : FM) (s : State) : Bool :=
  !f.rel && !unackedUpTo s s.cur (s.core.queue (ferryQueue f)).headPos

theorem performed_of {f : FM} {s : State} (h : performed f s = true) : WritesDone f s := by
  simp only [performed, Bool.and_eq_true, Bool.not_eq_true'] at h
  exact ⟨fun hr => by simp [h.1] at hr, fun _ => h.2⟩

/-- The first turn of a register-form command of n sectors. -/
def RegisterMet (n : Nat) (i : Instr) (f : FM) (opc : Nat) (dst : Bool) (legal : Word → Nat → State → Prop)
    (moves : FerryCtx → Word → Nat → Cmd → State → Bool → State → Prop) : Prop :=
  ∃ (s s3 s4 : State) (v : Word) (c c3 : Cmd) (logged : Bool),
    let q := ferryQueue f
    let held := { c with len := some (64 * n), acqd := f.acq }
    FerryHead i f s s v c ∧ InPhaseF f i s = false ∧ c.len = none ∧ s.core.tiles.len f.tile.toNat = 64 * n ∧ legal v (64 * n) s ∧
    ferryTags (ferryCtx f opc false []) dst [f.tile.toNat] held (headKept q held s) = .ok c3 s3 ∧ c3.sect = 0 ∧ WritesDone f s3 ∧
    moves (ferryCtx f opc false (pageAhead v.toNat (v.toNat + 64 * n))) v 0 c3 s3 logged s4 ∧
    WritesDone f (headKept q { c3 with sect := 1, bytes := c3.bytes + 64, logged := c3.logged || logged } s4)

theorem registerMet_of {n : Nat} {i : Instr} {f : FM} {opc : Nat} {dst : Bool} {legal : Word → Nat → State → Prop}
    {moves : FerryCtx → Word → Nat → Cmd → State → Bool → State → Prop}
    (v : Word) (mv : FerryCtx → Cmd → State → EStateM.Result Stop State (Bool × State)) (hl : legal v (64 * n) (ferrying i f v n))
    (hm : ∀ x c s r t, mv x c s = .ok r t → moves x v 0 c s r.1 r.2)
    (h : (let s := ferrying i f v n
      let c : Cmd := { instr := i, opa := some v }
      let held : Cmd := { c with len := some (64 * n), acqd := f.acq }
      stands i f s v c && decide (s.core.tiles.len f.tile.toNat = 64 * n) &&
      okAnd (ferryTags (ferryCtx f opc false []) dst [f.tile.toNat] held (headKept (ferryQueue f) held s)) (fun c3 s3 =>
          decide (c3.sect = 0) && performed f s3 &&
          okAnd (mv (ferryCtx f opc false (pageAhead v.toNat (v.toNat + 64 * n))) c3 s3) (fun r _ => performed f (headKept (ferryQueue f)
            { c3 with sect := 1, bytes := c3.bytes + 64, logged := c3.logged || r.1 } r.2)))) = true) :
    RegisterMet n i f opc dst legal moves := by
  obtain ⟨h1, h2⟩ := Bool.and_eq_true_iff.mp h
  obtain ⟨ha, hb⟩ := Bool.and_eq_true_iff.mp h1
  obtain ⟨c3, s3, h3, h4⟩ := ok_of h2
  obtain ⟨h5, h6⟩ := Bool.and_eq_true_iff.mp h4
  obtain ⟨hd, he⟩ := Bool.and_eq_true_iff.mp h5
  obtain ⟨r, t, h7, h8⟩ := ok_of h6
  exact ⟨_, s3, r.2, v, _, c3, r.1, head_of ha, (of_decide_eq_true ha).1, rfl, of_decide_eq_true hb, hl, h3, of_decide_eq_true hd, performed_of he,
    hm _ _ _ _ _ h7, performed_of h8⟩

/-- What a move answers, as a pair. -/
def paired (r : EStateM.Result Stop State Bool) : EStateM.Result Stop State (Bool × State) :=
  match r with
  | .ok b t => .ok (b, t) t
  | .error e t => .error e t

theorem paired_of {r : EStateM.Result Stop State Bool} {p : Bool × State} {t : State} (h : paired r = .ok p t) : r = .ok p.1 p.2 := by
  cases r with
  | ok b u => cases h; rfl
  | error => cases h

/-- A sector brought into a tile, a sector sent to the near map, as pairs. -/
def brought (x : FerryCtx) (off : Nat) (a : Word) (s : State) : EStateM.Result Stop State (Bool × State) :=
  match fetchSector x a s with
  | .ok r t => .ok (false, intoTile x off r.data r.marks t) t
  | .error e t => .error e t
def nearby (x : FerryCtx) (a : Word) (v : BitVec 512 × Marks) (s : State) : EStateM.Result Stop State (Bool × State) :=
  match nearSector x a v.1 v.2 s with
  | .ok _ t => .ok (false, t) t
  | .error e t => .error e t

theorem brought_of {x : FerryCtx} {off : Nat} {a : Word} {s t : State} {r : Bool × State} (h : brought x off a s = .ok r t) :
    r.1 = false ∧ ∃ q u, fetchSector x a s = .ok q u ∧ r.2 = intoTile x off q.data q.marks u := by
  unfold brought at h
  split at h
  · next q u hq => cases h; exact ⟨rfl, _, _, hq, rfl⟩
  · cases h
theorem nearby_of {x : FerryCtx} {a : Word} {v : BitVec 512 × Marks} {s t : State} {r : Bool × State} (h : nearby x a v s = .ok r t) :
    r.1 = false ∧ nearSector x a v.1 v.2 s = .ok () r.2 := by
  unfold nearby at h
  split at h
  · next q u hq => cases h; exact ⟨rfl, hq⟩
  · cases h

def fm (st : Bool) (tag : BitVec 2) : FM := ⟨st, 5, tag, 0, false, false, 0, true, 3⟩

/-- FerryRegisterForms: a load of mapped memory, a store, a tile to another scratchpad, a write of the near map, a fill; each of one sector,
its last, and of two. -/
theorem witness_FerryRegisterForms : ∀ n ∈ [1, 2],
    (let f := fm false 0;
     RegisterMet n (.fld f) f 0x01 true (fun v _ s => checkMem (ferryFault f.st 0x01) v s = .ok () s) (fun x v k _ s logged s' => logged = false ∧
      ∃ r t, fetchSector x (v + BitVec.ofNat 64 (64 * k)) s = .ok r t ∧ s' = intoTile x (4096 * f.tile.toNat + 64 * k) r.data r.marks t)) ∧
    (let f := fm true 0;
     RegisterMet n (.fst f) f 0x03 false (fun v _ s => checkMem (ferryFault f.st 0x03) v s = .ok () s) (fun x v k c s logged s' =>
      storeSector x c 0 (v + BitVec.ofNat 64 (64 * k)) (scratchSector s (4096 * f.tile.toNat + 64 * k)).1
        (scratchSector s (4096 * f.tile.toNat + 64 * k)).2 s = .ok logged s')) ∧
    (let f := fm true 0;
     RegisterMet n (.ftt f) f 0x05 false (fun v n s => checkScratch (ferryFault f.st 0x05) v n s = .ok () s) (fun x v k _ s logged s' => logged = false ∧
      nearSector x (v + BitVec.ofNat 64 (64 * k)) (scratchSector s (4096 * f.tile.toNat + 64 * k)).1
        (scratchSector s (4096 * f.tile.toNat + 64 * k)).2 s = .ok () s')) ∧
    (let f := fm true 0;
     RegisterMet n (.fnear f) f 0x0B false (fun v n s => checkRegion (ferryFault f.st 0x0B) v n s = .ok () s) (fun x v k _ s logged s' => logged = false ∧
      nearSector x (v + BitVec.ofNat 64 (64 * k)) (scratchSector s (4096 * f.tile.toNat + 64 * k)).1
        (scratchSector s (4096 * f.tile.toNat + 64 * k)).2 s = .ok () s')) ∧
    (let f := fm false 1;
     RegisterMet n (.ffill f) f 0x0A true (fun _ _ _ => True) (fun x v k _ s logged s' => logged = false ∧
      ∃ p : BitVec 512, (∀ j, j < 8 → p.extractLsb' (64 * j) 64 = v) ∧ s' = intoTile x (4096 * f.tile.toNat + 64 * k) p {} s)) := by
  intro n hn
  simp only [List.mem_cons, List.not_mem_nil, or_false] at hn
  rcases hn with rfl | rfl <;>
  refine ⟨registerMet_of 0x30000 (fun x _ s => brought x 0x5000 0x30000 s) (is_of ?_) (fun _ _ _ _ _ h => brought_of h) ?_,
    registerMet_of 0x30000 (fun x c s => paired (storeSector x c 0 0x30000 (scratchSector s 0x5000).1 (scratchSector s 0x5000).2 s))
      (is_of ?_) (fun _ _ _ _ _ h => paired_of h) ?_,
    registerMet_of 0x100000 (fun x _ s => nearby x 0x100000 (scratchSector s 0x5000) s) (is_of ?_) (fun _ _ _ _ _ h => nearby_of h) ?_,
    registerMet_of 0x180000 (fun x _ s => nearby x 0x180000 (scratchSector s 0x5000) s) (is_of ?_) (fun _ _ _ _ _ h => nearby_of h) ?_,
    registerMet_of 7 (fun x _ s => .ok (false, intoTile x 0x5000 (BitVec.ofNat 512 (leNat ((List.range 8).flatMap (fun _ => leBytes 8 7)))) {} s) s)
      trivial (fun _ _ _ _ _ h => by cases h; exact ⟨rfl, _, by decide +kernel, rfl⟩) ?_⟩ <;> decide +kernel

/-- The first turn of a parameter-block command of `rows` rows of `rowb` bytes. -/
def BlockMet (rows rowb : Nat) (i : Instr) (f : FM) (opc : Nat) (dst indexed reduces : Bool) (first : PBlock → State → Prop)
    (addr : FerryCtx → PBlock → Nat → State → Word → State → Prop)
    (moves : FerryCtx → PBlock → Nat → Word → Cmd → State → Bool → State → Prop) : Prop :=
  ∃ (s s3 s4 : State) (a m : Word) (c c3 : Cmd) (d : BitVec 512) (logged : Bool),
    let q := ferryQueue f
    let x := ferryCtx f opc false
    let b := PBlock.of d
    let ts := (List.range b.nt).map (f.tile.toNat + ·)
    let held := { c with block := some d, acqd := f.acq }
    FerryHead i f s s a c ∧ InPhaseF f i s = false ∧ c.block = none ∧ b.rows = rows ∧ b.rowb = rowb ∧ readBlock (x []) a s = .ok d s ∧ first b s ∧
    b.ok f.tile.toNat indexed reduces = true ∧ ferryTags (x []) dst ts held (headKept q held s) = .ok c3 s3 ∧
    c3.len = none ∧ c3.row = 0 ∧ c3.sect = 0 ∧ addr (x []) b 0 s3 m s3 ∧ WritesDone f (headKept q { c3 with len := some m.toNat } s3) ∧
    moves (x (b.rest indexed 0 m)) b (4096 * f.tile.toNat + b.toff) m { c3 with len := some m.toNat } (headKept q { c3 with len := some m.toNat } s3) logged s4 ∧
    WritesDone f (headKept q { c3 with row := 1, sect := 0, len := none, bytes := c3.bytes + 64, logged := c3.logged || logged } s4)

/-- A block of rows at m from tile 5 on; with op, and for the indexed forms tile 7. -/
def blockData (m : Nat) (op xt : Nat) (rows : Nat := 1) (rowb : Nat := 64) : BitVec 512 :=
  BitVec.ofNat 512 (m + 128 * 2 ^ 64 + rowb * 2 ^ 128 + rows * 2 ^ 160 + 2 ^ 208 + op * 2 ^ 216 + xt * 2 ^ 224)

/-- A block command at its head, its block at 0x40 cached. -/
def blocking (i : Instr) (f : FM) (d : BitVec 512) : State :=
  let s := ferrying i f 0x40
  { s with core := { s.core with pbc := [⟨s.core.attrs.asn.toNat, 0x40, d⟩] } }

/-- The state in which a block command with no tag action has its tags. -/
def tagged (i : Instr) (f : FM) (d : BitVec 512) : State :=
  headKept (ferryQueue f) { instr := i, opa := some 0x40, block := some d, acqd := f.acq, tags := true } (blocking i f d)

theorem blockMet_of {rows rowb : Nat} {i : Instr} {f : FM} {opc : Nat} {dst indexed reduces : Bool} {first : PBlock → State → Prop}
    {addr : FerryCtx → PBlock → Nat → State → Word → State → Prop}
    {moves : FerryCtx → PBlock → Nat → Word → Cmd → State → Bool → State → Prop} (d : BitVec 512) (m : Word)
    (mv : FerryCtx → Cmd → State → EStateM.Result Stop State (Bool × State)) (hf : first (PBlock.of d) (blocking i f d))
    (hb : okAnd (readBlock (ferryCtx f opc false []) 0x40 (blocking i f d)) (fun v t => decide (v = d) && decide (t = blocking i f d)) = true)
    (ha : addr (ferryCtx f opc false []) (PBlock.of d) 0 (tagged i f d) m (tagged i f d))
    (hm : ∀ x c s r t, mv x c s = .ok r t → moves x (PBlock.of d) (4096 * f.tile.toNat + (PBlock.of d).toff) m c s r.1 r.2)
    (h : (let s := blocking i f d
      let c : Cmd := { instr := i, opa := some 0x40 }
      let b := PBlock.of d
      let held : Cmd := { c with block := some d, acqd := f.acq }
      stands i f s 0x40 c && decide (b.ok f.tile.toNat indexed reduces = true ∧ b.rows = rows ∧ b.rowb = rowb) &&
      okAnd (ferryTags (ferryCtx f opc false []) dst ((List.range b.nt).map (f.tile.toNat + ·)) held (headKept (ferryQueue f) held s)) (fun c3 s3 =>
          decide (s3 = tagged i f d) && decide (c3.sect = 0 ∧ c3.row = 0 ∧ c3.len = none) &&
          performed f (headKept (ferryQueue f) { c3 with len := some m.toNat } s3) &&
          okAnd (mv (ferryCtx f opc false (b.rest indexed 0 m)) { c3 with len := some m.toNat } (headKept (ferryQueue f) { c3 with len := some m.toNat } s3))
            (fun r _ => performed f (headKept (ferryQueue f)
              { c3 with row := 1, sect := 0, len := none, bytes := c3.bytes + 64, logged := c3.logged || r.1 } r.2)))) = true) :
    BlockMet rows rowb i f opc dst indexed reduces first addr moves := by
  obtain ⟨h1, h2⟩ := Bool.and_eq_true_iff.mp h
  obtain ⟨hs, hk⟩ := Bool.and_eq_true_iff.mp h1
  obtain ⟨hok, hr, hw⟩ := of_decide_eq_true hk
  obtain ⟨c3, s3, h3, h4⟩ := ok_of h2
  obtain ⟨h5, h6⟩ := Bool.and_eq_true_iff.mp h4
  obtain ⟨h7, hp⟩ := Bool.and_eq_true_iff.mp h5
  obtain ⟨ht, hz⟩ := Bool.and_eq_true_iff.mp h7
  cases of_decide_eq_true ht
  obtain ⟨hsect, hrow, hlen⟩ := of_decide_eq_true hz
  obtain ⟨r, t, hmv, h8⟩ := ok_of h6
  exact ⟨_, _, r.2, 0x40, m, _, c3, d, r.1, head_of hs, (of_decide_eq_true hs).1, rfl, hr, hw, is_of hb, hf, hok, h3, hlen, hrow, hsect, ha, performed_of hp,
    hm _ _ _ _ _ hmv, performed_of h8⟩

/-- The first sector of the rows in the span. -/
abbrev spanStart (f : FM) (d : BitVec 512) : Nat := 4096 * f.tile.toNat + (PBlock.of d).toff

def storing (x : FerryCtx) (c : Cmd) (op : Nat) (o : Nat) (s : State) : EStateM.Result Stop State (Bool × State) :=
  paired (storeSector x c op 0x30000 (scratchSector s o).1 (scratchSector s o).2 s)

/-- A load and a store, direct and indexed, rows to a scratchpad, a reduction, each of `rows` rows of `rowb` bytes. -/
def BlockFormsMet (rows rowb : Nat) : Prop :=
    let direct := fun (x : FerryCtx) (b : PBlock) (r : Nat) (s : State) (m : Word) (s' : State) =>
      m = b.maddr + BitVec.ofNat 64 r * b.mstride ∧ s' = s ∧ checkMem x.fault m s = .ok () s;
    let indexed := fun (x : FerryCtx) (b : PBlock) (r : Nat) (s : State) (m : Word) (s' : State) =>
      let off := 4096 * b.xt + b.xoff + 4 * r
      m = b.maddr + BitVec.ofNat 64 (leNat (s.core.win.readN off 4)) * b.mstride ∧ bad s (s.core.tiles.mark (off / 64)) = false ∧
        s' = { s with core := phaseNote x.ph (fun e => { e with readTiles := setBit e.readTiles b.xt true }) s.core } ∧
        checkMem x.fault m s' = .ok () s';
    let load := fun (x : FerryCtx) (_ : PBlock) (off : Nat) (m : Word) (_ : Cmd) (s : State) (logged : Bool) (s' : State) => logged = false ∧
      ∃ r t, fetchSector x m s = .ok r t ∧ s' = intoTile x off r.data r.marks t;
    let store := fun (op : PBlock → Nat) (x : FerryCtx) (b : PBlock) (off : Nat) (m : Word) (c : Cmd) (s : State) (logged : Bool) (s' : State) =>
      storeSector x c (op b) m (scratchSector s off).1 (scratchSector s off).2 s = .ok logged s';
    let mem := fun (f : FM) (opc : Nat) (b : PBlock) (s : State) => checkMem (ferryFault f.st opc) b.maddr s = .ok () s;
    (let f := fm false 0; BlockMet rows rowb (.fldp f) f 0x02 true false false (mem f 0x02) direct load) ∧
    (let f := fm true 0; BlockMet rows rowb (.fstp f) f 0x04 false false false (mem f 0x04) direct (store (fun _ => 0))) ∧
    (let f := fm true 0; BlockMet rows rowb (.fttp f) f 0x06 false false false
      (fun b s => ∀ r, r < b.rows → checkScratch (ferryFault f.st 0x06) (b.maddr + BitVec.ofNat 64 r * b.mstride) b.rowb s = .ok () s)
      (fun x b r s m s' => m = b.maddr + BitVec.ofNat 64 r * b.mstride ∧ s' = s ∧ checkScratch x.fault m b.rowb s = .ok () s)
      (fun x _ off m _ s logged s' => logged = false ∧ nearSector x m (scratchSector s off).1 (scratchSector s off).2 s = .ok () s')) ∧
    (let f := fm false 0; BlockMet rows rowb (.fswi f) f 0x09 true true false (fun _ _ => True) indexed load) ∧
    (let f := fm true 0; BlockMet rows rowb (.fswp f) f 0x08 false true false (fun _ _ => True) indexed (store (fun _ => 0))) ∧
    (let f := fm true 0; BlockMet rows rowb (.fred f) f 0x0C false false true (mem f 0x0C) direct (store (fun b => 1 + b.op)))

theorem blocks_one_sector : BlockFormsMet 1 64 := by
  unfold BlockFormsMet
  refine ⟨blockMet_of (blockData 0x30000 0 0 1 64) 0x30000 (fun x _ s => brought x (spanStart (fm false 0) (blockData 0x30000 0 0 1 64)) 0x30000 s) (is_of ?_) ?_ ⟨?_, rfl, is_of ?_⟩
      (fun _ _ _ _ _ h => brought_of h) ?_,
    blockMet_of (blockData 0x30000 0 0 1 64) 0x30000 (fun x c s => storing x c 0 (spanStart (fm true 0) (blockData 0x30000 0 0 1 64)) s) (is_of ?_) ?_ ⟨?_, rfl, is_of ?_⟩ (fun _ _ _ _ _ h => paired_of h) ?_,
    blockMet_of (blockData 0x100000 0 0 1 64) 0x100000 (fun x _ s => nearby x 0x100000 (scratchSector s (spanStart (fm true 0) (blockData 0x100000 0 0 1 64))) s) ?fttp ?_ ⟨?_, rfl, is_of ?_⟩
      (fun _ _ _ _ _ h => nearby_of h) ?_,
    blockMet_of (blockData 0x30000 0 7 1 64) 0x30000 (fun x _ s => brought x (spanStart (fm false 0) (blockData 0x30000 0 7 1 64)) 0x30000 s) trivial ?_ ⟨?_, ?_, rfl, is_of ?_⟩
      (fun _ _ _ _ _ h => brought_of h) ?_,
    blockMet_of (blockData 0x30000 0 7 1 64) 0x30000 (fun x c s => storing x c 0 (spanStart (fm true 0) (blockData 0x30000 0 7 1 64)) s) trivial ?_ ⟨?_, ?_, rfl, is_of ?_⟩ (fun _ _ _ _ _ h => paired_of h) ?_,
    blockMet_of (blockData 0x30000 1 0 1 64) 0x30000 (fun x c s => storing x c (1 + (PBlock.of (blockData 0x30000 1 0 1 64)).op) (spanStart (fm true 0) (blockData 0x30000 1 0 1 64)) s) (is_of ?_) ?_
      ⟨?_, rfl, is_of ?_⟩ (fun _ _ _ _ _ h => paired_of h) ?_⟩
  all_goals first
    | decide +kernel
    | (intro r hr
       have hr : r = 0 ∨ r = 1 := by
         have h2 : r < 2 := Nat.lt_of_lt_of_le hr (by decide +kernel)
         omega
       rcases hr with rfl | rfl <;> exact is_of (by decide +kernel))

theorem blocks_two_rows : BlockFormsMet 2 64 := by
  unfold BlockFormsMet
  refine ⟨blockMet_of (blockData 0x30000 0 0 2 64) 0x30000 (fun x _ s => brought x (spanStart (fm false 0) (blockData 0x30000 0 0 2 64)) 0x30000 s) (is_of ?_) ?_ ⟨?_, rfl, is_of ?_⟩
      (fun _ _ _ _ _ h => brought_of h) ?_,
    blockMet_of (blockData 0x30000 0 0 2 64) 0x30000 (fun x c s => storing x c 0 (spanStart (fm true 0) (blockData 0x30000 0 0 2 64)) s) (is_of ?_) ?_ ⟨?_, rfl, is_of ?_⟩ (fun _ _ _ _ _ h => paired_of h) ?_,
    blockMet_of (blockData 0x100000 0 0 2 64) 0x100000 (fun x _ s => nearby x 0x100000 (scratchSector s (spanStart (fm true 0) (blockData 0x100000 0 0 2 64))) s) ?fttp ?_ ⟨?_, rfl, is_of ?_⟩
      (fun _ _ _ _ _ h => nearby_of h) ?_,
    blockMet_of (blockData 0x30000 0 7 2 64) 0x30000 (fun x _ s => brought x (spanStart (fm false 0) (blockData 0x30000 0 7 2 64)) 0x30000 s) trivial ?_ ⟨?_, ?_, rfl, is_of ?_⟩
      (fun _ _ _ _ _ h => brought_of h) ?_,
    blockMet_of (blockData 0x30000 0 7 2 64) 0x30000 (fun x c s => storing x c 0 (spanStart (fm true 0) (blockData 0x30000 0 7 2 64)) s) trivial ?_ ⟨?_, ?_, rfl, is_of ?_⟩ (fun _ _ _ _ _ h => paired_of h) ?_,
    blockMet_of (blockData 0x30000 1 0 2 64) 0x30000 (fun x c s => storing x c (1 + (PBlock.of (blockData 0x30000 1 0 2 64)).op) (spanStart (fm true 0) (blockData 0x30000 1 0 2 64)) s) (is_of ?_) ?_
      ⟨?_, rfl, is_of ?_⟩ (fun _ _ _ _ _ h => paired_of h) ?_⟩
  all_goals first
    | decide +kernel
    | (intro r hr
       have hr : r = 0 ∨ r = 1 := by
         have h2 : r < 2 := Nat.lt_of_lt_of_le hr (by decide +kernel)
         omega
       rcases hr with rfl | rfl <;> exact is_of (by decide +kernel))

theorem blocks_two_sectors : BlockFormsMet 1 128 := by
  unfold BlockFormsMet
  refine ⟨blockMet_of (blockData 0x30000 0 0 1 128) 0x30000 (fun x _ s => brought x (spanStart (fm false 0) (blockData 0x30000 0 0 1 128)) 0x30000 s) (is_of ?_) ?_ ⟨?_, rfl, is_of ?_⟩
      (fun _ _ _ _ _ h => brought_of h) ?_,
    blockMet_of (blockData 0x30000 0 0 1 128) 0x30000 (fun x c s => storing x c 0 (spanStart (fm true 0) (blockData 0x30000 0 0 1 128)) s) (is_of ?_) ?_ ⟨?_, rfl, is_of ?_⟩ (fun _ _ _ _ _ h => paired_of h) ?_,
    blockMet_of (blockData 0x100000 0 0 1 128) 0x100000 (fun x _ s => nearby x 0x100000 (scratchSector s (spanStart (fm true 0) (blockData 0x100000 0 0 1 128))) s) ?fttp ?_ ⟨?_, rfl, is_of ?_⟩
      (fun _ _ _ _ _ h => nearby_of h) ?_,
    blockMet_of (blockData 0x30000 0 7 1 128) 0x30000 (fun x _ s => brought x (spanStart (fm false 0) (blockData 0x30000 0 7 1 128)) 0x30000 s) trivial ?_ ⟨?_, ?_, rfl, is_of ?_⟩
      (fun _ _ _ _ _ h => brought_of h) ?_,
    blockMet_of (blockData 0x30000 0 7 1 128) 0x30000 (fun x c s => storing x c 0 (spanStart (fm true 0) (blockData 0x30000 0 7 1 128)) s) trivial ?_ ⟨?_, ?_, rfl, is_of ?_⟩ (fun _ _ _ _ _ h => paired_of h) ?_,
    blockMet_of (blockData 0x30000 1 0 1 128) 0x30000 (fun x c s => storing x c (1 + (PBlock.of (blockData 0x30000 1 0 1 128)).op) (spanStart (fm true 0) (blockData 0x30000 1 0 1 128)) s) (is_of ?_) ?_
      ⟨?_, rfl, is_of ?_⟩ (fun _ _ _ _ _ h => paired_of h) ?_⟩
  all_goals first
    | decide +kernel
    | (intro r hr
       have hr : r = 0 ∨ r = 1 := by
         have h2 : r < 2 := Nat.lt_of_lt_of_le hr (by decide +kernel)
         omega
       rcases hr with rfl | rfl <;> exact is_of (by decide +kernel))

/-- FerryBlockForms: each form with one sector, with the last sector of a row that is not the last, and with a sector that another of its row
follows. -/
theorem witness_FerryBlockForms : BlockFormsMet 1 64 ∧ BlockFormsMet 2 64 ∧ BlockFormsMet 1 128 :=
  ⟨blocks_one_sector, blocks_two_rows, blocks_two_sectors⟩

/-- FerrySectorMoves: a mapped sector to read, write and reduce, a page that misses with room in the log, a command that has logged; a parameter
block in the cache and one in memory; a near-map address. -/
theorem witness_FerrySectorMoves :
    (let s := ferrying (.fst (fm true 0)) (fm true 0) 0x30000;
     let x := ferryCtx (fm true 0) 0x03 false [];
     let req := { coreReq s x.fault with next := nextPage 0x30000 [] };
     (0x30000 : Word).toNat % 64 = 0 ∧ (0x30000 : Word).toNat < 2 ^ 52 ∧ sdlHolds s.core 5 s.core.attrs.asn.toNat (0x30000 / 65536) = false ∧
     okAnd (translate req 0x30000 .read s) (fun l s1 => goes false s1 l && !(locRead true 0 l s1).1.e3) = true ∧
     okAnd (tryTranslate req 0x30000 .write s) (fun r s1 => match r with
       | .ok l => goes true s1 l
       | .error _ => false) = true ∧
     okAnd (tryTranslate req 0x30000 .atomic s) (fun r s1 => match r with
       | .ok l => goes true s1 l && (reduceAt l 1 (BitVec.allOnes 64) 5 {} s1).1.isNone
       | .error _ => false) = true ∧ (sdlOf s.core 5).length < 64 ∧
     s.core.pbc.find? (fun e => e.asn == s.core.attrs.asn.toNat && e.va == 0x30000) = none ∧
     okAnd (engSector x.fault 0x30000 [] s) (fun r s2 => !bad s2 r.marks) = true ∧
     (fm true 0).tag = 0 ∧ (s.core.queue (ferryQueue (fm true 0))).headCmd = some { instr := .fst (fm true 0), opa := some 0x30000 }) ∧
    ((blocking (.fldp (fm false 0)) (fm false 0) 5).core.pbc.find? (fun e => e.asn == 0 && e.va == 0x40)).map (·.data) = some 5 ∧
    (∀ op ∈ [0, 1], let s := { missing with core := { missing.core with sq := { entries := [.cmd { instr := .fst (fm true 0), opa := some 0x10000000 }] } } };
     let x := ferryCtx (fm true 0) 0x03 false [];
     let req := { coreReq s x.fault with next := nextPage 0x10000000 [] };
     let k : Kind := if op = 0 then .write else .atomic;
     sdlHolds s.core 5 s.core.attrs.asn.toNat (0x10000000 / 65536) = false ∧
     okAnd (tryTranslate req 0x10000000 k s) (fun r s1 => match r with
       | .error m => okAnd (noteMiss req k m false s1) (fun _ s2 => decide ((sdlOf s2.core 5).length < 64))
       | .ok _ => false) = true) := by
  decide +kernel

theorem witness_ReductionElements :
    Sound base (0x30000 / 64) ∧ Agrees base (0x30000 / 64) 0 ∧ (mget {} base.sectors (0x30000 / 64)).marks = {} ∧ 0x30000 % 64 = 0 :=
  ⟨sound_of (by decide +kernel), agrees_of (by decide +kernel), by decide +kernel, by decide⟩

/-- Base with these commands at the heads of the Ferry's queues. -/
def ferryAt (c : Cmd) (ph : PhaseState := {}) : State :=
  { base with core := { base.core with ph := ph, wp := [(3, 5)], lq := { entries := [.cmd c] }, sq := { entries := [.cmd c] } } }

/-- An FBB block of slots of 64 bytes: tables at 0x30000 and at 0x30100 of this island's memory, pools at 0x31000 and 0x32000 of it. -/
def copyBlock (nb : Nat) : BitVec 512 :=
  BitVec.ofNat 512 (0x30000 + 0x8000000000030100 * 2 ^ 64 + 0x31000 * 2 ^ 128 + 0x8000000000032000 * 2 ^ 192 + 64 * 2 ^ 256 + nb * 2 ^ 288)

/-- The premises of FBB's turn: the head, its block, the slots, the source read, the target written. -/
def copying (nb : Nat) : Bool :=
  let f := fm true 0
  let c : Cmd := { instr := .fbb f, opa := some 0x40 }
  let s0 := ferryAt c
  let s := { s0 with
    core := { s0.core with pbc := [⟨s0.core.attrs.asn.toNat, 0x40, copyBlock nb⟩] }
    strait := (arriving false 0 6).strait }
  let x := ferryCtx f 0x07 false []
  let b := KvBlock.of (copyBlock nb)
  let held := { c with block := some (copyBlock nb), acqd := f.acq }
  stands (.fbb f) f s 0x40 c && okAnd (readBlock x 0x40 s) (fun d s2 => decide (d = copyBlock nb) && b.ok && decide (b.dcnt = 0 ∧ b.stab.toNat < 2 ^ 52 ∧
    b.spool.toNat < 2 ^ 52) && okAnd (checkTarget x.fault b.dtab s2) (fun _ _ => okAnd (checkTarget x.fault b.dpool s2) (fun _ _ => true)) &&
    okAnd (blockSlots x b 0 (headKept .ferryStore held s2)) (fun e s3 =>
      let c1 := { held with len := some e }
      decide (e = 0) && performed f (headKept .ferryStore c1 s3) && okAnd (engSector x.fault 0x31000 (pageAhead 0x31000 0x31040) (headKept .ferryStore c1 s3)) (fun r t =>
        okAnd (checkTarget x.fault 0x8000000000032000 t) (fun _ u => decide (u = t)) && okAnd (storeSector x c1 0 0x8000000000032000 r.data r.marks t) (fun logged s4 =>
          let c5 := { c1 with blk := 1, sect := 0, len := none, bytes := 64, logged := logged }
          performed f (headKept .ferryStore c5 s4)))))

/-- FerryWaitsAndEnds: a store inside a phase; an FBB of one block and of two; a command whose writes are done and one whose are not; FPBINV; FWP
before and after its value. -/
theorem witness_FerryWaitsAndEnds :
    let f := fm true 0;
    (let s := ferryAt { instr := .fst f, phase := some 0 } execPhase; f.st = true ∧ InPhaseF f (.fst f) s = true) ∧
    copying 1 = true ∧ copying 2 = true ∧
    (let c : Cmd := { instr := .fst f, opa := some 0x30000, len := some 64, sect := 1, tags := true, relp := true };
     InPhaseF f (.fst f) (ferryAt c) = false ∧ ((ferryAt c).core.queue (ferryQueue f)).headCmd = some c ∧
     c.acqd = f.acq ∧ f.rel = false ∧ f.acq = false ∧ performed f (ferryAt c) = true ∧
     (let s := ferryAt c;
      let s := { s with strait := { s.strait with waiting := [{ tag := 1, island := 1, core := 0, engine := 5, addr := 0x40, kind := .write }] } };
      unackedUpTo s s.cur (s.core.queue (ferryQueue f)).headPos = true)) ∧
    (let s := ferryAt { instr := .fpbinv f, opa := some 1 };
     InPhaseF f (.fpbinv f) s = false ∧ engOperand (ferryQueue f) false f.xa s = .ok 1 s) ∧
    (let s := ferryAt { instr := .fwp f, opa := some 5 };
     InPhaseF f (.fwp f) s = false ∧ engOperand (ferryQueue f) false f.xa s = .ok 5 s ∧
     (mget 0 s.core.wp f.ch.toNat - (5 : Word).setWidth 56).toNat < 2 ^ 55 ∧ ¬(mget 0 s.core.wp f.ch.toNat - (6 : Word).setWidth 56).toNat < 2 ^ 55) := by
  refine ⟨?_, ?_, ?_, ?_, ⟨?_, is_of ?_⟩, ⟨?_, is_of ?_, ?_⟩⟩ <;> decide +kernel

/-- TagActions: an open source, a closed one, an EMPTY and a FULL destination, the first waiter. -/
theorem witness_TagActions :
    (let s := atVector (.vldt ⟨3, 0, 5, 2, 0, false, 0⟩);
     let t := { s with core := { s.core with tiles := { s.core.tiles with tag := 32 } } };
     queueOfEngine ((vFault 0x70 0).engine) = some .vector ∧ ((t.core.queue .vector).headCmd.map (·.grants)) = some [] ∧
     openFor t.core false 5 = true ∧ firstWaiter t.core .vector 5 = true ∧ openFor s.core false 5 = false ∧
     bit s.core.tiles.tag 5 = false ∧ bit t.core.tiles.tag 5 = true ∧ mget 0 t.core.tiles.readers 5 = 0) ∧
    (∀ r, r ≠ Queue.vector → sourceWaiter (atVector (.vldt ⟨3, 0, 5, 2, 0, false, 0⟩)).core 5 (· == 1) r = false) := by
  refine ⟨by decide +kernel, ?_⟩
  intro r _
  cases r <;> decide +kernel

/-- A loaded sector stands in its tile, which its fill action makes FULL. -/
theorem test_fld : nextAnd (exec (.fld (fm false 1)) (devWrite 0 0x30000 [0x5A] (ferrying (.fld (fm false 1)) (fm false 1) 0x30000)))
    (fun t => t.core.win.readN 0x5000 1 == [0x5A] && bit t.core.tiles.tag 5 && mget 0 t.core.flags 2 == 1) = true := by decide +kernel
theorem test_ffill : nextAnd (exec (.ffill (fm false 1)) (ferrying (.ffill (fm false 1)) (fm false 1) 0x0102030405060708))
    (fun t => t.core.win.readN 0x5038 9 == [8, 7, 6, 5, 4, 3, 2, 1, 0]) = true := by decide +kernel
theorem test_fred_int : nextAnd (exec (.fred (fm true 0)) (let s := blocking (.fred (fm true 0)) (fm true 0) (blockData 0x30000 1 0);
      devWrite 0 0x30000 [5] { s with core := s.core.writeScratch 0x5000 [0xFF, 0xFF, 0xFF, 0xFF] {} }))
    (fun t => t.core.ended == .done && t.hbm.readN 0x30000 5 == [4, 0, 0, 0, 0]) = true := by decide +kernel

/-! ### The gather stream -/

/-- What the flat page's premises come to where no die has state and nothing holds the core. -/
theorem flat_of {s : State} {B P nlc : Nat} {e : TlbEntry} (h : decide (s.core.stlb = [(6, e)] ∧ e.asn = s.core.attrs.asn.toNat ∧ e.big = true ∧
      e.base = B ∧ pteFrame e.pte.toNat = P ∧ pteNlc e.pte.toNat = nlc ∧ bit e.pte 2 = true ∧ bit e.pte 3 = true ∧ bit e.pte 6 = true ∧
      bit e.pte 7 = true ∧ bit e.pte 56 = false ∧ B % 2 ^ 28 = 0 ∧ B + 2 ^ 28 ≤ 2 ^ 52 ∧ nlc ≠ 14 ∧ s.core.refused = [] ∧ s.copies = [] ∧ s.core.sdl = [] ∧
      s.holds = [] ∧ s.core.bmc = [] ∧ s.dies = [] ∧ s.selfTests = [] ∧ trafficHeld s.strait s.cur = false ∧ noFences s.strait.inForce = true) = true)
    (hs : s.sectors.all (fun x => decide (P ≤ 64 * x.1 ∧ 64 * x.1 < P + 2 ^ 28 → x.2.flipped = [] ∧ x.2.marks = {} ∧ (x.2.code = none ∨ x.2.code = some nlc))) = true)
    (hl : s.l2.all (fun x => decide (P ≤ 64 * x.1 ∧ 64 * x.1 < P + 2 ^ 28 → ∀ l ∈ x.2, l.flips = [] ∧ l.data = sectorData s x.1 ∧
      l.marks = (mget {} s.sectors x.1).marks ∧ l.code = (mget {} s.sectors x.1).code)) = true)
    (hc : (coreNumbers s).all (fun n => !bit (coreOf s n).sh.errinj 63 && decide ((coreOf s n).pins = [])) = true) :
    FlatPage s B P nlc := by
  obtain ⟨h1, h2, h3, h4, h5, h6, h7, h8, h9, h10, h11, h12, h13, h14, h15, h16, h17, h18, h19, h20, h21, h22, h23⟩ := of_decide_eq_true h
  have hd : ∀ d, dieOf s d = {} := fun d => by simp [dieOf, h20, mget]
  have hc := fun n hn => List.all_eq_true.mp hc n hn
  have hi : ∀ sec, injector s sec = none := fun sec => by
    refine List.find?_eq_none.mpr fun n hn => ?_
    have := hc n hn
    simp only [Bool.and_eq_true, Bool.not_eq_true'] at this
    simp [this.1]
  have hp : ∀ n ∈ coreNumbers s, (coreOf s n).pins = [] := fun n hn => of_decide_eq_true (Bool.and_eq_true_iff.mp (hc n hn)).2
  refine ⟨⟨e, h1, h2, h3, h4, h5, h6, h7, h8, h9, h10, h11⟩, h12, h13, h14, fun sec hlo hhi => ?_, h15, h16, h17, h18, h19, fun p x => ?_, fun d => ⟨?_, ?_⟩⟩
  · have key : (mget {} s.sectors sec).flipped = [] ∧ (mget {} s.sectors sec).marks = {} ∧
        ((mget {} s.sectors sec).code = none ∨ (mget {} s.sectors sec).code = some nlc) := by
      unfold mget
      split
      · next x hx =>
        have hm := List.mem_of_find?_eq_some hx
        have hk : x.1 = sec := by simpa using List.find?_some hx
        exact of_decide_eq_true (List.all_eq_true.mp hs x hm) (hk ▸ ⟨hlo, hhi⟩)
      · exact ⟨rfl, rfl, .inl rfl⟩
    have line : ∀ l, homeLine s sec = some l → l.flips = [] ∧ l.data = sectorData s sec ∧ l.marks = (mget {} s.sectors sec).marks ∧
        l.code = (mget {} s.sectors sec).code := by
      intro l hh
      unfold homeLine at hh
      rw [mget] at hh
      split at hh
      · next x hx =>
        have hm := List.mem_of_find?_eq_some hx
        have hk : x.1 = sec := by simpa using List.find?_some hx
        exact hk ▸ of_decide_eq_true (List.all_eq_true.mp hl x hm) (hk ▸ ⟨hlo, hhi⟩) l hh
      · cases hh
    refine ⟨⟨key.1, ?_, hi sec, line⟩, fun k hk => ?_, key.2.1, ⟨h22, ?_, .inr ?_⟩, .inr ?_⟩
    · rw [retiredSector, hd]
      rfl
    · have : homeCode s sec = (mget {} s.sectors sec).code := by
        unfold homeCode
        cases hh : homeLine s sec with
        | some l => exact (line l hh).2.2.2
        | none => rfl
      rw [this] at hk
      rcases key.2.2 with h | h <;> rw [h] at hk <;> cases hk
      rfl
    · simp [coreReaches, h23]
    · simp [rowTested, h21]
    · simp [copyHolds, h16]
  · simp only [slotPinned, List.any_eq_false]
    intro n hn
    simp [hp n hn]
  · rw [hd]
  · have : ∀ ns : List Nat, (∀ n ∈ ns, (coreOf s n).pins = []) → ns.foldl (fun a n => a + (coreOf s n).pins.length) 0 = 0 := by
      intro ns
      induction ns with
      | nil => intro _; rfl
      | cons n ns ih =>
        intro h
        rw [List.foldl_cons, h n (List.mem_cons_self ..)]
        exact ih (fun k hk => h k (List.mem_cons_of_mem n hk))
    exact this _ (fun n hn => hp n (List.mem_filter.mp hn).1)

/-- A gather command at its head in the page that maps 0x10000000 to 0x20000000, with a sequence and its pool. -/
def gathering (i : Instr) (xs xb : Word) : State :=
  let s := kvTables 0x10040000 0x20040000 base
  { s with core := { s.core with
      stlb := [(6, ⟨s.core.attrs.asn.toNat, 0x10000000, true, 0x200000FD, 0⟩)], gq := { entries := [.cmd { instr := i, opa := some xs, opb := some xb }] }
      attrs := { s.core.attrs with kvpools := 0x10042000 } } }

def seqOf : Seq := ⟨0x10040000, 0x10041000, 0x10046000, 40, 0, 4, 0⟩
def poolOf : Pool := ⟨0x10042000, 0x20042000, 0x10050000, 0x10043000, 0x10044000, 8, 4, 64, true⟩

/-- The premises that every gather statement shares. -/
def flatB (s : State) : Bool :=
  decide (s.core.stlb = [(6, ⟨s.core.attrs.asn.toNat, 0x10000000, true, 0x200000FD, 0⟩)] ∧ pteFrame 0x200000FD = 0x20000000 ∧
    pteNlc 0x200000FD = 0 ∧ s.core.refused = [] ∧ s.copies = [] ∧ s.core.sdl = [] ∧ s.holds = [] ∧ s.core.bmc = [] ∧ s.dies = [] ∧ s.selfTests = [] ∧
    trafficHeld s.strait s.cur = false ∧ noFences s.strait.inForce = true) &&
  s.sectors.all (fun x => decide (0x20000000 ≤ 64 * x.1 ∧ 64 * x.1 < 0x20000000 + 2 ^ 28 → x.2.flipped = [] ∧ x.2.marks = {} ∧
    (x.2.code = none ∨ x.2.code = some 0))) &&
  s.l2.all (fun x => decide (0x20000000 ≤ 64 * x.1 ∧ 64 * x.1 < 0x20000000 + 2 ^ 28 → ∀ l ∈ x.2, l.flips = [] ∧ l.data = sectorData s x.1 ∧
    l.marks = (mget {} s.sectors x.1).marks ∧ l.code = (mget {} s.sectors x.1).code)) &&
  (coreNumbers s).all (fun n => !bit (coreOf s n).sh.errinj 63 && decide ((coreOf s n).pins = []))

theorem flatB_of {s : State} (h : flatB s = true) : FlatPage s 0x10000000 0x20000000 0 := by
  simp only [flatB, Bool.and_eq_true] at h
  obtain ⟨⟨⟨h1, h2⟩, h3⟩, h4⟩ := h
  obtain ⟨a, b, c, d⟩ := of_decide_eq_true h1
  exact flat_of (decide_eq_true ⟨a, rfl, rfl, rfl, b, c, (by decide : bit (0x200000FD : Word) 2 = true), (by decide : bit (0x200000FD : Word) 3 = true), (by decide : bit (0x200000FD : Word) 6 = true), (by decide : bit (0x200000FD : Word) 7 = true), (by decide : bit (0x200000FD : Word) 56 = false), by decide, by decide, by decide, d⟩) h2 h3 h4

def startB (i : Instr) (s : State) (xs xb : Word) : Bool :=
  decide (inPhase s (headOr s .gather i) = false ∧ (s.core.queue .gather).headCmd = some { instr := i, opa := some xs, opb := some xb })

theorem startB_of {i : Instr} {s : State} {xs xb : Word} (h : startB i s xs xb = true) : GatherStart i s xs xb := by
  obtain ⟨h1, h2⟩ := of_decide_eq_true h
  exact ⟨h1, _, h2, rfl, rfl, rfl, rfl, rfl, rfl, rfl, rfl, rfl, rfl, rfl, rfl⟩

def gm (tag : BitVec 2 := 0) : GM := ⟨0, tag, 3, 4, true⟩

/-- ReferenceCommands: a reference, a drop of an entry with count 2 and of one with count 1, an empty entry to fill, an entry to free. -/
theorem witness_ReferenceCommands :
    (∀ p ∈ [(Instr.gref (gm), (2 : Word) ^ 32), (.gref gm, 2 ^ 63 + 2 ^ 32), (.gref gm, 2 ^ 63 + 2 ^ 32 + 1), (.galloc gm, 3), (.gfree gm, 0)],
      (flatB (gathering p.1 0x10040000 p.2) && startB p.1 (gathering p.1 0x10040000 p.2) 0x10040000 p.2) = true) ∧
    (let s := gathering (.gref gm) 0x10040000 0;
     TablesAt s 0x10000000 0x20000000 seqOf poolOf ∧ (0x10040000 : Word).toNat = seqOf.va ∧
     HoldsSlot s 0x10000000 0x20000000 seqOf poolOf 0 2 ∧ countOf s 0x10000000 0x20000000 poolOf 2 = 1 ∧
     HoldsSlot s 0x10000000 0x20000000 seqOf poolOf 1 3 ∧ countOf s 0x10000000 0x20000000 poolOf 3 = 2 ∧
     entryOf s 0x10000000 0x20000000 seqOf 3 = 0xFFFFFFFF ∧ topFree s 0x10000000 0x20000000 poolOf = 7 ∧ 1 ≤ poolOf.freen) := by
  refine ⟨?_, ?_⟩
  · decide +kernel
  · unfold TablesAt SeqAt Within Apart HoldsSlot countOf entryOf topFree numAt
    decide +kernel

/-- CopyOnWriteCommand: an entry whose slot has count 1 and one with count 2. -/
theorem witness_CopyOnWriteCommand :
    (∀ p ∈ [(Instr.gcow gm, (0 : Word)), (.gcow gm, 1)],
      (flatB (gathering p.1 0x10040000 p.2) && startB p.1 (gathering p.1 0x10040000 p.2) 0x10040000 p.2) = true) ∧
    (let s := gathering (.gcow gm) 0x10040000 1;
     TablesAt s 0x10000000 0x20000000 seqOf poolOf ∧ HoldsSlot s 0x10000000 0x20000000 seqOf poolOf 0 2 ∧
     countOf s 0x10000000 0x20000000 poolOf 2 = 1 ∧ HoldsSlot s 0x10000000 0x20000000 seqOf poolOf 1 3 ∧ 1 < countOf s 0x10000000 0x20000000 poolOf 3) := by
  refine ⟨by decide +kernel, ?_⟩
  unfold TablesAt SeqAt Within Apart HoldsSlot countOf entryOf numAt
  decide +kernel

/-- StreamingCommands: a length record, three blocks of V of which one is not published, a row and no row, with and without a fill. -/
theorem witness_StreamingCommands :
    (∀ tag ∈ ([0, 1] : List (BitVec 2)), ∀ p ∈ [(Instr.glen (gm tag), (0x10040000 : Word), (0 : Word)), (.gkv (gm tag), 0x10040000, 2 ^ 48 + 3 * 2 ^ 32 + 1),
      (.gemb (gm tag), 0x10000000, 2), (.gemb (gm tag), 0x10000000, 0xFFFFFFFF)],
      (flatB (gathering p.1 p.2.1 p.2.2) && startB p.1 (gathering p.1 p.2.1 p.2.2) p.2.1 p.2.2) = true ∧
      (gathering p.1 p.2.1 p.2.2).core.tiles.tag = 0 ∧ grantsOf (gathering p.1 p.2.1 p.2.2).core .gather = []) ∧
    (let s := gathering (.gkv gm) 0x10040000 0;
     TablesAt s 0x10000000 0x20000000 seqOf poolOf ∧ SeqAt s 0x10000000 0x20000000 seqOf ∧
     (∀ i, i < seqOf.blocks → entryOf s 0x10000000 0x20000000 seqOf i < poolOf.nslot) ∧ 3 * 32 * poolOf.dim ≤ (64 - 0) * 4096 ∧
     s.core.tiles.len 0 = 4096 ∧ Within 0x10000000 (0x10000000 + 2 * 4096) 4096) := by
  refine ⟨by decide +kernel, ?_⟩
  unfold TablesAt SeqAt Within Apart entryOf numAt
  decide +kernel

/-- ScoreCommands: 256 words at the first token; a cache to drop. -/
theorem witness_ScoreCommands :
    (∀ p ∈ [(Instr.gscore gm, (0x10040000 : Word), (64 * 2 ^ 32 : Word)), (.gbminv gm, 1, 0)],
      (flatB (gathering p.1 p.2.1 p.2.2) && startB p.1 (gathering p.1 p.2.1 p.2.2) p.2.1 p.2.2) = true) ∧
    (let s := gathering (.gscore gm) 0x10040000 (64 * 2 ^ 32);
     SeqAt s 0x10000000 0x20000000 seqOf ∧ 0 + 64 ≤ 16 * seqOf.cap ∧ seqOf.score ≠ 0 ∧ Within 0x10000000 (seqOf.score + 4 * 0) (4 * 64) ∧ s.core.tiles.marks = []) := by
  refine ⟨by decide +kernel, ?_⟩
  unfold SeqAt Within numAt
  decide +kernel

theorem unmarkedAt {s : State} (h : s.core.tiles.marks = []) (k : Nat) : s.core.tiles.mark k = {} := by simp [Tiles.mark, h, mget]

/-- AppendCommand: 16 tokens behind 40: the rest of a block held alone, and an empty one. -/
theorem witness_AppendCommand :
    let s := gathering (.gapp gm) 0x10040000 16;
    FlatPage s 0x10000000 0x20000000 0 ∧ TablesAt s 0x10000000 0x20000000 seqOf poolOf ∧ GatherStart (.gapp gm) s 0x10040000 16 ∧
    seqOf.tokens + 16 ≤ 16 * seqOf.cap ∧ 4 * poolOf.dim * 16 ≤ (64 - 0) * 4096 ∧ (∀ k, k < 4096 → s.core.tiles.mark k = {}) ∧
    HoldsSlot s 0x10000000 0x20000000 seqOf poolOf 2 1 ∧ countOf s 0x10000000 0x20000000 poolOf 1 = 1 ∧
    entryOf s 0x10000000 0x20000000 seqOf 3 = 0xFFFFFFFF ∧ seqOf.tokens ≤ 16 * 3 ∧ 2 ≤ poolOf.freen ∧
    (∀ i j, i < seqOf.cap → j < seqOf.cap → entryOf s 0x10000000 0x20000000 seqOf i = entryOf s 0x10000000 0x20000000 seqOf j →
      entryOf s 0x10000000 0x20000000 seqOf i ≠ 0xFFFFFFFF → i = j) := by
  refine ⟨flatB_of ?_, ?_, startB_of ?_, ?_, ?_, fun k _ => ?_, ?_, ?_, ?_, ?_, ?_, ?_⟩
  case refine_6 => exact unmarkedAt (s := gathering (.gapp gm) 0x10040000 16) (by decide +kernel) k
  case refine_12 =>
    have h : ((List.range 4).all fun i => (List.range 4).all fun j => decide (entryOf (gathering (.gapp gm) 0x10040000 16) 0x10000000 0x20000000 seqOf i =
        entryOf (gathering (.gapp gm) 0x10040000 16) 0x10000000 0x20000000 seqOf j → i = j)) = true := by
      unfold entryOf numAt
      decide +kernel
    intro i j hi hj he _
    exact of_decide_eq_true (List.all_eq_true.mp (List.all_eq_true.mp h i (List.mem_range.mpr hi)) j (List.mem_range.mpr hj)) he
  all_goals first
    | decide +kernel
    | (unfold TablesAt SeqAt Within Apart entryOf numAt; decide +kernel)
    | (unfold HoldsSlot entryOf countOf numAt; decide +kernel)

/-- Three positions to keep, in tile 0. -/
def keeping (s : State) : State := { s with core := s.core.writeScratch 0 (leBytes 4 1 ++ leBytes 4 17 ++ leBytes 4 39) {} }

/-- EvictionCommands: a truncation to the count that stands and to 32; three positions to keep. -/
theorem witness_EvictionCommands :
    (∀ p ∈ [(Instr.gtrunc gm, (40 : Word)), (.gtrunc gm, 32), (.gcompact gm, 3)],
      (flatB (keeping (gathering p.1 0x10040000 p.2)) && startB p.1 (keeping (gathering p.1 0x10040000 p.2)) 0x10040000 p.2) = true) ∧
    (let s := keeping (gathering (.gcompact gm) 0x10040000 3);
     TablesAt s 0x10000000 0x20000000 seqOf poolOf ∧ seqOf.blocks = 3 ∧ HoldsSlot s 0x10000000 0x20000000 seqOf poolOf 0 2 ∧
     HoldsSlot s 0x10000000 0x20000000 seqOf poolOf 1 3 ∧ HoldsSlot s 0x10000000 0x20000000 seqOf poolOf 2 1 ∧ (3 + 15) / 16 ≤ poolOf.freen ∧
     s.core.tiles.marks = [] ∧ (List.range 3).map (fun i => leNat (s.core.win.readN (4096 * (gm).tile.toNat + 4 * i) 4)) = [1, 17, 39] ∧ 39 < seqOf.tokens) := by
  refine ⟨by decide +kernel, ?_⟩
  unfold TablesAt SeqAt Within Apart HoldsSlot countOf entryOf numAt
  decide +kernel

/-- One of two references dropped, and a row copied by its index. -/
theorem test_gref_drops : nextAnd (exec (.gref gm) (gathering (.gref gm) 0x10040000 (2 ^ 63 + 2 ^ 32 + 1)))
    (fun t => t.core.ended == .done && t.hbm.readN 0x20043006 2 == [1, 0]) = true := by decide +kernel
theorem test_galloc_top : nextAnd (exec (.galloc gm) (gathering (.galloc gm) 0x10040000 3))
    (fun t => t.hbm.readN 0x2004100C 4 == [7, 0, 0, 0] && t.hbm.readN 0x2004201C 4 == [3, 0, 0, 0] && t.hbm.readN 0x2004300E 2 == [1, 0]) = true := by
  decide +kernel
theorem test_glen_record : nextAnd (exec (.glen gm) (gathering (.glen gm) 0x10040000 64))
    (fun t => t.core.win.readN 64 13 == [40, 0, 0, 0, 3, 0, 0, 0, 0, 0x10, 0, 0, 0]) = true := by decide +kernel

/-! ### Control pages, tags, and the step -/

/-- ControlPageWrites: a core that runs, a free one, one that does not exist; a flag of each kind. -/
theorem witness_ControlPageWrites :
    (let s := { base with input := { base.input with index := 8, mask := 5, value := 7 } };
     s.input.core < 768 ∧ (coreOf s s.input.core).run = .running ∧ 8 ≤ s.input.index.toNat ∧ s.input.index.toNat < 32) ∧
    (let s := { base with input := { base.input with core := 5, index := 7 } };
     (coreOf s s.input.core).run ≠ .disabled ∧ (coreOf s s.input.core).run ≠ .running ∧ s.input.index.toNat < 8) ∧
    768 ≤ ({ base with input := { base.input with core := 768 } }).input.core := by decide +kernel

/-- A vector command at its head that waits for tile 5: a source with action a, or a destination with action a less 4. -/
def tagWaiter (a : Nat) (full : Bool) : State :=
  { base with
    input := { base.input with queue := .vector }
    core := { base.core with
      tiles := { base.core.tiles with tag := if full then 32 else 0 }, vq := { entries := [.cmd { instr := .vldt ⟨3, 0, 5, 1, 0, false, 0⟩, waits := some (5, a) }] } } }

theorem witness_TagWaitGrants :
    (∀ a ∈ [1, 2, 3, 5], ∀ full ∈ [false, true], let s := tagWaiter a full;
      s.input.core = s.cur ∧ (s.core.queue s.input.queue).headCmd = some { instr := .vldt ⟨3, 0, 5, 1, 0, false, 0⟩, waits := some (5, a) } ∧
      (s.core.queue s.input.queue).held = false ∧ s.core.inPhase { instr := .vldt ⟨3, 0, 5, 1, 0, false, 0⟩, waits := some (5, a) } = false ∧
      openFor s.core false 5 = full ∧ bit s.core.tiles.tag 5 = full ∧ firstWaiter (tagWaiter 2 true).core .vector 5 = true) ∧
    (∀ a ∈ [2, 3], ∀ r ∈ [Queue.matrix, .ferryLoad, .ferryStore, .gather], sourceWaiter (tagWaiter a true).core 5 (· == 1) r = false) := by
  decide +kernel

/-- A Shuttle that stands at lane k of a decoded bundle. -/
def standingAt (kind k : Nat) (slots : List Slot) : State :=
  withSh (fun h => { h with lane := k, buf := some ⟨kind, 0, slots⟩ })

def addSlot : Slot := { lane := 3, queue := none, instr := .add (sa 5 4 5) }
def pushSlot : Slot := { lane := 2, queue := some .vector, instr := .vadd ⟨3, 1, 2, 0, 0, false, 0⟩ }

/-- StepRunsTheInstruction: a Shuttle's turn with and without a decoded bundle; a lane, a push, a condition and a halt; an engine's head, an
event, no power. -/
theorem witness_StepRunsTheInstruction :
    (let s := { standingAt 0 2 [addSlot] with agenda := [.shuttle 0] };
     (∃ s', nextTurn s = some (.shuttle 0, s') ∧ s'.host.power = true ∧ (switchTo (tick s') 0).core.run = .running ∧ (switchTo (tick s') 0).core.preempt = none ∧
       shuttleTested (switchTo (tick s') 0) 0 = false ∧ (switchTo (tick s') 0).core.sh.buf ≠ none)) ∧
    (let s := { base with agenda := [.shuttle 0] };
     (∃ s', nextTurn s = some (.shuttle 0, s') ∧ (switchTo (tick s') 0).core.sh.buf = none ∧
      nextAnd (exec .bundleFetchDecode (switchTo (tick s') 0)) (fun _ => true) = true)) ∧
    AtSlot (standingAt 0 2 [addSlot]) ⟨0, 0, [addSlot]⟩ addSlot ∧ addSlot.queue = none ∧
    endedBy (exec addSlot.instr (standing (standingAt 0 2 [addSlot]) 3)) .done = true ∧
    AtSlot (standingAt 1 2 [pushSlot, addSlot]) ⟨1, 0, [pushSlot, addSlot]⟩ pushSlot ∧ pushSlot.queue = some .vector ∧
    endedBy (runM (pushLane .vector pushSlot.instr) (standing (standingAt 1 2 [pushSlot, addSlot]) 2)) .done = true ∧
    nextAnd (exec .waitBundle (standingAt 1 0 [addSlot])) (fun _ => true) = true ∧ nextAnd (exec .haltBundle (standingAt 3 0 [])) (fun _ => true) = true ∧
    (let s := { atVector (.vcnt ⟨0, 0, 0, 0, .none⟩) with agenda := [.engine 0 .vector] };
     ∃ s', nextTurn s = some (.engine 0 .vector, s') ∧ s'.host.power = true ∧
      (let s0 := switchTo (tick s') 0
       let s1 := settleEnding .vector (s0.core.queue .vector).ending.length s0
       (s1.core.queue .vector).headCmd.isSome = true ∧ engineStopped s1 0 .vector = false ∧
       endedBy (exec (.vcnt ⟨0, 0, 0, 0, .none⟩) s1) .done = true)) ∧
    (let s := { base with agenda := [.outside (.array { unit := 1, at' := 0x40 })] };
     ∃ u s', nextTurn s = some (.outside u, s')) ∧
    (let s := { base with agenda := [.event .tagset {}] };
     ∃ s', nextTurn s = some (.event .tagset {}, s') ∧ s'.host.power = true) ∧
    (let s := { base with agenda := [.shuttle 0], host := { base.host with power := false } };
     ∃ s', nextTurn s = some (.shuttle 0, s') ∧ s'.host.power = false) ∧
    (let s := { base with agenda := [.event .fundamentalReset {}] }; ∃ s', nextTurn s = some (.event .fundamentalReset {}, s')) ∧
    nextTurn { State.reset with host := { State.reset.host with boot := 8 } } = none := by
  refine ⟨⟨_, rfl, ?_⟩, ⟨_, rfl, ?_⟩, ?_, ?_, ?_, ?_, ?_, ?_, ?_, ?_, ⟨_, rfl, ?_⟩, ⟨_, _, rfl⟩, ⟨_, rfl, ?_⟩, ⟨_, rfl, ?_⟩, ⟨_, rfl⟩, ?_⟩
  all_goals first
    | decide +kernel
    | (unfold AtSlot; decide +kernel)

/-- EncodingRoundTrip: lanes of each engine that meet both checks, a literal among them. -/
theorem witness_EncodingRoundTrip : [Instr.add (sa 5 3 4), .li ⟨7, 0, .one 0x12345678⟩, .vadd ⟨3, 1, 2, 0, 0, false, 0⟩, .mcfg ⟨0, 0x20, true, .two 7⟩,
    .fld ⟨false, 5, 1, 10, false, false, 0, true, 3⟩, .ftt ⟨true, 7, 2, 12, false, true, 3, false, 1⟩, .gkv ⟨8, 1, 10, 11, true⟩].all (fun i =>
      i.guardOk && i.fieldsOk && (match engOf i with
        | some e => (match decodeWords e (encode i) with | .ok j => j == i | .error _ => false)
        | none => false)) = true := by decide +kernel

/-- StepsKeepMemoryCanonical: a canonical memory that lists a byte. -/
theorem witness_StepsKeepMemoryCanonical : base.hbm.wf ∧ base.hostMem.wf ∧ base.hbm ≠ [] ∧
    nextAnd (step { base with agenda := [.shuttle 0] }) (fun _ => true) = true := by
  refine ⟨?_, ?_, ?_⟩
  · unfold Memory.wf
    decide +kernel
  · unfold Memory.wf
    decide +kernel
  · decide +kernel

/-! ### A saved image that CTXLOAD restores -/

/-- Base at a steady state of its walks, with an image address in x10 and a store of images. -/
def loading (images : SMap Nat) (next : Nat) : State :=
  let s := withDie base 0 { dieOf base 0 with walk := [⟨0, 3, 0, 0x10001⟩] }
  { s with images := images, nextImage := next, core := { s.core with sh := { s.core.sh with x := s.core.sh.x ++ [(10, 0x100000)] } } }

/-- Every sector of the loading state is sound. -/
theorem loading_sound (im : SMap Nat) (n sec : Nat) : SectorSound (loading im n) sec ∧ injector (loading im n) sec = none := by
  have hd : ∀ d, (dieOf (loading im n) d).retired = [] := fun d => by
    have hs : (loading im n).dies = (loading [] 0).dies := rfl
    have ha : ((loading [] 0).dies.all fun e => e.2.retired == []) = true := by decide +kernel
    unfold dieOf mget
    rw [hs]
    split
    · next e he => exact beq_iff_eq.mp (List.all_eq_true.mp ha e (List.mem_of_find?_eq_some he))
    · rfl
  refine ⟨⟨?_, ?_, ?_⟩, ?_⟩
  · simp [retiredSector, hd, mget]
  · intro l hl
    have ha : ((loading [] 0).l2.all fun e => e.2.all (fun l => l.flips == [])) = true := by decide +kernel
    have hs : homeLine (loading im n) sec = mget none (loading [] 0).l2 sec := rfl
    rw [hs] at hl
    unfold mget at hl
    split at hl
    · next e he =>
      have := List.all_eq_true.mp ha e (List.mem_of_find?_eq_some he)
      rw [hl] at this
      exact beq_iff_eq.mp this
    · cases hl
  · intro _ _
    have hk : ((loading [] 0).sectors.all fun e => e.2.flipped == []) = true := by decide +kernel
    have hs : (loading im n).sectors = (loading [] 0).sectors := rfl
    unfold mget
    rw [hs]
    split
    · next e he => exact beq_iff_eq.mp (List.all_eq_true.mp hk e (List.mem_of_find?_eq_some he))
    · rfl
  · have hc : ((coreNumbers (loading [] 0)).all fun n => !bit (coreOf (loading [] 0) n).sh.errinj 63) = true := by decide +kernel
    refine List.find?_eq_none.mpr fun k hk => ?_
    have := List.all_eq_true.mp hc k hk
    simp only [Bool.not_eq_true'] at this
    have h2 : bit (coreOf (loading im n) k).sh.errinj 63 = false := this
    simp [h2]

/-- No code governs a sector where no table stands. -/
theorem loading_code (im : SMap Nat) (n sec : Nat) (h : 0x4000 ≤ sec) : homeCode (loading im n) sec = none := by
  have h0 : homeLine (loading im n) sec = none := by
    have ha : ((loading [] 0).l2.all fun e => e.1 < 0x4000) = true := by decide +kernel
    refine mget_none fun e he hh => ?_
    have := List.all_eq_true.mp ha e he
    simp only [decide_eq_true_eq] at this
    omega
  have hk : ((loading [] 0).sectors.all fun e => e.1 < 0x4000) = true := by decide +kernel
  have hm : mget {} (loading im n).sectors sec = {} := mget_none fun e he hh => by
    have := List.all_eq_true.mp hk e he
    simp only [decide_eq_true_eq] at this
    omega
  unfold homeCode
  rw [h0, hm]

/-- A translation of the image's region gives its own address. -/
theorem loading_translate (im : SMap Nat) (n va : Nat) (h : va < 2 ^ 28) :
    translate (contextReq (loading im n) 0) va .read (loading im n) = .ok ⟨false, va, 0⟩ (loading im n) := by
  have hb : va / 2 ^ 40 = 0 ∧ va / 2 ^ 28 = 0 := by omega
  have hreq : contextReq (loading im n) 0 = { eng := 1, core := 0, asn := 0, tbase := 0x8000, fault := shData, cached := false } :=
    show contextReq (loading [] 0) 0 = _ by decide +kernel
  have hw : walk 0 0 0x8000 va (loading im n) = (.leaf 0xFD 0x10000 true, loading im n) := by
    have h2 : readEntry 0x10000 (loading im n) = (.ok 0xFD, loading im n) := by
      have hs := loading_sound im n 0x400
      have hcode : homeCode (loading im n) 0x400 = some 16 := show homeCode (loading [] 0) 0x400 = some 16 by decide +kernel
      have hr := readSector_clean (fg := true) (rd := none) (src := 0) hs.1 hs.2 (fun _ _ h => by cases h)
      have ht : rowTested (loading im n) 0x400 = false := show rowTested (loading [] 0) 0x400 = false by decide +kernel
      have hd : leNat (sliceBytes (homeData (loading im n) 0x400) 0 8) = 0xFD := show leNat (sliceBytes (homeData (loading [] 0) 0x400) 0 8) = 0xFD by decide +kernel
      unfold readEntry
      dsimp only
      rw [show 0x10000 / 64 = 0x400 from rfl, show 0x10000 % 64 = 0 from rfl, ht, hr]
      dsimp only
      rw [hcode, hd]
      rfl
    have hp : pointerEntry 0 0 3 0 0x8000 (loading im n) = (.ok 0x10001, loading im n) := rfl
    have hp2 : pointerEntry 0 0 2 0 0x10000 (loading im n) = (.ok 0xFD, loading im n) := by
      have hf : ((dieOf (loading [] 0) 0).walk.find? (fun w => w.asn == 0 && w.level == 2 && w.base == 0)) = none := by decide +kernel
      unfold pointerEntry
      rw [show dieOf (loading im n) 0 = dieOf (loading [] 0) 0 from rfl, hf]
      exact h2
    have h := walk_big (die := 0) (asn := 0) (tb := 0x8000) (va := va) (e3 := 0x10001) (e2 := 0xFD) (s := loading im n)
      (by rw [hb.1]; exact hp) (by decide) (by decide) (by decide) (by decide +kernel) (by rw [hb.1]; rfl)
      (by rw [hb.2]; exact hp2) (by decide) (by decide)
    rw [h, hb.2]
    rfl
  have hl : leafLoc 0xFD true va = ⟨false, va, 0⟩ := by
    have : va % 2 ^ 28 = va := Nat.mod_eq_of_lt h
    unfold leafLoc
    rw [show pteBit 0xFD 56 = false by decide, show pteFrame 0xFD = 0 by decide, show pteNlc 0xFD = 0 by decide, if_pos rfl, this]
    dsimp only
    rw [Nat.zero_add]
    rfl
  rw [← hl, hreq]
  exact translate_uncached rfl rfl (by omega) (show (coreOf (loading [] 0) 0).refused = [] by decide +kernel) hw (by decide) (by decide) (by decide) (fun h => by cases h)

/-- A sector of the region as it is read, whatever the images. -/
def loaded (x : Loc) : SecRead := ⟨homeData (loading [] 0) (x.addr / 64), homeMarks (loading [] 0) (x.addr / 64), false⟩

theorem loading_read (im : SMap Nat) (n : Nat) (x : Loc) (h : x.host = false ∧ 0x100000 ≤ x.addr) :
    locRead true 0 x (loading im n) = (loaded x, loading im n) := by
  have hc := loading_code im n (x.addr / 64) (by omega)
  have hs := loading_sound im n (x.addr / 64)
  unfold locRead
  rw [h.1]
  exact readSector_clean hs.1 hs.2 (fun c k _ hk => by rw [hc] at hk; cases hk)

theorem image_found {s : State} {bs : List Byte} (h : s.images = [(fieldAt bs 0xA4000 8, (crc32 bs).toNat)]) (hn : s.nextImage = fieldAt bs 0xA4000 8 + 1) :
    findImage s bs = some (fieldAt bs 0xA4000 8) := by
  simp [findImage, h, hn, mget]

theorem loading_joint (im : SMap Nat) (n k : Nat) : (coreOf (loading im n) (1024 + k)).attrs.joint = false := by
  have hc : (loading im n).others.all (fun e => !e.2.attrs.joint) = true := show (loading [] 0).others.all (fun e => !e.2.attrs.joint) = true by decide +kernel
  have hn : ¬1024 + k = (loading im n).cur := show ¬1024 + k = (loading [] 0).cur by
    have : (loading [] 0).cur = 0 := by decide +kernel
    omega
  unfold coreOf mget
  simp only [hn, if_false]
  split
  · next e he => simpa using List.all_eq_true.mp hc e (List.mem_of_find?_eq_some he)
  · rfl

/-- SavingAndPreemption, of CTXLOAD: an image whose sectors are clean, on a free core, with the context that it names; and a core that runs. -/
theorem witness_SavingAndPreemption_image : ∃ (im : SMap Nat) (n id : Nat) (places : List Loc) (secs : List SecRead), let s := loading im n;
    Free 5 s.core.sh ∧ Reads 5 s.core.sh s.core.sh 5 ∧ Reads 10 s.core.sh s.core.sh 0x100000 ∧ bit s.core.attrs.rights 5 = true ∧
    (0x100000 : Word).toNat % 4096 = 0 ∧ imagePlaces (contextReq s s.cur) 0x100000 .read s = .ok places s ∧
    places.foldl (fun acc l => ((locRead true 0 l acc.2).1 :: acc.1, (locRead true 0 l acc.2).2)) (([] : List SecRead), s) = (secs, s) ∧
    (∀ r ∈ secs, r.e3 = false) ∧ s.host.launches = [] ∧ (coreOf s 5).run = .free ∧ (coreOf s 0).run ≠ .free ∧
    findImage s (secs.reverse.flatMap (fun r => leBytes 64 r.data.toNat)) = some id ∧ (coreOf s (1024 + id)).attrs.joint = false := by
  let ps : List Loc := (List.range imageSectors).map (fun i => ⟨false, 0x100000 + 64 * i, 0⟩)
  let secs := (ps.map loaded).reverse ++ []
  let bs := secs.reverse.flatMap (fun r => leBytes 64 r.data.toNat)
  have hps : ∀ x ∈ ps, x.host = false ∧ 0x100000 ≤ x.addr := fun x hx => by
    obtain ⟨i, _, rfl⟩ := List.mem_map.mp hx
    exact ⟨rfl, Nat.le_add_right ..⟩
  have closed : bit (loading [] 0).core.sh.empty 5 = false ∧ mget 0 (loading [] 0).core.sh.x 5 = 5 ∧ bit (loading [] 0).core.sh.empty 10 = false ∧
      mget 0 (loading [] 0).core.sh.x 10 = 0x100000 ∧ bit (loading [] 0).core.attrs.rights 5 = true ∧ (loading [] 0).cur = 0 ∧
      (loading [] 0).host.launches = [] ∧ (coreOf (loading [] 0) 5).run = .free ∧ (coreOf (loading [] 0) 0).run ≠ .free := by decide +kernel
  obtain ⟨h1, h2, h3, h4, h5, h6, h7, h8, h9⟩ := closed
  have main : ∀ (im : SMap Nat) (n : Nat), imagePlaces (contextReq (loading im n) 0) 0x100000 .read (loading im n) = .ok ps (loading im n) ∧
      ps.foldl (fun acc l => ((locRead true 0 l acc.2).1 :: acc.1, (locRead true 0 l acc.2).2)) (([] : List SecRead), loading im n) = (secs, loading im n) := by
    intro im n
    refine ⟨mapM_ok _ fun i hi => loading_translate im n _ ?_, foldl_locRead ps [] fun x hx => loading_read im n x (hps x hx)⟩
    have := List.mem_range.mp hi
    unfold imageSectors at this
    omega
  refine ⟨[(fieldAt bs 0xA4000 8, (crc32 bs).toNat)], fieldAt bs 0xA4000 8 + 1, fieldAt bs 0xA4000 8, ps, secs, .inr h1, .inr (.inr ⟨by decide, by decide, h1, h2.symm, rfl⟩),
    .inr (.inr ⟨by decide, by decide, h3, h4.symm, rfl⟩), h5, by decide, (main _ _).1, (main _ _).2, ?_, h7, h8, h9, image_found rfl rfl, loading_joint _ _ _⟩
  intro r hr
  obtain ⟨x, _, rfl⟩ := List.mem_map.mp (List.mem_reverse.mp (by simpa only [secs, List.append_nil] using hr))
  rfl

/-! ### Ill-formed lanes, one for each check of the guard and field checks; decode refuses the word of each -/

/-- The word of a lane that the guard check refuses. -/
def badGuard (i : Instr) : Bool := !i.guardOk && (match engOf i with
  | some e => decide (decodeLane e (encodeWord i) (litsOf i) = .error .illegalGuard)
  | none => false)
/-- The word of a lane that the field check refuses. -/
def badField (i : Instr) : Bool := i.guardOk && !i.fieldsOk && (match engOf i with
  | some e => decide (decodeLane e (encodeWord i) (litsOf i) = .error .illegalOp)
  | none => false)

def saOf (d a b : BitVec 6) (w : Bool) : SA := ⟨d, a, b, false, 0, false, w⟩
def guarded (d a b : BitVec 6) (p : BitVec 3) (n : Bool) : SA := ⟨d, a, b, false, p, n, false⟩

theorem smoke_guards : [Instr.sel (guarded 5 3 4 0 true), .aadd (guarded 5 3 4 0 true), .jr (guarded 0 3 0 0 true), .std ⟨5, 3, 0, 0, true, false, .none⟩,
    .br ⟨0, true, 4⟩, .add (guarded 5 3 4 2 false), .ceq (guarded 1 3 4 1 true), .spawn (guarded 5 3 0 1 false), .tlbinv (guarded 5 3 4 1 false)].all badGuard = true := by
  decide +kernel

theorem smoke_format_sa : [Instr.add (saOf 62 3 4 false), .acq (saOf 62 3 4 false), .clz (saOf 5 3 4 false), .clz (saOf 62 3 0 false), .afadd (saOf 5 3 4 false),
    .afadd (saOf 62 3 4 true), .sel (saOf 5 3 4 true), .fadd (saOf 62 3 4 false), .tkv (saOf 5 3 4 true), .fsqrt (saOf 5 3 4 false), .spawn (saOf 5 3 0 true), .done (saOf 62 3 0 false),
    .pick (saOf 5 3 0 false), .pick (saOf 5 0 3 false), .pick (saOf 5 0 0 true), .pick (saOf 62 0 0 false), .ceq (saOf 0 3 4 false), .cltu (saOf 8 3 4 false),
    .pand (saOf 8 1 2 false), .pand (saOf 1 8 2 false), .pand (saOf 1 2 8 false), .pand (saOf 1 2 3 true), .movp (saOf 62 1 0 false), .movp (saOf 5 8 0 false), .movp (saOf 5 1 1 false),
    .movp (saOf 5 1 0 true), .pset (saOf 0 3 0 false), .pset (saOf 1 3 1 false), .pset (saOf 1 3 0 true), .fceq (saOf 8 3 4 false), .fclt (saOf 1 3 4 true),
    .jr (saOf 1 3 0 false), .callr (saOf 0 3 1 false), .callr (saOf 0 3 0 true), .ret (saOf 1 0 0 false), .ret (saOf 0 1 0 false), .ret (saOf 0 0 1 false), .ret (saOf 0 0 0 true),
    .bind (saOf 5 3 4 true), .flagw (saOf 7 3 4 false), .flagadd (saOf 32 3 4 false), .flagw (saOf 8 3 4 true)].all badField = true := by
  decide +kernel

theorem smoke_format_si : [Instr.addi ⟨62, 3, 1, .none⟩, .ldd ⟨5, 3, 1, .one 7⟩, .shli ⟨5, 3, 64, .none⟩, .shri ⟨62, 3, 1, .none⟩, .sari ⟨5, 3, 1, .one 7⟩, .ceqi ⟨0, 3, 1, .none⟩,
    .clti ⟨1, 3, 1, .one 7⟩, .pref ⟨2, 3, 0, .none⟩, .pref ⟨1, 3, 1, .one 7⟩, .trap ⟨1, 3, 0, .none⟩, .trap ⟨0, 3, 1, .one 7⟩, .unbind ⟨1, 0, 0, .none⟩, .unbind ⟨0, 1, 0, .none⟩,
    .unbind ⟨0, 0, 0, .one 0⟩, .unbind ⟨0, 0, 64, .none⟩, .unbind ⟨0, 0, 33, .none⟩, .acqAll ⟨0, 0, 0, .one 0⟩, .acqAll ⟨0, 0, 5, .none⟩, .relAll ⟨0, 3, 16, .none⟩,
    .relAll ⟨1, 0, 0, .none⟩, .acqAll ⟨0, 0, 8, .none⟩, .mfence ⟨1, 0, 1, .none⟩, .mfence ⟨0, 1, 1, .none⟩, .mfence ⟨0, 0, 0, .one 1⟩, .mfence ⟨0, 0, 33, .none⟩, .mfence ⟨0, 0, 0, .none⟩,
    .flagr ⟨62, 0, 1, .none⟩, .flagr ⟨5, 1, 1, .none⟩, .flagr ⟨5, 0, 0, .one 1⟩, .flagr ⟨5, 0, 32, .none⟩, .srd ⟨62, 0, 0, .none⟩, .srd ⟨5, 1, 0, .none⟩, .srd ⟨5, 0, 0, .one 0⟩, .srd ⟨5, 0, 6, .none⟩,
    .swr ⟨1, 3, 1, .none⟩, .swr ⟨0, 3, 0, .one 1⟩, .swr ⟨0, 3, 0, .none⟩, .tlbinva ⟨62, 0, 0, .none⟩, .tlbinva ⟨5, 1, 0, .none⟩, .tlbinva ⟨5, 0, 1, .one 1⟩, .tlbinva ⟨5, 0, 2, .none⟩,
    .phaseB ⟨1, 0, 0, .none⟩, .phaseB ⟨0, 1, 0, .none⟩, .phaseB ⟨0, 0, 1, .none⟩, .phaseB ⟨0, 0, 0, .one 0⟩, .phaseC ⟨1, 0, 0, .none⟩, .phaseC ⟨0, 1, 0, .none⟩, .phaseC ⟨0, 0, 0, .one 0⟩,
    .phaseC ⟨0, 0, 40, .none⟩, .phaseC ⟨0, 0, 7, .none⟩, .phaseX ⟨62, 0, 0, .none⟩, .phaseX ⟨5, 1, 0, .none⟩, .phaseX ⟨5, 0, 1, .none⟩, .phaseX ⟨5, 0, 0, .one 0⟩, .rte ⟨1, 0, 0, .none⟩,
    .rte ⟨0, 1, 0, .none⟩, .rte ⟨0, 0, 3, .none⟩, .rte ⟨0, 0, 0, .one 0⟩, .rtdrain ⟨62, 3, 0, .none⟩, .rtdrain ⟨5, 3, 1, .none⟩, .rtdrain ⟨5, 0, 2, .none⟩, .rtdrain ⟨5, 3, 0, .one 0⟩,
    .rtfence ⟨62, 3, 0, .none⟩, .rtfence ⟨5, 3, 4, .none⟩, .rtfence ⟨5, 3, 0x200, .none⟩, .rtfence ⟨5, 3, 0, .one 0⟩].all badField = true := by
  decide +kernel

theorem smoke_other_shuttle : [Instr.stb ⟨5, 3, 1, 0, false, false, .one 7⟩, .li ⟨62, 0, .none⟩, .li ⟨5, 1, .one 7⟩, .addpc ⟨62, 0, .none⟩, .loop ⟨0, 2, .none⟩, .loop ⟨62, 2, .none⟩,
    .loop ⟨5, 2, .one 32⟩, .loop ⟨5, 0, .one 8⟩].all badField = true := by decide +kernel

def va7 (d a b : BitVec 5) (ty m : BitVec 3) (sat : Bool) (v : BitVec 2) : VA := ⟨d, a, b, ty, m, sat, v⟩

theorem smoke_vector_setup : [Instr.vshape ⟨0, 0, 1, 0, .none⟩, .vshape ⟨0, 0, 0, 1, .none⟩, .vshape ⟨0, 0, 0, 0, .one 0⟩, .vshape ⟨32, 1, 0, 0, .none⟩, .vrot ⟨16, 0, 0, 0, .none⟩,
    .vrot ⟨1, 1, 0, 0, .none⟩, .vrot ⟨1, 0, 1, 0, .none⟩, .vrot ⟨1, 0, 0, 1, .none⟩, .vrot ⟨1, 0, 0, 0, .one 0⟩, .vadv ⟨0, 0, 0, 0, .none⟩, .vadv ⟨16, 0, 0, 0, .none⟩, .vadv ⟨1, 1, 0, 0, .none⟩, .vadv ⟨1, 0, 1, 0, .none⟩,
    .vadv ⟨1, 0, 0, 1, .none⟩, .vadv ⟨1, 0, 0, 0, .one 0⟩, .rep ⟨1, 8, 0, 0, .none⟩, .rep ⟨1, 7, 2, 0, .none⟩, .rep ⟨1, 7, 0, 3, .none⟩, .rep ⟨1, 7, 1, 3, .none⟩, .rep ⟨0, 7, 1, 3, .one 4⟩, .rep ⟨1, 7, 0, 0, .one 4⟩,
    .vsets ⟨8, 0, 0, 3, .none⟩, .vsets ⟨1, 1, 0, 3, .none⟩, .vsets ⟨1, 0, 1, 3, .none⟩, .vsets ⟨1, 0, 0, 3, .one 4⟩, .vcnt ⟨1, 0, 0, 0, .none⟩, .vcnt ⟨0, 1, 0, 0, .none⟩, .vcnt ⟨0, 0, 1, 0, .none⟩, .vcnt ⟨0, 0, 0, 1, .none⟩,
    .vcnt ⟨0, 0, 0, 0, .one 0⟩].all (fun i => i.guardOk && !i.fieldsOk) = true := by decide +kernel

/-- Types 3 and 4 (FP8) where they are not allowed, an integer with a rounding mode, sat, and the fields that must be zero. -/
theorem smoke_vector : [Instr.vadd (va7 3 1 2 3 0 false 0), .vmul (va7 3 1 2 5 0 false 1), .vmin (va7 3 1 2 0 0 true 0), .vmax (va7 3 1 2 4 0 false 0), .vabs (va7 3 1 2 0 0 false 0),
    .vabs (va7 3 1 0 0 0 false 1), .vneg (va7 3 1 0 0 0 true 0), .vneg (va7 3 1 0 3 0 false 0), .vand (va7 3 1 2 0 0 false 0), .vshl (va7 3 1 2 5 0 true 0), .vsar (va7 3 1 2 5 0 false 1),
    .vcmpeq (va7 3 1 2 3 0 false 0), .vcmplt (va7 3 1 2 0 0 true 0), .vcmple (va7 0 1 2 0 0 false 0), .vcmple (va7 8 1 2 0 0 false 0), .vsel (va7 3 1 2 0 0 false 0), .vsel (va7 3 1 2 0 1 true 0),
    .vsel (va7 3 1 2 5 1 false 1), .vadds (va7 3 1 8 0 0 false 0), .vmuls (va7 3 1 2 3 0 false 0), .vexp2 (va7 3 1 0 5 0 false 0), .vlog2 (va7 3 1 1 0 0 false 0), .vtanh (va7 3 1 0 0 0 true 0),
    .vrsum (va7 3 1 0 3 0 false 0), .vrmax (va7 3 1 1 0 0 false 0), .vscan (va7 3 1 0 0 0 false 3), .vtopk (va7 3 1 1 6 0 false 0), .vtopk (va7 3 1 8 0 0 false 0), .vtopk (va7 3 1 1 0 0 false 2),
    .vtopk (va7 3 1 1 0 0 true 0), .vargmax (va7 3 1 0 3 0 false 0), .vargmax (va7 3 1 1 0 0 false 0), .vargmax (va7 3 1 0 0 0 false 3), .vargmax (va7 3 1 0 0 0 true 0), .vcvt (va7 3 1 16 0 0 false 0),
    .vcvt (va7 3 1 8 0 0 false 0), .vcvtsr (va7 3 1 1 0 0 false 1), .vcvtsr (va7 3 1 5 0 0 false 0), .vcvtsr (va7 3 1 1 1 0 false 0), .vcvtsr (va7 3 1 3 3 0 false 0), .vqmx (va7 3 1 5 0 0 false 0),
    .vqmx (va7 3 1 0 5 0 false 0), .vqmx (va7 3 1 0 0 1 false 0), .vqmx (va7 3 1 0 0 0 true 0), .vdqmx (va7 3 1 5 0 0 false 0), .vdqmx (va7 3 1 0 3 0 false 0), .vperm (va7 3 1 2 0 0 true 0), .vperm (va7 3 1 2 0 0 false 1),
    .vtrans (va7 3 1 0 0 1 false 0), .vtrans (va7 3 1 1 0 0 false 0), .vtrans (va7 3 1 0 0 0 true 0), .vtrans (va7 3 1 0 0 0 false 1), .vbcast (va7 3 1 1 0 0 false 0), .vbcast (va7 3 1 1 0 0 false 3),
    .vbcast (va7 3 0 8 0 0 false 3), .vbcast (va7 3 0 0 0 0 true 0), .vgath (va7 3 1 2 0 0 false 0), .vgath (va7 3 1 2 5 1 false 0), .vgath (va7 3 1 2 5 0 true 0), .vgath (va7 3 1 2 5 0 false 1),
    .vmov (va7 3 1 1 0 0 false 0), .vmov (va7 3 1 0 0 0 true 0), .vmov (va7 3 1 0 0 0 false 3), .vmov (va7 3 8 0 0 0 false 1), .vmov (va7 8 1 0 0 0 false 2), .vmov (va7 0 1 0 0 0 false 2), .vmov (va7 3 1 0 1 0 false 1),
    .vmov (va7 3 1 0 0 1 false 1), .vldt ⟨3, 1, 5, 0, 0, false, 0⟩, .vldt ⟨3, 0, 5, 0, 1, false, 0⟩, .vldt ⟨3, 0, 5, 0, 0, true, 0⟩, .vldt ⟨3, 0, 8, 0, 0, false, 3⟩, .vldt ⟨3, 0, 1, 1, 0, false, 3⟩,
    .vstt ⟨1, 1, 5, 0, 0, false, 0⟩, .vstt ⟨0, 1, 5, 0, 0, true, 0⟩, .vstt ⟨0, 1, 8, 0, 0, false, 3⟩, .vstt ⟨0, 1, 1, 1, 0, false, 3⟩].all badField = true := by decide +kernel

theorem smoke_matrix : [Instr.mcfg ⟨3, 0x20, true, .one 7⟩, .mcfg ⟨3, 0x18, true, .none⟩, .mcfg ⟨3, 0x50, true, .none⟩, .mdesc ⟨3, 5, true, .none⟩, .mdesc ⟨3, 0, true, .one 7⟩, .munf ⟨3, 5, true, .none⟩, .munf ⟨3, 0, true, .one 7⟩,
    .mgo ⟨1, 0, 0, 1, 0, true, 0⟩, .mjoin ⟨0, 0, 0, 1, 0, true, 2⟩, .mout ⟨0, 5, 0, 0, 0, false, 3, true⟩, .msave ⟨0, 6, true⟩, .mload ⟨0, 7, true⟩, .mzero ⟨0, 3, true⟩, .mstat ⟨1, 0, true⟩, .mstat ⟨0, 1, true⟩,
    .mclrf ⟨0, 1, true⟩, .dcfg ⟨3, 5, true, .none⟩, .dcfg ⟨3, 0, true, .one 7⟩, .dkey ⟨3, 48, true, .none⟩, .dkey ⟨3, 0x140, true, .none⟩, .dkey ⟨3, 0x200, true, .none⟩, .dkey ⟨3, 0, true, .one 7⟩, .dctr ⟨3, 48, true, .none⟩,
    .dctr ⟨3, 0, true, .one 7⟩, .dctrr ⟨0, 48, true, .none⟩, .dctrr ⟨1, 0, true, .none⟩, .dctrr ⟨0, 0, true, .one 7⟩, .dgram ⟨1, 4, 0, 0, 0, true, 1⟩, .dgram ⟨0, 4, 0, 1, 0, true, 1⟩, .dgram ⟨0, 4, 0, 0, 1, true, 1⟩,
    .dgram ⟨0, 4, 0, 0, 0, true, 2⟩, .dsamp ⟨1, 0, 0, 0, 0, true, 1⟩, .dsamp ⟨0, 1, 0, 0, 0, true, 1⟩, .dsamp ⟨0, 0, 1, 0, 0, true, 1⟩, .dsamp ⟨0, 0, 0, 1, 0, true, 1⟩, .dsamp ⟨0, 0, 0, 0, 1, true, 1⟩, .dsamp ⟨0, 0, 0, 0, 0, true, 2⟩,
    .dclus ⟨0, 0, 0, 0, 0, true, 1⟩, .dargmax ⟨0, 1, 0, 0, 0, true, 0⟩, .daccept ⟨1, 4, 0, 0, 0, true, 0⟩, .daccept ⟨0, 4, 0, 1, 0, true, 0⟩, .daccept ⟨0, 4, 0, 0, 1, true, 0⟩, .daccept ⟨0, 4, 0, 0, 0, true, 1⟩].all
      (fun i => i.guardOk && !i.fieldsOk) = true := by decide +kernel

def fmOf (st : Bool) (tile : BitVec 6) (tag : BitVec 2) (acq rel : Bool) (scope : BitVec 3) (cnt : Bool) (ch : BitVec 4) : FM := ⟨st, tile, tag, 3, acq, rel, scope, cnt, ch⟩

/-- A load in the store queue and a store in the load queue; a scope beyond 100, and one without acq or rel. -/
theorem smoke_ferry_and_gather : [Instr.fld (fmOf true 5 0 false false 0 true 0), .fst (fmOf false 5 0 false false 0 true 0), .fldp (fmOf false 5 0 true false 5 true 0), .fstp (fmOf true 5 0 false false 1 true 0),
    .fbb (fmOf true 1 0 false false 0 true 0), .fbb (fmOf true 0 1 false false 0 true 0), .fbb (fmOf false 0 0 false false 0 true 0), .fpbinv (fmOf true 1 0 false false 0 false 0), .fpbinv (fmOf true 0 1 false false 0 false 0),
    .fpbinv (fmOf true 0 0 true false 0 false 0), .fpbinv (fmOf true 0 0 false true 0 false 0), .fpbinv (fmOf true 0 0 false false 1 false 0), .fpbinv (fmOf true 0 0 false false 0 true 0), .fpbinv (fmOf true 0 0 false false 0 false 1),
    .fwp (fmOf true 8 1 false false 0 true 0), .fwp (fmOf true 8 0 true false 0 true 0), .fwp (fmOf true 8 0 false true 0 true 0), .fwp (fmOf true 8 0 false false 1 true 0), .fwp (fmOf true 7 0 false false 0 true 0),
    .fwp (fmOf true 32 0 false false 0 true 0), .gref ⟨1, 0, 3, 4, true⟩, .gcow ⟨0, 1, 3, 4, true⟩, .galloc ⟨1, 0, 3, 4, true⟩].all (fun i => i.guardOk && !i.fieldsOk) = true := by decide +kernel

/-! ### Words written out from the encodings of Tables 2.5 to 2.14: opcode, then the fields from bit 23 down -/

theorem test_word_integer : decodeLane .shuttle 0b00000001000101000011000100000000 .none = .ok (.add ⟨5, 3, 4, false, 0, false, false⟩) ∧
    decodeLane .shuttle 0b00001101000101000011000100100001 .none = .ok (.sar ⟨5, 3, 4, true, 0, false, true⟩) ∧
    decodeLane .shuttle 0b00010011000101000011111111111111 .none = .ok (.addi ⟨5, 3, 0xFFF, .none⟩) := by decide +kernel

theorem test_word_float : decodeLane .shuttle 0b00110010000101000011000100000000 .none = .ok (.fmul ⟨5, 3, 4, false, 0, false, false⟩) ∧
    decodeLane .shuttle 0b00111000000010000011000100000000 .none = .ok (.fceq ⟨2, 3, 4, false, 0, false, false⟩) := by decide +kernel

theorem test_word_memory : decodeLane .shuttle 0b01000100000101000011100000000000 .none = .ok (.ldw ⟨5, 3, 0x800, .none⟩) ∧
    decodeLane .shuttle 0b01001001000101000011111111100110 .none = .ok (.stw ⟨5, 3, 0x7F, 1, true, false, .none⟩) ∧
    decodeLane .shuttle 0b01010111000101000011000100101010 .none = .ok (.acas ⟨5, 3, 4, true, 2, true, false⟩) := by decide +kernel

theorem test_word_branch : decodeLane .shuttle 0b01100001010111111111111111111101 .none = .ok (.call ⟨2, true, 0xFFFFD⟩) ∧
    decodeLane .shuttle 0b01100101000101111111111111111110 .none = .ok (.loop ⟨5, 0x3FFFE, .none⟩) ∧
    decodeLane .shuttle 0b01100100000000000000000000001100 .none = .ok (.ret ⟨0, 0, 0, false, 3, false, false⟩) := by decide +kernel

theorem test_word_consistency : decodeLane .shuttle 0b01110000000101000011000100000000 .none = .ok (.bind ⟨5, 3, 4, false, 0, false, false⟩) ∧
    decodeLane .shuttle 0b01110100000101000011000000001010 .none = .ok (.acqAll ⟨5, 3, 0xA, .none⟩) ∧
    decodeLane .shuttle 0b01111001000101000000000000011111 .none = .ok (.flagr ⟨5, 0, 31, .none⟩) := by decide +kernel

theorem test_word_loom_and_nodes : decodeLane .shuttle 0b10000000000101000011000000000000 .none = .ok (.spawn ⟨5, 3, 0, false, 0, false, false⟩) ∧
    decodeLane .shuttle 0b10001001000101000011000100000000 .none = .ok (.hcfg ⟨5, 3, 4, false, 0, false, false⟩) ∧
    decodeLane .shuttle 0b10010011000101000011000100000000 .none = .ok (.nst ⟨5, 3, 4, false, 0, false, false⟩) := by decide +kernel

theorem test_word_system : decodeLane .shuttle 0b10100000000101000000000100010011 .none = .ok (.srd ⟨5, 0, 0x113, .none⟩) ∧
    decodeLane .shuttle 0b10101000000000000000000000001000 .none = .ok (.phaseC ⟨0, 0, 8, .none⟩) ∧
    decodeLane .shuttle 0b10101101000101000011000100000000 .none = .ok (.rtset ⟨5, 3, 4, false, 0, false, false⟩) := by decide +kernel

theorem test_word_vector : decodeLane .vector 0b00100001000100000100011010101000 .none = .ok (.vcmple ⟨2, 1, 3, 2, 5, false, 0⟩) ∧
    decodeLane .vector 0b01110001100000001100010101001000 .none = .ok (.vstt ⟨16, 3, 5, 1, 1, false, 0⟩) ∧
    decodeLane .vector 0b00000100000101000111000000000000 .none = .ok (.rep ⟨5, 7, 0, 0, .none⟩) ∧
    decodeLane .vector 0b01100001000110000100001000111100 .none = .ok (.vcvtsr ⟨3, 1, 1, 0, 7, true, 0⟩) := by decide +kernel

theorem test_word_matrix : decodeLane .matrix 0b00000010000000111000100001100001 .none = .ok (.mgo ⟨0, 3, 2, 8, 1, true, 1⟩) ∧
    decodeLane .matrix 0b00000001000100000000100000100000 .none = .ok (.mcfg ⟨4, 0x20, true, .none⟩) ∧
    decodeLane .matrix 0b00000110100001010111111110011000 .none = .ok (.mout ⟨2, 5, 1, 7, 3, true, 9, true⟩) ∧
    decodeLane .matrix 0b00000111011010000000000000100000 .none = .ok (.msave ⟨1, 5, true⟩) := by decide +kernel

theorem test_word_draw : decodeLane .matrix 0b00100000000100000000000011000000 .none = .ok (.dcfg ⟨4, 3, false, .none⟩) ∧
    decodeLane .matrix 0b00100111000011000100000000100000 .none = .ok (.daccept ⟨0, 12, 1, 0, 0, true, 0⟩) := by decide +kernel

theorem test_word_ferry : decodeLane .ferryStore 0b00000100000111100011001110011001 .none = .ok (.fstp ⟨true, 7, 2, 12, true, true, 4, true, 9⟩) ∧
    decodeLane .ferryLoad 0b00001110001000000011000000000011 .none = .ok (.fwp ⟨false, 8, 0, 12, false, false, 0, false, 3⟩) := by decide +kernel

theorem test_word_gather : decodeLane .gather 0b00000011001000010010100010111000 .none = .ok (.gemb ⟨8, 1, 10, 11, true⟩) ∧
    decodeLane .gather 0b00000101000000000010100010110000 .none = .ok (.gcow ⟨0, 0, 10, 11, false⟩) := by decide +kernel

/-- Reserved fields, opcodes that are not defined, a Ferry opcode in the other queue. -/
theorem smoke_words : [decodeLane .matrix 0x01100801 .none, decodeLane .matrix 0x06850781 .none, decodeLane .matrix 0x07000040 .none, decodeLane .gather 0x03214A81 .none,
    decodeLane .shuttle 0 .none, decodeLane .shuttle 0x26000000 .none, decodeLane .shuttle 0xAF000000 .none, decodeLane .vector 0x07000000 .none, decodeLane .matrix 0x29000000 .none,
    decodeLane .ferryLoad 0x0F000000 .none, decodeLane .ferryLoad 0x03000000 .none, decodeLane .ferryStore 0x01000000 .none, decodeLane .gather 0x0D000000 .none].all
      (fun r => decide (r = .error .illegalOp)) = true := by decide +kernel

/-! The bundle that the spec works to the bit, and the faults that it gives for its neighbours (R16 to R26, Table 2.13). -/

def worked : List (BitVec 32) := [0x00112710, 0x1A1C0000, 0x12345678, 0x10184400, 0x1D087240, 0x604FFFFD, 0, 0]

theorem test_worked_bundle : decodeBundle 0 none worked = .ok ⟨0, 0x1A1C0000, [⟨1, none, .li ⟨7, 0, .one 0x12345678⟩⟩,
    ⟨3, some .vector, .vadd ⟨3, 1, 2, 0, 0, false, 0⟩⟩, ⟨4, none, .clt ⟨2, 7, 9, false, 0, false, false⟩⟩, ⟨5, none, .br ⟨2, false, 0xFFFFD⟩⟩]⟩ := by decide +kernel

theorem test_bundle_faults :
    decodeBundle 0 none (worked.set 1 0x01143100) = .error (2, .illegalLane) ∧ decodeBundle 0 none (worked.set 1 0x1A1C0001) = .error (1, .illegalOp) ∧
    decodeBundle 0 none (worked.set 4 0x61000004) = .error (5, .illegalLane) ∧ decodeBundle 0 none (worked.set 0 0x00112714) = .error (0, .illegalLane) ∧
    decodeBundle 0 none (worked.set 0 0x00812710) = .error (5, .illegalLane) ∧ decodeBundle 0 none (worked.set 0 0x00112711) = .error (1, .illegalLane) ∧
    decodeBundle 0 none [0x00000001, 0x06000000, 0, 0, 0, 0, 0, 0] = .error (1, .illegalLane) ∧ decodeBundle 0 none [0x00000113, 0, 0, 0, 0, 0, 0, 0] = .error (1, .illegalLane) ∧
    decodeBundle 0 none [0x00000110, 0xAA000000, 0xAA000000, 0, 0, 0, 0, 0] = .error (2, .illegalLane) := by decide +kernel

/-! ### The interface: a word of the table, and the step that runs it first after reset -/

theorem test_table_words : decodeTableWord 32 0x01143100 = some (.add ⟨5, 3, 4, false, 0, false, false⟩) ∧ decodeTableWord 32 0xFFFFFFFF = none := by decide +kernel
theorem test_placed_lane_runs : nextAnd (step (State.reset.withFetchWord 32 0x1A140007)) (fun t => mget 0 t.core.sh.x 5 == 7 && t.core.sh.pc == 0x20020) = true := by
  decide +kernel
theorem test_placed_command_runs : nextAnd (step (placeEngine .matrix (.mzero ⟨1, 2, false⟩) State.reset)) (fun t => (mget {} t.core.mat.metas 1).mode == 2 &&
    t.core.mq.entries == []) = true := by decide +kernel

end Sys2Proof.Tests
end

section
/-! SUPPORT. The arithmetic of Table 10.6: each operation of the model as the operation of `BitVec` that the statements name. -/

namespace Sys2Proof.ShuttleLanes
open Sys2Proof Sys2Proof.Machine Sys2Proof.Claims Sys2Proof.Laws

theorem bits_low {n : Nat} (v : BitVec n) (hi : Nat) : bits v hi 0 = v.toNat % 2 ^ (hi + 1) := by
  simp [bits]

/-- The shift amount of the 32-bit forms is B[4:0] of the whole register. -/
theorem bits_setWidth_low (y : Word) : bits (y.setWidth 32) 4 0 = y.toNat % 32 := by
  rw [bits_low, BitVec.toNat_setWidth]
  omega

/-- Cutting a number to 2n bits and then taking the upper n of them is dividing by 2^n and cutting to n bits. -/
theorem extractLsb'_ofInt_high (n : Nat) (p : Int) : (BitVec.ofInt (n + n) p).extractLsb' n n = BitVec.ofInt n (p / 2 ^ n) := by
  have hpos : (0 : Int) < 2 ^ n := by positivity
  have hsplit : p / 2 ^ n = p % (2 ^ n * 2 ^ n) / 2 ^ n + p / (2 ^ n * 2 ^ n) * 2 ^ n := by
    rw [← Int.add_mul_ediv_right _ _ hpos.ne', mul_assoc, Int.mul_comm (p / _), Int.emod_add_mul_ediv]
  apply BitVec.eq_of_toNat_eq
  zify
  simp [Nat.shiftRight_eq_div_pow, pow_add, hsplit, Int.emod_nonneg _ hpos.ne', Int.emod_nonneg _ (mul_pos hpos hpos).ne']

/-- The high half of the product is the upper n bits of the sign-extended operands' 2n-bit product. -/
theorem mulHigh_eq_extract (n : Nat) (x y : BitVec n) :
    mulHigh n x y = (x.signExtend (n + n) * y.signExtend (n + n)).extractLsb' n n := by
  have hprod : x.signExtend (n + n) * y.signExtend (n + n) = BitVec.ofInt (n + n) (x.toInt * y.toInt) := by
    rw [BitVec.ofInt_mul]
    rfl
  rw [hprod, extractLsb'_ofInt_high, mulHigh]

theorem divS_eq (n : Nat) (x y : BitVec n) : divS n x y = if y = 0 then BitVec.allOnes n else x.sdiv y := by
  have h : BitVec.ofInt n (x.toInt.tdiv y.toInt) = x.sdiv y := BitVec.toInt_inj.mp (by rw [BitVec.toInt_ofInt, BitVec.toInt_sdiv])
  rw [divS, h]

theorem divU_eq (n : Nat) (x y : BitVec n) : divU n x y = if y = 0 then BitVec.allOnes n else x.udiv y := by
  rw [divU, BitVec.udiv_eq, BitVec.udiv_def]

theorem remS_eq (n : Nat) (x y : BitVec n) : remS n x y = if y = 0 then x else x.srem y := by
  rw [remS, ← BitVec.toInt_srem, BitVec.ofInt_toInt]

theorem minS_eq (n : Nat) (x y : BitVec n) : minS n x y = if x.toInt ≤ y.toInt then x else y := by
  unfold minS
  by_cases h : x.toInt ≤ y.toInt <;> simp [BitVec.slt_iff_toInt_lt, h]

/-- At equality the model keeps the first operand and the statement names the second: the same value. -/
theorem maxS_eq (n : Nat) (x y : BitVec n) : maxS n x y = if x.toInt ≤ y.toInt then y else x := by
  unfold maxS
  rcases lt_trichotomy x.toInt y.toInt with h | h | h
  · simp [BitVec.slt_iff_toInt_lt, h, h.le]
  · simp [BitVec.toInt_inj.mp h]
  · simp [BitVec.slt_iff_toInt_lt, h.not_ge, h.not_gt]

theorem leading_le (n : Nat) (x : BitVec n) : leading n x ≤ n := by
  simpa [leading] using (List.takeWhile_sublist (fun i => !x.getLsbD (n - 1 - i)) (l := List.range n)).length_le

/-- The leading zeros of a value whose highest set bit is bit `h`. -/
theorem leading_of_highest {n h : Nat} {x : BitVec n} (hn : h < n) (hset : x.getLsbD h = true)
    (hclear : ∀ i, h < i → x.getLsbD i = false) : leading n x = n - 1 - h := by
  have hidx : (List.range n).findIdx (fun i => !!x.getLsbD (n - 1 - i)) = n - 1 - h := by
    rw [List.findIdx_eq (by rw [List.length_range]; omega)]
    simp only [List.getElem_range, Bool.not_not]
    exact ⟨by rw [show n - 1 - (n - 1 - h) = h by omega, hset], fun j hj => hclear _ (by omega)⟩
  rw [leading, List.takeWhile_eq_take_findIdx_not, hidx, List.length_take, List.length_range]
  omega

theorem leading_zero (n : Nat) : leading n (0 : BitVec n) = n := by
  rw [leading, List.takeWhile_eq_self_iff.mpr (by simp), List.length_range]

theorem leadZeros_eq (n : Nat) (x : BitVec n) : leadZeros n x = BitVec.ofNat n (leading n x) := by
  by_cases hx : x = 0
  · rw [leadZeros, if_pos hx, hx, leading_zero]
  · have hne : x.toNat ≠ 0 := fun h => hx (BitVec.eq_of_toNat_eq h)
    have hlog : x.toNat.log2 < n := (Nat.log2_lt hne).mpr x.isLt
    rw [leadZeros, if_neg hx, leading_of_highest hlog (Nat.testBit_log2 hne)
      (fun i hi => Nat.testBit_lt_two_pow ((Nat.log2_lt hne).mp hi))]

theorem ones_le (n : Nat) (x : BitVec n) : ones n x ≤ n := by
  simpa [ones] using List.length_filter_le (fun i => x.getLsbD i) (List.range n)

theorem popCount_eq (n : Nat) (x : BitVec n) : popCount n x = BitVec.ofNat n (ones n x) := by
  rw [popCount, List.countP_eq_length_filter]; rfl

/-- A count of at most 32 has no sign bit in 32 bits. -/
theorem signExtend_ofNat_of_le {k : Nat} (h : k ≤ 32) : (BitVec.ofNat 32 k).signExtend 64 = BitVec.ofNat 64 k := by
  have hmsb : (BitVec.ofNat 32 k).msb = false := by
    rw [BitVec.msb_eq_false_iff_two_mul_lt, BitVec.toNat_ofNat]
    omega
  rw [BitVec.signExtend_eq_setWidth_of_msb_false hmsb]
  exact BitVec.eq_of_toNat_eq (by simp; omega)
end Sys2Proof.ShuttleLanes
end

section
/-! SUPPORT. Encoding and decoding of the formats SA, SI and SL: the fields read back, and a lane with a bad field is ILLEGAL_OP. -/

namespace Sys2Proof.ShuttleLanes
open Sys2Proof Sys2Proof.Machine Sys2Proof.Claims Sys2Proof.Laws

theorem toNat_append_eq_mul_add {m k : Nat} (x : BitVec m) (y : BitVec k) : (x ++ y).toNat = x.toNat * 2 ^ k + y.toNat := by
  rw [BitVec.toNat_append, Nat.shiftLeft_eq, Nat.mul_comm, Nat.two_pow_add_eq_or_of_lt y.isLt]

/-- A field of a word: the value that stands above the lowest `lo` bits. -/
theorem extractLsb'_eq_of_toNat {n k : Nat} {w : BitVec n} {x : BitVec k} (lo : Nat) (h : w.toNat / 2 ^ lo % 2 ^ k = x.toNat) :
    w.extractLsb' lo k = x :=
  BitVec.eq_of_toNat_eq (by rw [BitVec.extractLsb'_toNat, Nat.shiftRight_eq_div_pow, h])

theorem bit_eq_of_toNat {n : Nat} {w : BitVec n} {b : Bool} (i : Nat) (h : w.toNat / 2 ^ i % 2 = (b1 b).toNat) : bit w i = b := by
  rw [bit, BitVec.getLsbD, Nat.testBit_eq_decide_div_mod_eq, h]
  cases b <;> rfl

theorem toNat_putSA (op : BitVec 8) (f : SA) :
    (putSA op f).toNat = ((((((op.toNat * 2 ^ 6 + f.d.toNat) * 2 ^ 6 + f.a.toNat) * 2 ^ 6 + f.b.toNat) * 2 ^ 1 + (b1 f.t).toNat) * 2 ^ 3 +
      f.p.toNat) * 2 ^ 1 + (b1 f.n).toNat) * 2 ^ 1 + (b1 f.w).toNat := by
  unfold putSA
  iterate 7 rw [toNat_append_eq_mul_add]

theorem toNat_putSI (op : BitVec 8) (f : SI) : (putSI op f).toNat = ((op.toNat * 2 ^ 6 + f.d.toNat) * 2 ^ 6 + f.a.toNat) * 2 ^ 12 + f.imm.toNat := by
  unfold putSI
  iterate 3 rw [toNat_append_eq_mul_add]

theorem toNat_putSL (op : BitVec 8) (f : SL) : (putSL op f).toNat = (op.toNat * 2 ^ 6 + f.d.toNat) * 2 ^ 18 + f.imm.toNat := by
  unfold putSL
  iterate 2 rw [toNat_append_eq_mul_add]

theorem opcode_putSA (op : BitVec 8) (f : SA) : bits (putSA op f) 31 24 = op.toNat := by
  rw [bits, toNat_putSA]
  omega

theorem opcode_putSI (op : BitVec 8) (f : SI) : bits (putSI op f) 31 24 = op.toNat := by
  rw [bits, toNat_putSI]
  omega

theorem opcode_putSL (op : BitVec 8) (f : SL) : bits (putSL op f) 31 24 = op.toNat := by
  rw [bits, toNat_putSL]
  omega

theorem readSA_putSA (op : BitVec 8) (f : SA) : readSA (putSA op f) = f := by
  have hw := toNat_putSA op f
  unfold readSA
  congr 1
  · exact extractLsb'_eq_of_toNat 18 (by omega)
  · exact extractLsb'_eq_of_toNat 12 (by omega)
  · exact extractLsb'_eq_of_toNat 6 (by omega)
  · exact bit_eq_of_toNat 5 (by omega)
  · exact extractLsb'_eq_of_toNat 2 (by omega)
  · exact bit_eq_of_toNat 1 (by omega)
  · exact bit_eq_of_toNat 0 (by omega)

theorem readSI_putSI (op : BitVec 8) (f : SI) : readSI (putSI op f) f.lit = f := by
  have hw := toNat_putSI op f
  unfold readSI
  congr 1
  · exact extractLsb'_eq_of_toNat 18 (by omega)
  · exact extractLsb'_eq_of_toNat 12 (by omega)
  · exact extractLsb'_eq_of_toNat 0 (by omega)

theorem readSL_putSL (op : BitVec 8) (f : SL) : readSL (putSL op f) f.lit = f := by
  have hw := toNat_putSL op f
  unfold readSL
  congr 1
  · exact extractLsb'_eq_of_toNat 18 (by omega)
  · exact extractLsb'_eq_of_toNat 0 (by omega)

/-- A lane whose word reads back as an instruction with legal guard fields and a bad field (R24). -/
theorem decodeLane_illegalOp {e : Eng} {w : LaneWord} {l : Lit} {i : Instr} {op res : Nat} {lit : Bool} {mk : LaneWord → Lit → Instr}
    (hop : findOp e (bits w 31 24) = some (op, lit, res, mk)) (hmk : mk w l = i) (hg : i.guardOk = true) (hf : i.fieldsOk = false) :
    decodeLane e w l = .error .illegalOp := by
  simp [decodeLane, hop, hmk, laneGuardOk, laneFieldsOk, hg, hf]

theorem illegalField_putSA {i : Instr} {f : SA} {op : BitVec 8} {k res : Nat} {lit : Bool} (mk : SA → Instr)
    (hop : findOp .shuttle op.toNat = some (k, lit, res, fun w _ => mk (readSA w))) (hw : encodeWord i = putSA op f)
    (hmk : mk f = i) (hf : i.fieldsOk = false) : IllegalField .shuttle i := fun hg =>
  decodeLane_illegalOp (by rw [hw, opcode_putSA, hop]) (by rw [hw, readSA_putSA, hmk]) hg hf

theorem illegalField_putSI {i : Instr} {f : SI} {op : BitVec 8} {k res : Nat} {lit : Bool} (mk : SI → Instr)
    (hop : findOp .shuttle op.toNat = some (k, lit, res, fun w l => mk (readSI w l))) (hw : encodeWord i = putSI op f)
    (hl : litsOf i = f.lit) (hmk : mk f = i) (hf : i.fieldsOk = false) : IllegalField .shuttle i := fun hg =>
  decodeLane_illegalOp (by rw [hw, opcode_putSI, hop]) (by rw [hw, hl, readSI_putSI, hmk]) hg hf

theorem illegalField_putSL {i : Instr} {f : SL} {op : BitVec 8} {k res : Nat} {lit : Bool} (mk : SL → Instr)
    (hop : findOp .shuttle op.toNat = some (k, lit, res, fun w l => mk (readSL w l))) (hw : encodeWord i = putSL op f)
    (hl : litsOf i = f.lit) (hmk : mk f = i) (hf : i.fieldsOk = false) : IllegalField .shuttle i := fun hg =>
  decodeLane_illegalOp (by rw [hw, opcode_putSL, hop]) (by rw [hw, hl, readSL_putSL, hmk]) hg hf

end Sys2Proof.ShuttleLanes
end

section
/-! PROOFS. The SA integer instructions and the divisions (R203 to R205). -/

namespace Sys2Proof.ShuttleLanes
open Sys2Proof Sys2Proof.Machine Sys2Proof.Claims Sys2Proof.Laws

/-! ### From the shared operand forms to the statements -/

theorem twoSources_of_saResult {i : Instr} {f : SA} {op r : Word → Word → Word} (hi : ∀ s, exec i s = runM (saResult f op) s)
    (hr : ∀ x y, op x y = r x y) : TwoSources i f.d f.a f.b (fun h x y => put h f.d (r x y)) := by
  intro s h1 h2 x y hd ha hb
  rw [hi, saResult_ok hd ha hb, hr]

theorem twoSources_of_saLater {i : Instr} {f : SA} {op r : Word → Word → Word} (hi : ∀ s, exec i s = runM (saLater f op) s)
    (hr : ∀ x y, op x y = r x y) : TwoSources i f.d f.a f.b (fun h x y => putLater h f.d (r x y)) := by
  intro s h1 h2 x y hd ha hb
  rw [hi, saLater_ok hd ha hb, hr]

theorem oneSource_of_saResult1 {i : Instr} {f : SA} {op r : Word → Word} (hi : ∀ s, exec i s = runM (saResult1 f op) s)
    (hr : ∀ x, op x = r x) : OneSource i f.d f.a (fun h x => put h f.d (r x)) := by
  intro s h1 x hd ha
  rw [hi, saResult1_ok hd ha, hr]

/-- The two columns of Table 10.6, each by its own equation. -/
theorem wide_eq_forms {w : Bool} {op64 : Word → Word → Word} {op32 : BitVec 32 → BitVec 32 → BitVec 32} {x y r64 : Word} {r32 : BitVec 32}
    (h64 : op64 x y = r64) (h32 : op32 (x.setWidth 32) (y.setWidth 32) = r32) : wide w op64 op32 x y = forms w r64 r32 := by
  rw [wide, forms, h64, h32]

/-- A count of bits: the 32-bit form's sign extension leaves it, since it is at most 32. -/
theorem wide_count {w : Bool} {op64 : Word → Word} {op32 : BitVec 32 → BitVec 32} {x : Word} {n64 n32 : Nat}
    (h64 : op64 x = BitVec.ofNat 64 n64) (h32 : op32 (x.setWidth 32) = BitVec.ofNat 32 n32) (hle : n32 ≤ 32) :
    wide w (fun a _ => op64 a) (fun a _ => op32 a) x 0 = if w then BitVec.ofNat 64 n32 else BitVec.ofNat 64 n64 := by
  rw [wide, h64, h32, signExtend_ofNat_of_le hle]

/-- R204: both sources are read, and the guard selects. -/
theorem twoSources_sel (f : SA) : TwoSources (.sel f) f.d f.a f.b (fun h x y => put h f.d (if Guard h f.p f.n then x else y)) := by
  intro s h1 h2 x y hd ha hb
  exact runM_sh (by simp [awaitDest_free hd, ab_reads ha hb, guard_eq, put_eq])

/-! ### The statement -/

theorem integerResults : IntegerResults := by
  intro f
  refine ⟨?add, ?sub, ?mul, ?mulh, ?and, ?or, ?xor, ?shl, ?shr, ?sar, ?min, ?max, ?clz, ?popc, twoSources_sel f⟩
  case add => exact twoSources_of_saResult (fun _ => rfl) fun x y => wide_eq_forms rfl rfl
  case sub => exact twoSources_of_saResult (fun _ => rfl) fun x y => wide_eq_forms rfl rfl
  case mul => exact twoSources_of_saResult (fun _ => rfl) fun x y => wide_eq_forms rfl rfl
  case mulh => exact twoSources_of_saResult (fun _ => rfl) fun x y => wide_eq_forms (mulHigh_eq_extract 64 x y) (mulHigh_eq_extract 32 _ _)
  case and => exact twoSources_of_saResult (fun _ => rfl) fun x y => wide_eq_forms rfl rfl
  case or => exact twoSources_of_saResult (fun _ => rfl) fun x y => wide_eq_forms rfl rfl
  case xor => exact twoSources_of_saResult (fun _ => rfl) fun x y => wide_eq_forms rfl rfl
  case shl =>
    exact twoSources_of_saResult (fun _ => rfl) fun x y => wide_eq_forms (congrArg (x <<< ·) (bits_low y 5))
      (congrArg (x.setWidth 32 <<< ·) (bits_setWidth_low y))
  case shr =>
    exact twoSources_of_saResult (fun _ => rfl) fun x y => wide_eq_forms (congrArg (x >>> ·) (bits_low y 5))
      (congrArg (x.setWidth 32 >>> ·) (bits_setWidth_low y))
  case sar =>
    exact twoSources_of_saResult (fun _ => rfl) fun x y => wide_eq_forms (congrArg x.sshiftRight (bits_low y 5))
      (congrArg (x.setWidth 32).sshiftRight (bits_setWidth_low y))
  case min => exact twoSources_of_saResult (fun _ => rfl) fun x y => wide_eq_forms (minS_eq 64 x y) (minS_eq 32 _ _)
  case max => exact twoSources_of_saResult (fun _ => rfl) fun x y => wide_eq_forms (maxS_eq 64 x y) (maxS_eq 32 _ _)
  case clz =>
    exact oneSource_of_saResult1 (fun _ => rfl) fun x => wide_count (leadZeros_eq 64 x) (leadZeros_eq 32 _) (leading_le 32 _)
  case popc =>
    exact oneSource_of_saResult1 (fun _ => rfl) fun x => wide_count (popCount_eq 64 x) (popCount_eq 32 _) (ones_le 32 _)

theorem divisionResults : DivisionResults := fun _ =>
  ⟨twoSources_of_saLater (fun _ => rfl) fun x y => wide_eq_forms (divS_eq 64 x y) (divS_eq 32 _ _),
    twoSources_of_saLater (fun _ => rfl) fun x y => wide_eq_forms (divU_eq 64 x y) (divU_eq 32 _ _),
    twoSources_of_saLater (fun _ => rfl) fun x y => wide_eq_forms (remS_eq 64 x y) (remS_eq 32 _ _)⟩

/-- Settles O1: each lane is one of the shared operand forms, and its operation is the one that the statement names. -/
theorem integerArithmetic : Obligations.IntegerArithmetic := ⟨integerResults, divisionResults⟩

end Sys2Proof.ShuttleLanes
end

section
/-! PROOFS. The SI instructions, the compares and the predicate instructions (R206 to R209). -/

namespace Sys2Proof.ShuttleLanes
open Sys2Proof Sys2Proof.Machine Sys2Proof.Claims Sys2Proof.Laws

theorem oneSource_of_siResult {i : Instr} {f : SI} {op : Word → Word → Word} (hi : ∀ s, exec i s = runM (siResult f op) s) :
    OneSource i f.d f.a (fun h x => put h f.d (op x (immediate f.imm f.lit))) := by
  intro s h1 x hd ha
  rw [hi, siResult_ok hd ha, value_eq]

theorem exec_li {f : SL} {s : State} (hd : Free f.d s.core.sh) :
    exec (.li f) s = .next (onlySh s (put s.core.sh f.d (immediate f.imm f.lit))) :=
  runM_sh (by simp [awaitDest_free hd, valueL_eq, put_eq])

theorem exec_addpc {f : SL} {s : State} (hd : Free f.d s.core.sh) :
    exec (.addpc f) s = .next (onlySh s (put s.core.sh f.d (s.core.sh.pc + immediate f.imm f.lit))) :=
  runM_sh (by simp [awaitDest_free hd, valueL_eq, put_eq])

theorem immediateResults : ImmediateResults := by
  refine ⟨fun _ => ⟨?addi, ?andi, ?ori, ?xori, ?shli, ?shri, ?sari⟩, fun _ _ hd => ⟨exec_li hd, exec_addpc hd⟩⟩
  case addi => exact oneSource_of_siResult (op := (· + ·)) fun _ => rfl
  case andi => exact oneSource_of_siResult (op := (· &&& ·)) fun _ => rfl
  case ori => exact oneSource_of_siResult (op := (· ||| ·)) fun _ => rfl
  case xori => exact oneSource_of_siResult (op := (· ^^^ ·)) fun _ => rfl
  case shli => exact oneSource_of_siResult (op := fun a i => a <<< i.toNat) fun _ => rfl
  case shri => exact oneSource_of_siResult (op := fun a i => a >>> i.toNat) fun _ => rfl
  case sari => exact oneSource_of_siResult (op := fun a i => a.sshiftRight i.toNat) fun _ => rfl

/-! ### Compares and predicates -/

theorem twoReads_of_saCompare {i : Instr} {f : SA} {op r : Word → Word → Bool} (hi : ∀ s, exec i s = runM (saCompare f op) s)
    (hr : ∀ x y, op x y = r x y) : TwoReads i f.a f.b (fun h x y => putP h f.d (r x y)) := by
  intro s h1 h2 x y ha hb
  rw [hi]
  exact runM_sh (by simp [saCompare, ab_reads ha hb, hr, putP])

/-- CLTU's 32-bit form compares the low words as numbers. -/
theorem wideCmp_ult (w : Bool) (x y : Word) : wideCmp w (·.ult ·) (·.ult ·) x y =
    if w then decide (x.toNat % 2 ^ 32 < y.toNat % 2 ^ 32) else decide (x.toNat < y.toNat) := by
  simp only [wideCmp, BitVec.ult_eq_decide, BitVec.toNat_setWidth]

theorem oneRead_pset (f : SA) : OneRead (.pset f) f.a (fun h x => putP h f.d (x != 0)) := fun _ _ _ ha =>
  runM_sh (by simp [readX_reads ha, putP])

theorem oneRead_ceqi (f : SI) : OneRead (.ceqi f) f.a (fun h x => putP h f.d (x == immediate f.imm f.lit)) := fun _ _ _ ha =>
  runM_sh (by simp [readX_reads ha, value_eq, putP])

theorem oneRead_clti (f : SI) : OneRead (.clti f) f.a (fun h x => putP h f.d (x.toInt < (immediate f.imm f.lit).toInt)) := fun _ _ _ ha =>
  runM_sh (by simp [readX_reads ha, value_eq, putP, BitVec.slt_eq_decide])

theorem predResult_ok (f : SA) (op : Bool → Bool → Bool) (s : State) :
    runM (predResult f op) s = .next (onlySh s (putP s.core.sh f.d (op (predicate s.core.sh f.a) (predicate s.core.sh f.b)))) :=
  runM_sh (by simp [predResult, pred_eq, putP])

theorem exec_movp {f : SA} {s : State} (hd : Free f.d s.core.sh) :
    exec (.movp f) s = .next (onlySh s (put s.core.sh f.d (if predicate s.core.sh f.a then 1 else 0))) :=
  runM_sh (by simp [awaitDest_free hd, pred_eq, put_eq])

theorem pDst_eq_false {d : BitVec 6} (hd : d = 0 ∨ 8 ≤ d.toNat) : pDst d = false := by
  rcases hd with rfl | hd
  · rfl
  · simp only [pDst, Bool.and_eq_false_iff, decide_eq_false_iff_not]
    omega

theorem illegalField_compareSA {f : SA} (hd : f.d = 0 ∨ 8 ≤ f.d.toNat) : ∀ i ∈ [Instr.ceq f, .clt f, .cltu f], IllegalField .shuttle i := by
  have hf := pDst_eq_false hd
  simp only [List.forall_mem_cons, List.not_mem_nil, false_implies, implies_true, and_true]
  exact ⟨illegalField_putSA .ceq rfl rfl rfl hf, illegalField_putSA .clt rfl rfl rfl hf, illegalField_putSA .cltu rfl rfl rfl hf⟩

theorem illegalField_compareSI {f : SI} (hd : f.d = 0 ∨ 8 ≤ f.d.toNat) : ∀ i ∈ [Instr.ceqi f, .clti f], IllegalField .shuttle i := by
  have hf : (pDst f.d && f.litOk) = false := by rw [pDst_eq_false hd, Bool.false_and]
  simp only [List.forall_mem_cons, List.not_mem_nil, false_implies, implies_true, and_true]
  exact ⟨illegalField_putSI .ceqi rfl rfl rfl rfl hf, illegalField_putSI .clti rfl rfl rfl rfl hf⟩

theorem compareAndPredicateResults : CompareAndPredicateResults := by
  refine ⟨fun f => ⟨?ceq, ?clt, ?cltu, oneRead_pset f, fun s => ⟨?pand, ?por, ?pxor, exec_movp⟩⟩,
    fun f => ⟨oneRead_ceqi f, oneRead_clti f⟩, fun _ => illegalField_compareSA, fun _ => illegalField_compareSI⟩
  case ceq => exact twoReads_of_saCompare (fun _ => rfl) fun _ _ => rfl
  case clt => exact twoReads_of_saCompare (fun _ => rfl) fun _ _ => rfl
  case cltu => exact twoReads_of_saCompare (fun _ => rfl) (wideCmp_ult f.w)
  case pand => exact predResult_ok f (· && ·) s
  case por => exact predResult_ok f (· || ·) s
  case pxor => exact predResult_ok f (· != ·) s

/-- Settles O2: the lanes through their operand forms, the refused compares through the encoding of their field pd. -/
theorem immediateAndPredicateLanes : Obligations.ImmediateAndPredicateLanes := ⟨immediateResults, compareAndPredicateResults⟩

end Sys2Proof.ShuttleLanes
end

section
/-! PROOFS. Branches, calls, register jumps and LOOP (R215, R216). -/

namespace Sys2Proof.ShuttleLanes
open Sys2Proof Sys2Proof.Machine Sys2Proof.Claims Sys2Proof.Laws

@[simp] theorem jumpTo_run (t : Word) (s : State) :
    jumpTo t s = .ok () { s with core := { s.core with sh := { s.core.sh with target := some t } } } := rfl

theorem dest_eq (f : SB) (pc : Word) : SB.dest f pc = pc + 32 * f.disp.signExtend 64 := by
  rw [SB.dest, BitVec.mul_comm]

theorem exec_br (f : SB) (s : State) : exec (.br f) s = .next (onlySh s (if Guard s.core.sh f.p f.n then
      { s.core.sh with target := some (s.core.sh.pc + 32 * f.disp.signExtend 64) } else s.core.sh)) := by
  refine runM_sh ?_
  cases hg : Guard s.core.sh f.p f.n <;> simp [guard_eq, hg, dest_eq]

theorem exec_call {f : SB} {s : State} (hd : Free 63 s.core.sh) : exec (.call f) s = .next (onlySh s (if Guard s.core.sh f.p f.n then
      { put s.core.sh 63 (s.core.sh.pc + 32) with target := some (s.core.sh.pc + 32 * f.disp.signExtend 64) } else s.core.sh)) := by
  refine runM_sh ((bind_ok (awaitDest_free hd)).trans ?_)
  cases hg : Guard s.core.sh f.p f.n <;> simp [guard_eq, hg, dest_eq, put_eq]

/-! ### Register jumps -/

/-- What a register jump does once its target is read: it faults, goes there, or with a false guard nothing. -/
theorem jumpReg_run {f : SA} {r : BitVec 6} {link : Bool} {s : State} {h : Shuttle} {x : Word} (hl : link = true → Free 63 s.core.sh)
    (hr : Reads r s.core.sh h x) : jumpReg f r link s =
      if Guard s.core.sh f.p f.n then
        if x.toNat % 32 = 0 then
          .ok () { s with core := { s.core with sh := { (if link then put h 63 (h.pc + 32) else h) with target := some x } } }
        else .error (.fault { code := .misaligned, engine := 1, addr := x } false) { s with core := { s.core with sh := h } }
      else .ok () { s with core := { s.core with sh := h } } := by
  have hg := reads_guard hr f.p f.n
  cases link with
  | false =>
    simp [jumpReg, readX_reads hr, guard_eq, hg, bits_low, shFault]
  | true =>
    have hd : Free 63#6 s.core.sh := hl rfl
    simp [jumpReg, awaitDest_free hd, readX_reads hr, guard_eq, hg, bits_low, shFault, put_eq]

theorem jumpReg_aligned {f : SA} {r : BitVec 6} {link : Bool} {s : State} {h : Shuttle} {x : Word} (hl : link = true → Free 63 s.core.sh)
    (hr : Reads r s.core.sh h x) (hx : Guard s.core.sh f.p f.n = true → x.toNat % 32 = 0) :
    runM (jumpReg f r link) s = .next (onlySh s (if Guard s.core.sh f.p f.n then
      { (if link then put h 63 (h.pc + 32) else h) with target := some x } else h)) := by
  refine runM_sh ((jumpReg_run hl hr).trans ?_)
  by_cases hg : Guard s.core.sh f.p f.n = true
  · simp only [if_pos hg, if_pos (hx hg)]
  · simp only [if_neg hg]

/-- Reading a register leaves the injection. -/
theorem reads_errinj {r : BitVec 6} {h h' : Shuttle} {v : Word} (hr : Reads r h h' v) : h'.errinj = h.errinj := by
  rcases hr with ⟨_, e, _, _, h3⟩ | ⟨_, _, rfl⟩ | ⟨_, _, _, _, rfl⟩
  · rw [h3]
  · rfl
  · rfl

theorem jumpReg_misaligned {f : SA} {r : BitVec 6} {link : Bool} {s : State} {h : Shuttle} {x : Word} (hl : link = true → Free 63 s.core.sh)
    (hr : Reads r s.core.sh h x) (hg : Guard s.core.sh f.p f.n = true) (hx : x.toNat % 32 ≠ 0) :
    runM (jumpReg f r link) s = .next (faultOn s.cur { code := .misaligned, engine := 1, addr := x } s) := by
  have hrun := jumpReg_run (f := f) hl hr
  rw [if_pos hg, if_neg hx] at hrun
  exact runM_fault hrun rfl (reads_errinj hr) rfl rfl

/-! ### LOOP -/

theorem exec_loop {f : SL} {s : State} {h : Shuttle} {x : Word} (hr : Reads f.d s.core.sh h x) :
    exec (.loop f) s = .next (onlySh s (if x = 1 then put h f.d (x - 1) else
      { put h f.d (x - 1) with target := some (h.pc + f.lit.value (f.imm.signExtend 64 * 32)) })) := by
  have hzero : x - 1#64 = 0#64 ↔ x = 1#64 := by bv_omega
  refine runM_sh ((bind_ok (readX_reads hr)).trans ?_)
  by_cases hx : x = 1#64
  · simp [hx, put_eq]
  · simp [hzero, hx, put_eq]

/-- A register whose outstanding results carry no fault delivers none (R198). -/
theorem lateFault_eq_none {h : Shuttle} {r : BitVec 6} (hp : ∀ p ∈ h.pending, p.d = r → p.fault = none) : h.lateFault r = none := by
  have hfind : h.pending.find? (fun p => p.d == r && p.ready && p.fault.isSome) = none := by
    rw [List.find?_eq_none]
    intro p hm
    by_cases hd : p.d = r
    · simp [hp p hm hd]
    · simp [hd]
  rw [Shuttle.lateFault, hfind]

/-- An EMPTY source blocks its lane (R30). -/
theorem readX_empty {r : BitVec 6} {s : State} (h0 : r ≠ 0#6) (h62 : r ≠ 62#6) (he : bit s.core.sh.empty r.toNat = true)
    (hp : ∀ p ∈ s.core.sh.pending, p.d = r → p.fault = none) : readX false r s = .error (.wait .emptyRegister false) s := by
  simp [readX, h0, h62, he, lateFault_eq_none hp]

theorem exec_loop_waits {f : SL} {s : State} (h0 : f.d ≠ 0) (h62 : f.d ≠ 62) (he : bit s.core.sh.empty f.d.toNat = true)
    (hp : ∀ p ∈ s.core.sh.pending, p.d = f.d → p.fault = none) :
    exec (.loop f) s = .next { s with core := { s.core with ended := .stalled .emptyRegister } } :=
  runM_error (bind_error (readX_empty h0 h62 he hp))

theorem fieldsOk_loop (f : SL) : (Instr.loop f).fieldsOk =
    (xDst f.d && f.d != 0 && f.litOk && (f.lit.isNone || f.value.toNat % 32 == 0)) := rfl

theorem fieldsOk_loop_eq_false {f : SL} (hf : f.d = 0 ∨ f.d = 62 ∨ (f.lit ≠ .none ∧ (immediate f.imm f.lit).toNat % 32 ≠ 0)) :
    (Instr.loop f).fieldsOk = false := by
  rw [fieldsOk_loop]
  rcases hf with h | h | ⟨hlit, hmod⟩
  · simp [h]
  · simp [xDst, h]
  · have hnone : f.lit.isNone = false := by
      cases h : f.lit with
      | none => exact absurd h hlit
      | one l => rfl
      | two v => rfl
    simp [hnone, valueL_eq, hmod]

/-! ### The statement -/

theorem branchResults : BranchResults := by
  refine ⟨fun f s => ⟨exec_br f s, exec_call⟩, fun f s h x hx => ⟨?jr, ?ret, ?callr⟩, fun f s h x hr => ?loop,
    fun f s h0 h62 he hp => ⟨_, exec_loop_waits h0 h62 he hp⟩,
    fun f hf => illegalField_putSL .loop rfl rfl rfl rfl (fieldsOk_loop_eq_false hf)⟩
  case jr => exact fun hr => jumpReg_aligned (link := false) nofun hr hx
  case ret => exact fun hr => jumpReg_aligned (link := false) nofun hr hx
  case callr => exact fun hd hr => jumpReg_aligned (link := true) (fun _ => hd) hr hx
  case loop =>
    rw [exec_loop hr]
    cases h : f.lit <;> simp [Lit.value, immediate, put_eq, BitVec.mul_comm]

theorem misalignedJumpFaults : MisalignedJumpFaults := fun _ _ _ _ hg hx =>
  ⟨fun hr => jumpReg_misaligned (link := false) nofun hr hg hx, fun hr => jumpReg_misaligned (link := false) nofun hr hg hx,
    fun hd hr => jumpReg_misaligned (link := true) (fun _ => hd) hr hg hx⟩

/-- Settles O4: the branches and LOOP lane by lane, the register jumps through what `jumpReg` does in each of its cases. -/
theorem branchesAndJumps : Obligations.BranchesAndJumps := ⟨branchResults, misalignedJumpFaults⟩

end Sys2Proof.ShuttleLanes
end

section
/-! SUPPORT. Vector registers as runs of elements: the bytes of a list of elements, and what a window reads once it holds them. -/

namespace Sys2Proof.VectorLanes
open Sys2Proof Sys2Proof.Machine Sys2Proof.Claims

/-- The bytes of elements 0 to n - 1, each of size z. -/
def packed (z n : Nat) (v : Nat → Nat) : List Byte := (List.range n).flatMap fun k => leBytes z (v k)

@[simp] theorem packed_length (z n : Nat) (v : Nat → Nat) : (packed z n v).length = n * z := by
  simp [packed]

theorem range_zip_map {β : Type} (n : Nat) (g : Nat → β) :
    (List.range n).zip ((List.range n).map g) = (List.range n).map fun k => (k, g k) := by
  simpa using List.zip_map' (f := id) (g := g) (l := List.range n)

/-- Rows of equal width, one after another, as one run. -/
theorem flatMap_range_map {β : Type} (r w : Nat) (h : Nat → Nat → β) :
    (List.range r).flatMap (fun q => (List.range w).map (h q)) = (List.range (r * w)).map fun k => h (k / w) (k % w) := by
  induction r with
  | zero => simp
  | succ r ih =>
    have hrow : ∀ j ∈ List.range w, h r j = h ((r * w + j) / w) ((r * w + j) % w) := fun j hj => by
      have hj : j < w := List.mem_range.mp hj
      rw [Nat.mul_comm, Nat.mul_add_div (by omega), Nat.mul_add_mod, Nat.div_eq_of_lt hj, Nat.mod_eq_of_lt hj, Nat.add_zero]
    rw [List.range_succ, List.flatMap_append, ih, Nat.succ_mul, List.range_add, List.map_append, List.map_map]
    simpa using hrow

theorem leBytes_eq_map (z v : Nat) : leBytes z v = (List.range z).map fun j => BitVec.ofNat 8 (v / 256 ^ j) := by
  induction z generalizing v with
  | zero => rfl
  | succ z ih => simp [leBytes, ih, List.range_succ_eq_map, Nat.div_div_eq_div_mul, Nat.pow_succ, Nat.mul_comm]

theorem packed_eq_map (z n : Nat) (v : Nat → Nat) :
    packed z n v = (List.range (n * z)).map fun x => BitVec.ofNat 8 (v (x / z) / 256 ^ (x % z)) := by
  simp only [packed, leBytes_eq_map, flatMap_range_map n z fun k j => BitVec.ofNat 8 (v k / 256 ^ j)]

/-- Part of what was just written. -/
theorem readN_write_map (m : Memory) (a : Nat) {len i n : Nat} (g : Nat → Byte) (h : i + n ≤ len) :
    (m.write a ((List.range len).map g)).readN (a + i) n = (List.range n).map fun j => g (i + j) := by
  refine List.map_congr_left fun j hj => ?_
  have hj : j < n := List.mem_range.mp hj
  have hx : a + i + j - a = i + j := by omega
  rw [Memory.read_write_in m (by omega) (by simp; omega), hx]
  simp [show i + j < len by omega]

/-- An element of a register that has just been written. -/
theorem readN_write_packed (m : Memory) (a z : Nat) {n k : Nat} (v : Nat → Nat) (hk : k < n) :
    (m.write a (packed z n v)).readN (a + k * z) z = leBytes z (v k) := by
  have hlen : k * z + z ≤ n * z := by
    rw [← Nat.succ_mul]
    exact Nat.mul_le_mul_right z hk
  rw [packed_eq_map, readN_write_map m a _ hlen, leBytes_eq_map]
  refine List.map_congr_left fun j hj => ?_
  have hj : j < z := List.mem_range.mp hj
  rw [Nat.mul_comm k z, Nat.mul_add_div (by omega), Nat.mul_add_mod, Nat.div_eq_of_lt hj, Nat.mod_eq_of_lt hj, Nat.add_zero]

theorem two_pow_bytes (z : Nat) : 2 ^ (8 * z) = 256 ^ z := by
  rw [Nat.pow_mul]

theorem leNat_lt (bs : List Byte) : leNat bs < 256 ^ bs.length := by
  induction bs with
  | nil => exact Nat.one_pos
  | cons b bs ih =>
    have hb : b.toNat < 256 := b.isLt
    rw [leNat, List.length_cons, Nat.pow_succ]
    omega

theorem elem_lt (c : Core) (r z k : Nat) : elem c r z k < 2 ^ (8 * z) := by
  have h := leNat_lt (c.win.readN (vregOff (physReg c.vec.vbase r) + k * z) z)
  rwa [Memory.readN_length, ← two_pow_bytes] at h

theorem regElems_eq (c : Core) (r z n : Nat) : regElems c r z n = (List.range n).map (elem c r z) := rfl

theorem elem_one (c : Core) (r k : Nat) : elem c r 1 k = (c.win.read (vregOff (physReg c.vec.vbase r) + k)).toNat := by
  simp [elem, Memory.readN, leNat]

/-- The bytes of a register as elements of size 1. -/
theorem regBytes_eq_map (c : Core) (r n : Nat) : regBytes c r 0 n = (List.range n).map fun k => BitVec.ofNat 8 (elem c r 1 k) := by
  simp [regBytes, Memory.readN, elem_one]

/-- A bit of a little-endian value is a bit of its byte (R2). -/
theorem testBit_leNat (bs : List Byte) (k : Nat) : (leNat bs).testBit k = ((bs[k / 8]?).getD 0).toNat.testBit (k % 8) := by
  induction bs generalizing k with
  | nil => simp [leNat]
  | cons b bs ih =>
    have hb : b.toNat < 2 ^ 8 := b.isLt
    rw [leNat, Nat.add_comm, show 256 = 2 ^ 8 from rfl, Nat.testBit_two_pow_mul_add _ hb]
    by_cases hk : k < 8
    · simp [hk, Nat.div_eq_of_lt hk, Nat.mod_eq_of_lt hk]
    · have hdiv : k / 8 = (k - 8) / 8 + 1 := by omega
      have hmod : k % 8 = (k - 8) % 8 := by omega
      rw [if_neg hk, ih, hdiv, hmod, List.getElem?_cons_succ]

/-- A bit of a register's bytes, taken as one value. -/
theorem testBit_leNat_bytes (c : Core) (r : Nat) {k n : Nat} (hk : k / 8 < n) :
    (leNat ((List.range n).map fun j => BitVec.ofNat 8 (elem c r 1 j))).testBit k = (elem c r 1 (k / 8)).testBit (k % 8) := by
  have hbyte : elem c r 1 (k / 8) % 256 = elem c r 1 (k / 8) := Nat.mod_eq_of_lt (elem_lt c r 1 (k / 8))
  rw [testBit_leNat]
  simp [hk, hbyte]

end Sys2Proof.VectorLanes
end

section
/-! SUPPORT. How a vector command runs under no pending repeat (R226, R232, R236): what its reads note, what its write leaves, and from
its run to the statements' words. -/

namespace Sys2Proof.VectorLanes
open Sys2Proof Sys2Proof.Machine Sys2Proof.Claims

/-! ### What the executing phase notes of registers (R232) -/

/-- The context of the one run of a command with no repeat pending (R226). -/
def single (opc : Nat) (ph : Bool) : VCtx := { f := vFault opc 0, ph := ph }

@[simp] theorem stepVA_single (opc : Nat) (ph : Bool) (f : VA) (dm am bm : Nat) : stepVA (single opc ph) f dm am bm = f := by
  simp [stepVA, stepField, single, bit]

/-- A change of the executing phase's notes, made inside the phase alone. -/
def notePhase (ph : Bool) (g : PhaseExec → PhaseExec) (p : PhaseState) : PhaseState :=
  if ph then { p with exec := p.exec.map g } else p

@[simp] theorem notePhase_false (g : PhaseExec → PhaseExec) (p : PhaseState) : notePhase false g p = p := rfl

@[simp] theorem notePhase_id (ph : Bool) (p : PhaseState) : notePhase ph id p = p := by
  cases ph <;> simp [notePhase]

theorem notePhase_notePhase (ph : Bool) (f g : PhaseExec → PhaseExec) (p : PhaseState) :
    notePhase ph g (notePhase ph f p) = notePhase ph (g ∘ f) p := by
  cases ph <;> simp [notePhase]

/-- How the model notes a change of the executing phase. -/
theorem modExec_if (ph : Bool) (g : PhaseExec → PhaseExec) (c : Core) :
    (if ph then modExec g c else c) = { c with ph := notePhase ph g c.ph } := by
  cases ph <;> rfl

/-- A register that is read before any write of the phase is inherited. -/
def readNote (p : Nat) (e : PhaseExec) : PhaseExec :=
  if bit e.vwritten p then e else { e with inherited := setBit e.inherited p true }

/-- The notes of reading registers `srcs` in order. -/
def readNotes (vbase : Nat) (srcs : List Nat) (e : PhaseExec) : PhaseExec :=
  srcs.foldl (fun e r => readNote (physReg vbase r) e) e

/-- The note of writing a physical register. -/
def writeNote (p : Nat) (e : PhaseExec) : PhaseExec := { e with vwritten := setBit e.vwritten p true }

theorem bit_setBit_other {n i j : Nat} (v : BitVec n) (b : Bool) (h : j ≠ i) : bit (setBit v i b) j = bit v j := by
  have hone : (1#n <<< i).getLsbD j = false := by
    rw [BitVec.getLsbD_shiftLeft]
    by_cases hji : j < i
    · simp [hji]
    · simp [show j - i ≠ 0 by omega]
  cases b with
  | true => simp [bit, setBit, hone]
  | false => simpa [bit, setBit, hone] using BitVec.lt_of_getLsbD

theorem readNote_vwritten (p : Nat) (e : PhaseExec) : (readNote p e).vwritten = e.vwritten := by
  unfold readNote
  split <;> rfl

/-- Reads leave a register's mark when the phase has written it, or they name other registers. -/
theorem inherited_readNotes {vbase p : Nat} (srcs : List Nat) (e : PhaseExec)
    (h : bit e.vwritten p = true ∨ ∀ r ∈ srcs, physReg vbase r ≠ p) :
    bit (readNotes vbase srcs e).inherited p = bit e.inherited p := by
  induction srcs generalizing e with
  | nil => rfl
  | cons r srcs ih =>
    have hrest : bit (readNote (physReg vbase r) e).vwritten p = true ∨ ∀ r ∈ srcs, physReg vbase r ≠ p := by
      rw [readNote_vwritten]
      exact h.imp_right fun h q hq => h q (List.mem_cons_of_mem _ hq)
    refine (ih _ hrest).trans ?_
    unfold readNote
    split
    · rfl
    · next hw =>
      refine bit_setBit_other _ _ ?_
      rcases h with h | h
      · rintro rfl
        exact hw h
      · exact (h r List.mem_cons_self).symm

/-! ### Reads and writes -/

/-- The state after the reads of registers `srcs`. -/
def afterReads (ph : Bool) (s : State) (srcs : List Nat) : State :=
  { s with core := { s.core with ph := notePhase ph (readNotes s.core.vec.vbase srcs) s.core.ph } }

/-- The state after the reads of `srcs`, the write of the first bytes of register d, and the flags added to VSTAT. -/
def wrote (ph : Bool) (s : State) (srcs : List Nat) (d : Nat) (bs : List Byte) (fl : FFlags) : State :=
  { s with core := { s.core with
      win := s.core.win.write (vregOff (physReg s.core.vec.vbase d)) bs
      vec := { s.core.vec with vstat := s.core.vec.vstat ||| fl.bits }
      ph := notePhase ph (writeNote (physReg s.core.vec.vbase d) ∘ readNotes s.core.vec.vbase srcs) s.core.ph } }

/-- After the reads of `srcs` the write of register d raises no PHASE_HAZARD (R232). -/
def Writable (ph : Bool) (s : State) (srcs : List Nat) (d : Nat) : Prop :=
  ph = true → ∀ e, s.core.ph.exec = some e →
    bit (readNotes s.core.vec.vbase srcs e).inherited (physReg s.core.vec.vbase d) = false

theorem writable_of_ready {i : Instr} {s : State} {srcs : List Nat} {d : Nat} (h : VectorReady i srcs [d] s) :
    Writable (inPhase s (headOr s .vector i)) s srcs d := by
  intro hph e he
  obtain ⟨hclear, hread⟩ := h.2 hph e he d List.mem_cons_self
  rw [inherited_readNotes srcs e hread, hclear]

@[simp] theorem afterReads_nil (ph : Bool) (s : State) : afterReads ph s [] = s := by
  have hnone : readNotes s.core.vec.vbase [] = id := rfl
  simp [afterReads, hnone]

theorem noteVRead_run (ph : Bool) (s : State) (srcs : List Nat) (r : Nat) :
    noteVRead ph (physReg s.core.vec.vbase r) (afterReads ph s srcs) = .ok () (afterReads ph s (srcs ++ [r])) := by
  have hnotes : readNotes s.core.vec.vbase (srcs ++ [r]) =
      readNote (physReg s.core.vec.vbase r) ∘ readNotes s.core.vec.vbase srcs := by
    funext e
    simp [readNotes]
  rw [noteVRead, modCore_run, modExec_if, afterReads, afterReads, hnotes, ← notePhase_notePhase]
  rfl

@[simp] theorem elem_afterReads (ph : Bool) (s : State) (srcs : List Nat) : elem (afterReads ph s srcs).core = elem s.core := rfl
@[simp] theorem afterReads_vec (ph : Bool) (s : State) (srcs : List Nat) : (afterReads ph s srcs).core.vec = s.core.vec := rfl

theorem readV_run (x : VCtx) (s : State) (srcs : List Nat) (r z n : Nat) :
    readV x r z n (afterReads x.ph s srcs) = .ok ((List.range n).map (elem s.core r z)) (afterReads x.ph s (srcs ++ [r])) := by
  simp [readV, noteVRead_run, regElems_eq]

/-- The first read of a command. -/
theorem readV_run_first (x : VCtx) (s : State) (r z n : Nat) :
    readV x r z n s = .ok ((List.range n).map (elem s.core r z)) (afterReads x.ph s [r]) := by
  simpa using readV_run x s [] r z n

/-- A first read of bytes. -/
theorem readVBytes_run_first (x : VCtx) (s : State) (r n : Nat) :
    readVBytes x r n s = .ok ((List.range n).map fun k => BitVec.ofNat 8 (elem s.core r 1 k)) (afterReads x.ph s [r]) := by
  have h := noteVRead_run x.ph s [] r
  simp only [afterReads_nil, List.nil_append] at h
  simp [readVBytes, h, regBytes_eq_map]

@[simp] theorem bits_noFlags : FFlags.bits {} = 0#6 := rfl

theorem writeVBytes_run {x : VCtx} {s : State} {srcs : List Nat} {d : Nat} (bs : List Byte) (hw : Writable x.ph s srcs d) :
    writeVBytes x d 0 bs (afterReads x.ph s srcs) = .ok () (wrote x.ph s srcs d bs {}) := by
  have hfree : (x.ph && (notePhase x.ph (readNotes s.core.vec.vbase srcs) s.core.ph).exec.any
      fun e => bit e.inherited (physReg s.core.vec.vbase d)) = false := by
    cases hph : x.ph with
    | false => rfl
    | true =>
      cases he : s.core.ph.exec with
      | none => simp [notePhase, he]
      | some e => simpa [notePhase, he] using hw hph e he
  have hnote : noteVWrite x (physReg s.core.vec.vbase d) (afterReads x.ph s srcs) = .ok () { s with core := { s.core with
      ph := notePhase x.ph (writeNote (physReg s.core.vec.vbase d) ∘ readNotes s.core.vec.vbase srcs) s.core.ph } } := by
    rw [← notePhase_notePhase]
    simp only [noteVWrite, bind_run, get_run, ite_run, afterReads, hfree, modCore_run, modExec_if]
    rfl
  simp [writeVBytes, hnote, wrote]

/-- The write of positions 0 to n - 1: `val k` at position k, or the element that stands there. -/
theorem writeV_run {x : VCtx} {s : State} {srcs : List Nat} {d : Nat} (z n : Nat) (val : Nat → Option Nat) (hw : Writable x.ph s srcs d) :
    writeV x d z ((List.range n).map val) (afterReads x.ph s srcs) =
      .ok () (wrote x.ph s srcs d (packed z n fun k => (val k).getD (elem s.core d z k)) {}) := by
  simp [writeV, regElems_eq, List.zip_map', List.flatMap_map, packed, writeVBytes_run _ hw]

theorem setVstat_wrote (ph : Bool) (s : State) (srcs : List Nat) (d : Nat) (bs : List Byte) (fl : FFlags) :
    setVstat fl (wrote ph s srcs d bs {}) = .ok () (wrote ph s srcs d bs fl) := by
  simp [setVstat, wrote]

/-! ### Completion -/

/-- A run that changes the window, the vector engine and the phase's notes alone completes the command. -/
theorem vectorDone_of_run {i : Instr} {opc : Nat} {body : VCtx → M Unit} {s t : State} (hexec : exec i s = vectorRun opc i body s)
    (hrep : s.core.rep = none) (hrun : body (single opc (inPhase s (headOr s .vector i))) s = .ok () t)
    (hph : ¬InPhaseV i s → t.core.ph = s.core.ph)
    (ht : t = { s with core := { s.core with win := t.core.win, vec := t.core.vec, ph := t.core.ph } }) :
    VectorDone i s { t with core := { t.core with ended := .done } } := by
  refine ⟨hexec.trans ?_, hph, by rw [ht]⟩
  refine runE_ok (t := t) ?_
  rw [single] at hrun
  simp only [bind_run, get_run, hrep, hrun, pure_run]

/-- The flags of the results of positions 0 to n - 1. -/
def resultFlags (n : Nat) (val : Nat → Option Res) : FFlags := orFlags (((List.range n).map val).filterMap (·.map (·.2)))

/-- The state in which a command leaves its results. -/
def resultsWritten (ph : Bool) (s : State) (srcs : List Nat) (d z n : Nat) (val : Nat → Option Res) : State :=
  wrote ph s srcs d (packed z n fun k => ((val k).map (·.1)).getD (elem s.core d z k)) (resultFlags n val)

theorem elem_wrote (ph : Bool) (s : State) (srcs : List Nat) (d z : Nat) {n k : Nat} (v : Nat → Nat) (fl : FFlags) (hk : k < n) :
    elem (wrote ph s srcs d (packed z n v) fl).core d z k = v k % 2 ^ (8 * z) := by
  rw [two_pow_bytes, ← leNat_leBytes]
  exact congrArg leNat (readN_write_packed _ _ z v hk)

/-- A command whose run leaves its results in place of the positions of its destination. -/
theorem positions_of_run {i : Instr} {opc : Nat} {body : VCtx → M Unit} {srcs : List Nat} {d z : Nat} {pre : State → Prop}
    {count : State → Nat} {val : State → Nat → Option Res} (hexec : ∀ s, exec i s = vectorRun opc i body s)
    (hrun : ∀ s ph, pre s → Writable ph s srcs d →
      body (single opc ph) s = .ok () (resultsWritten ph s srcs d z (count s) (val s))) :
    Positions i srcs d z pre count val := by
  intro s hready hpre
  have hdone := vectorDone_of_run (hexec s) hready.1 (hrun s _ hpre (writable_of_ready hready))
    (fun h => by simp [resultsWritten, wrote, Bool.eq_false_iff.mpr h]) rfl
  refine ⟨_, hdone, ?_, ?_, ?_⟩
  · exact fun p hp => Memory.read_write_out _ (by rwa [packed_length])
  · intro k hk
    refine (elem_wrote (inPhase s (headOr s .vector i)) s srcs d z _ (resultFlags (count s) (val s)) hk).trans ?_
    cases val s k with
    | none => exact Nat.mod_eq_of_lt (elem_lt _ _ _ _)
    | some r => rfl
  · rfl

theorem foldl_or_inv (l : List Bool) (q : Bool) :
    (l.map fun b => ({ inv := b } : FFlags)).foldl FFlags.or { inv := q } = { inv := q || l.any id } := by
  induction l generalizing q with
  | nil => simp
  | cons b l ih => simpa [FFlags.or, Bool.or_assoc] using ih (q || b)

/-- Flags that hold INV alone (R63). -/
theorem orFlags_inv (l : List Bool) : orFlags (l.map fun b => { inv := b }) = { inv := l.any id } := by
  simpa [orFlags] using foldl_or_inv l false

/-- Results without flags. -/
theorem resultFlags_values (n : Nat) (v : Nat → Option Nat) : resultFlags n (fun k => (v k).map (·, {})) = {} := by
  have h : ((List.range n).map fun k => (v k).map fun a => ((a, {}) : Res)).filterMap (·.map (·.2)) =
      (((List.range n).filterMap v).map fun _ => false).map fun b => { inv := b } := by
    simp [List.filterMap_map, List.map_filterMap, Function.comp_def, Option.map_map]
  have hany : (((List.range n).filterMap v).map fun _ => false).any id = false := by simp
  rw [resultFlags, h, orFlags_inv, hany]

/-- Only the results of the positions written count. -/
theorem resultsWritten_congr {ph : Bool} {s : State} {srcs : List Nat} {d z n : Nat} {val val' : Nat → Option Res}
    (h : ∀ k, k < n → val k = val' k) : resultsWritten ph s srcs d z n val = resultsWritten ph s srcs d z n val' := by
  have hflags : (List.range n).map val = (List.range n).map val' := List.map_congr_left fun k hk => h k (List.mem_range.mp hk)
  have hbytes : packed z n (fun k => ((val k).map (·.1)).getD (elem s.core d z k)) =
      packed z n fun k => ((val' k).map (·.1)).getD (elem s.core d z k) :=
    List.flatMap_congr fun k hk => by simp only [h k (List.mem_range.mp hk)]
  rw [resultsWritten, resultsWritten, hbytes, resultFlags, resultFlags, hflags]

theorem wrote_values (ph : Bool) (s : State) (srcs : List Nat) (d z n : Nat) (v : Nat → Option Nat) :
    wrote ph s srcs d (packed z n fun k => (v k).getD (elem s.core d z k)) {} =
      resultsWritten ph s srcs d z n fun k => (v k).map (·, {}) := by
  simp [resultsWritten, resultFlags_values, Function.comp_def]

/-- A command that reads `srcs`, then writes the value `v k` or none at position k, and raises no flag. -/
theorem positions_of_values {i : Instr} {opc : Nat} {body : VCtx → M Unit} {srcs : List Nat} {d z : Nat} {pre : State → Prop}
    {count : State → Nat} {val : State → Nat → Option Res} (v : State → Nat → Option Nat) (m : Meaning) (hexec : ∀ s, exec i s = m s)
    (hm : m = vectorRun opc i body)
    (hrun : ∀ s ph, body (single opc ph) s = writeV (single opc ph) d z ((List.range (count s)).map (v s)) (afterReads ph s srcs))
    (hval : ∀ s, pre s → ∀ k, k < count s → (v s k).map (·, {}) = val s k) : Positions i srcs d z pre count val := by
  subst hm
  refine positions_of_run hexec fun s ph hpre hw => ?_
  rw [← resultsWritten_congr (hval s hpre), ← wrote_values, hrun]
  exact writeV_run (x := single opc ph) z (count s) (v s) hw

theorem packed_one (n : Nat) (v : Nat → Nat) : packed 1 n v = (List.range n).map fun k => BitVec.ofNat 8 (v k) := by
  simp [packed_eq_map, Nat.mod_one]

/-- A command that reads `srcs`, then writes the first bytes of a register, and raises no flag. -/
theorem positions_of_bytes {i : Instr} {opc : Nat} {body : VCtx → M Unit} {srcs : List Nat} {d : Nat} {pre : State → Prop}
    {count : State → Nat} {v : State → Nat → Nat} (m : Meaning) (hexec : ∀ s, exec i s = m s) (hm : m = vectorRun opc i body)
    (hrun : ∀ s ph, pre s → body (single opc ph) s =
      writeVBytes (single opc ph) d 0 ((List.range (count s)).map fun k => BitVec.ofNat 8 (v s k)) (afterReads ph s srcs)) :
    Positions i srcs d 1 pre count fun s k => some (v s k, {}) := by
  subst hm
  refine positions_of_run hexec fun s ph hpre hw => ?_
  have hvalues := wrote_values ph s srcs d 1 (count s) fun k => some (v s k)
  refine (hrun s ph hpre).trans ?_
  rw [← packed_one]
  exact (writeVBytes_run (x := single opc ph) _ hw).trans (congrArg _ hvalues)

end Sys2Proof.VectorLanes
end

section
/-! SUPPORT. The element-wise frame of R236, and the integer results of the I types (R55) in the words of `BitVec`. -/

namespace Sys2Proof.VectorLanes
open Sys2Proof Sys2Proof.Machine Sys2Proof.Claims

/-! ### Integers of an I type -/

theorem sInt_eq_sgn (w v : Nat) : sInt w v = sgn w v := by
  have hcond : 2 * (v % 2 ^ w) < 2 ^ w ↔ ¬2 ^ (w - 1) ≤ v % 2 ^ w := by
    cases w with
    | zero => simp [Nat.mod_one]
    | succ w => rw [Nat.add_sub_cancel, Nat.pow_succ]; omega
  rw [sInt, sgn, BitVec.toInt_eq_toNat_cond, BitVec.toNat_ofNat]
  simp only [hcond, ite_not]

theorem uInt_eq_ofInt (w : Nat) (i : Int) : uInt w i = (BitVec.ofInt w i).toNat := by
  rw [uInt, BitVec.toNat_ofInt]

theorem fitInt_eq_intResult (w : Nat) (sat : Bool) (i : Int) : fitInt w sat i = intResult w sat i := by
  simp [fitInt, intResult, clampInt, uInt_eq_ofInt]

/-- An operation of the types F and I is the statements' typed one. -/
theorem vFloat_eq_typed (fl : Fmt → Nat → Bool → Machine.Num → Machine.Num → Machine.Num → Res) (it : Int → Int → Int → Int) (f : VA)
    (a b d : Nat) : vFloat fl it f a b d = typed f fl it a b d := by
  unfold vFloat byType typed
  cases tyFmt f.ty with
  | some t => rfl
  | none => simp only [fitInt_eq_intResult, sInt_eq_sgn]

theorem vMinMax_eq_extreme (isMax : Bool) (f : VA) (a b d : Nat) : vMinMax isMax f a b d = extreme f isMax a b := by
  unfold vMinMax extremeStep extreme
  cases tyFmt f.ty with
  | some t => simp [FFlags.or]
  | none => simp only [uInt_eq_ofInt, sInt_eq_sgn]

theorem shiftLeft_eq (w a k : Nat) : a * 2 ^ k % 2 ^ w = (BitVec.ofNat w a <<< k).toNat := by
  rw [BitVec.toNat_shiftLeft, BitVec.toNat_ofNat, Nat.shiftLeft_eq, Nat.mod_mul_mod]

theorem shiftRight_eq {w a : Nat} (k : Nat) (ha : a < 2 ^ w) : a / 2 ^ k = (BitVec.ofNat w a >>> k).toNat := by
  rw [BitVec.toNat_ushiftRight, BitVec.toNat_ofNat, Nat.mod_eq_of_lt ha, Nat.shiftRight_eq_div_pow]

theorem sshiftRight_eq (w a k : Nat) : uInt w (sInt w a / 2 ^ k) = ((BitVec.ofNat w a).sshiftRight k).toNat := by
  rw [uInt_eq_ofInt, sInt_eq_sgn, BitVec.sshiftRight, Int.shiftRight_eq_div_pow, sgn]
  norm_cast

/-! ### The frame -/

theorem sel_eq_chosen (s : State) (m : BitVec 3) (k : Nat) : s.core.vec.sel m.toNat k = chosen s m k := by
  have hm : (m.toNat == 0) = (m == 0) := by
    revert m
    decide
  rw [VecState.sel, chosen, hm]
  rfl

theorem count_eq_places (ty : BitVec 3) (s : State) : s.core.vec.count (tySize ty) = places ty s := rfl

/-- R236: reads of `va`, of a second operand, and with `useD` of the old destination, then the results of the selected positions. -/
theorem vElems_run {x : VCtx} {f : VA} {readB : Nat → Nat → M (List Nat)} {useD : Bool} {op : Nat → Nat → Nat → Res} {s : State}
    {srcs : List Nat} {b : Nat → Nat}
    (hb : readB (tySize f.ty) (places f.ty s) (afterReads x.ph s [f.va.toNat]) =
      .ok ((List.range (places f.ty s)).map b) (afterReads x.ph s srcs))
    (hw : Writable x.ph s (srcs ++ if useD then [f.vd.toNat] else []) f.vd.toNat) :
    vElems x f readB useD op s = .ok () (resultsWritten x.ph s (srcs ++ if useD then [f.vd.toNat] else []) f.vd.toNat (tySize f.ty)
      (places f.ty s) fun k => if chosen s f.m k then
        some (op (elem s.core f.va.toNat (tySize f.ty) k) (b k) (elem s.core f.vd.toNat (tySize f.ty) k)) else none) := by
  cases useD with
  | true =>
    rw [if_pos rfl] at hw ⊢
    simp only [vElems, bind_run, get_run, count_eq_places, readV_run_first x s, hb, readV_run, if_true, List.zip_map', range_zip_map,
      List.map_map, Function.comp_def, sel_eq_chosen, writeV_run _ _ _ hw, setVstat_wrote]
    rfl
  | false =>
    rw [if_neg Bool.false_ne_true, List.append_nil] at hw ⊢
    simp only [vElems, bind_run, get_run, count_eq_places, readV_run_first x s, hb, pure_run, if_false, Bool.false_eq_true, regElems_eq,
      List.zip_map', range_zip_map, List.map_map, Function.comp_def, sel_eq_chosen, writeV_run _ _ _ hw, setVstat_wrote]
    rfl

/-- An instruction of two vector registers (Table 11.4). -/
theorem elementwise_ok {i : Instr} {opc : Nat} {f : VA} {useD : Bool} {op : VA → Nat → Nat → Nat → Res} {r : Nat → Nat → Nat → Res}
    (m : Meaning) (hexec : ∀ s, exec i s = m s) (hm : m = elementwise opc i f false useD op)
    (hop : ∀ x y d, x < 2 ^ (8 * tySize f.ty) → op f x y d = r x y d) :
    Elementwise i f ([f.va.toNat, f.vb.toNat] ++ if useD then [f.vd.toNat] else []) r := by
  subst hm
  refine positions_of_run hexec fun s ph _ hw => ?_
  have hb : fromReg (single opc ph) f (tySize f.ty) (places f.ty s) (afterReads ph s [f.va.toNat]) =
      .ok ((List.range (places f.ty s)).map (elem s.core f.vb.toNat (tySize f.ty))) (afterReads ph s [f.va.toNat, f.vb.toNat]) :=
    readV_run (single opc ph) s _ _ _ _
  simp only [stepVA_single, ← fun k => hop _ (elem s.core f.vb.toNat (tySize f.ty) k) (elem s.core f.vd.toNat (tySize f.ty) k)
    (elem_lt s.core f.va.toNat (tySize f.ty) k)]
  exact vElems_run (x := single opc ph) hb hw

/-- An instruction of a vector register and a scalar (Table 11.4). -/
theorem scalarWise_ok {i : Instr} {opc : Nat} {f : VA} {useD : Bool} {op : VA → Nat → Nat → Nat → Res} {r : Nat → Nat → Nat → Res}
    (m : Meaning) (hexec : ∀ s, exec i s = m s) (hm : m = elementwise opc i f true useD op) (hop : ∀ x y d, op f x y d = r x y d) :
    ScalarWise i f ([f.va.toNat] ++ if useD then [f.vd.toNat] else []) r := by
  subst hm
  refine positions_of_run hexec fun s ph _ hw => ?_
  have hb : fromScalar f (tySize f.ty) (places f.ty s) (afterReads ph s [f.va.toNat]) =
      .ok ((List.range (places f.ty s)).map fun _ => (mget 0 s.core.vec.s (f.vb.toNat % 8)).toNat % 2 ^ (8 * tySize f.ty))
        (afterReads ph s [f.va.toNat]) := by
    simp [fromScalar]
  simp only [stepVA_single, ← hop]
  exact vElems_run (x := single opc ph) hb hw

/-- An instruction of one vector register (Table 11.4). -/
theorem elementwise_of_unary {i : Instr} {opc : Nat} {f : VA} {op : VA → Nat → Res} {r : Nat → Res}
    (m : Meaning) (hexec : ∀ s, exec i s = m s) (hm : m = unary opc i f op) (hop : ∀ x, op f x = r x) :
    Elementwise i f [f.va.toNat] fun x _ _ => r x := by
  subst hm
  refine positions_of_run hexec fun s ph _ hw => ?_
  have hb : noOperand (tySize f.ty) (places f.ty s) (afterReads ph s [f.va.toNat]) =
      .ok ((List.range (places f.ty s)).map fun _ => 0) (afterReads ph s [f.va.toNat]) := by
    simp [noOperand]
  simp only [stepVA_single, ← hop]
  exact vElems_run (x := single opc ph) (useD := false) hb hw

end Sys2Proof.VectorLanes
end

section
/-! SUPPORT. What a compare of vector elements leaves (R238), and the encoding and decoding of format VA. -/

namespace Sys2Proof.VectorLanes
open Sys2Proof Sys2Proof.Machine Sys2Proof.Claims Sys2Proof.ShuttleLanes

/-! ### The mask -/

/-- The comparisons of the selected positions below n, each with its position. -/
def compared (n : Nat) (sel : Nat → Bool) (r : Nat → Bool × FFlags) : List (Nat × Bool × FFlags) :=
  (List.range n).filterMap fun k => if sel k then some (k, r k) else none

/-- The mask that a list of comparisons gives. -/
def maskOf (rs : List (Nat × Bool × FFlags)) : Nat := rs.foldl (fun m p => if p.2.1 then m + 2 ^ p.1 else m) 0

theorem maskOf_compared_succ (n : Nat) (sel : Nat → Bool) (r : Nat → Bool × FFlags) :
    maskOf (compared (n + 1) sel r) = if sel n && (r n).1 then 2 ^ n + maskOf (compared n sel r) else maskOf (compared n sel r) := by
  cases hs : sel n <;> simp [maskOf, compared, List.range_succ, List.filterMap_append, hs, Nat.add_comm]

theorem maskOf_compared_lt (n : Nat) (sel : Nat → Bool) (r : Nat → Bool × FFlags) : maskOf (compared n sel r) < 2 ^ n := by
  induction n with
  | zero => exact Nat.one_pos
  | succ n ih =>
    rw [maskOf_compared_succ, Nat.pow_succ]
    split <;> omega

theorem testBit_maskOf_compared (n : Nat) (sel : Nat → Bool) (r : Nat → Bool × FFlags) (k : Nat) :
    (maskOf (compared n sel r)).testBit k = (decide (k < n) && (sel k && (r k).1)) := by
  induction n with
  | zero => simp [maskOf, compared]
  | succ n ih =>
    rcases lt_trichotomy k n with hk | rfl | hk
    · rw [maskOf_compared_succ, apply_ite (Nat.testBit · k), Nat.testBit_two_pow_add_gt hk, ite_self, ih]
      simp [hk, Nat.lt_succ_of_lt hk]
    · have hclear : (maskOf (compared k sel r)).testBit k = false := Nat.testBit_lt_two_pow (maskOf_compared_lt k sel r)
      rw [maskOf_compared_succ, apply_ite (Nat.testBit · k), Nat.testBit_two_pow_add_eq, hclear]
      simp
    · have hlt : maskOf (compared (n + 1) sel r) < 2 ^ k :=
        (maskOf_compared_lt _ sel r).trans_le (Nat.pow_le_pow_right Nat.two_pos hk)
      simp [Nat.testBit_lt_two_pow hlt, show ¬k < n + 1 by omega]

/-! ### The flags -/

theorem compared_flags {n : Nat} {sel : Nat → Bool} {r : Nat → Bool × FFlags} {inv : Nat → Bool} (hr : ∀ k, (r k).2 = { inv := inv k }) :
    orFlags ((compared n sel r).map (·.2.2)) = { inv := (((List.range n).filter sel).map inv).any id } := by
  rw [← orFlags_inv, List.map_map, compared, List.map_filterMap, ← List.filterMap_eq_map, List.filterMap_filter]
  congr 2
  funext k
  cases sel k <;> simp [hr]

theorem bit_or_inv (v : BitVec 6) (b : Bool) (j : Nat) :
    bit (v ||| FFlags.bits { inv := b }) j = true ↔ bit v j = true ∨ (j = 0 ∧ b = true) := by
  have hbits : FFlags.bits { inv := b } = if b then 1#6 else 0#6 := by cases b <;> rfl
  rw [hbits]
  cases b <;> simp [bit, BitVec.getLsbD_one]

/-! ### The run -/

/-- The comparison of position k of va and vb. -/
def comparedAt (f : VA) (fl : Machine.Num → Machine.Num → Bool × FFlags) (it : Int → Int → Bool) (s : State) (k : Nat) : Bool × FFlags :=
  vCompareElem f fl it (elem s.core f.va.toNat (tySize f.ty) k) (elem s.core f.vb.toNat (tySize f.ty) k)

/-- The state in which a compare leaves its mask and flags. -/
def comparedState (ph : Bool) (s : State) (f : VA) (r : Nat → Bool × FFlags) : State :=
  let rs := compared (places f.ty s) (chosen s f.m) r
  let t := afterReads ph s [f.va.toNat, f.vb.toNat]
  { t with core := { t.core with vec := { s.core.vec with
      m := mset 0 s.core.vec.m f.vd.toNat (BitVec.ofNat 2048 (maskOf rs))
      vstat := s.core.vec.vstat ||| (orFlags (rs.map (·.2.2))).bits } } }

/-- A compare of the elements of two registers (R238). -/
theorem compares_of_vCompare {i : Instr} {opc : Nat} {f : VA} {fl : Machine.Num → Machine.Num → Bool × FFlags} {it : Int → Int → Bool}
    {test : Nat → Nat → Bool × Bool}
    (m : Meaning) (hexec : ∀ s, exec i s = m s) (hm : m = vCompare opc i f fl it)
    (htest : ∀ a b, vCompareElem f fl it a b = ((test a b).1, { inv := (test a b).2 })) : Compares i f test := by
  subst hm
  intro s hready hvd
  have hdone := vectorDone_of_run (t := comparedState (inPhase s (headOr s .vector i)) s f (comparedAt f fl it s)) (hexec s) hready.1 ?run
    (fun h => by simp [comparedState, afterReads, Bool.eq_false_iff.mpr h]) rfl
  case run =>
    have hb := readV_run (single opc (inPhase s (headOr s .vector i))) s [f.va.toNat] f.vb.toNat (tySize f.ty) (places f.ty s)
    simp only [stepVA_single, beq_iff_eq, if_neg hvd, bind_run, get_run, count_eq_places, readV_run_first _ s, hb, List.zip_map',
      range_zip_map, List.filterMap_map, sel_eq_chosen, modVec, setVstat, modCore_run]
    rfl
  refine ⟨_, hdone, rfl, fun k hk => ?_, fun j hj => mget_mset_other _ _ _ hj, fun j _ => ?_, rfl⟩
  · have hmask : mget 0 (comparedState (inPhase s (headOr s .vector i)) s f (comparedAt f fl it s)).core.vec.m f.vd.toNat =
        BitVec.ofNat 2048 (maskOf (compared (places f.ty s) (chosen s f.m) (comparedAt f fl it s))) := mget_mset_same _ _ _ _
    refine (congrArg (bit · k = true) hmask).to_iff.trans ?_
    rw [bit, BitVec.getLsbD_ofNat, testBit_maskOf_compared, decide_eq_true hk, Bool.true_and]
    simp [comparedAt, htest]
  · have hflags := compared_flags (n := places f.ty s) (sel := chosen s f.m) (r := comparedAt f fl it s) fun _ => congrArg Prod.snd (htest _ _)
    have hvstat := congrArg (s.core.vec.vstat ||| FFlags.bits ·) hflags
    refine (congrArg (bit · j = true) hvstat).to_iff.trans ((bit_or_inv _ _ _).trans ?_)
    simp

/-! ### Format VA -/

theorem toNat_putVA (op : BitVec 8) (f : VA) :
    (putVA op f).toNat = ((((((op.toNat * 2 ^ 5 + f.vd.toNat) * 2 ^ 5 + f.va.toNat) * 2 ^ 5 + f.vb.toNat) * 2 ^ 3 + f.ty.toNat) * 2 ^ 3 +
      f.m.toNat) * 2 ^ 1 + (b1 f.sat).toNat) * 2 ^ 2 + f.v.toNat := by
  unfold putVA
  iterate 7 rw [toNat_append_eq_mul_add]

theorem opcode_putVA (op : BitVec 8) (f : VA) : bits (putVA op f) 31 24 = op.toNat := by
  rw [bits, toNat_putVA]
  omega

theorem readVA_putVA (op : BitVec 8) (f : VA) : readVA (putVA op f) = f := by
  have hw := toNat_putVA op f
  unfold readVA
  congr 1
  · exact extractLsb'_eq_of_toNat 19 (by omega)
  · exact extractLsb'_eq_of_toNat 14 (by omega)
  · exact extractLsb'_eq_of_toNat 9 (by omega)
  · exact extractLsb'_eq_of_toNat 6 (by omega)
  · exact extractLsb'_eq_of_toNat 3 (by omega)
  · exact bit_eq_of_toNat 2 (by omega)
  · exact extractLsb'_eq_of_toNat 0 (by omega)

theorem illegalField_putVA {i : Instr} {f : VA} {op : BitVec 8} {k res : Nat} {lit : Bool} (mk : VA → Instr)
    (hop : findOp .vector op.toNat = some (k, lit, res, fun w _ => mk (readVA w))) (hw : encodeWord i = putVA op f)
    (hmk : mk f = i) (hf : i.fieldsOk = false) : IllegalField .vector i := fun hg =>
  decodeLane_illegalOp (by rw [hw, opcode_putVA, hop]) (by rw [hw, readVA_putVA, hmk]) hg hf

end Sys2Proof.VectorLanes
end

section
/-! PROOFS. The element-wise arithmetic and the compares of the vector engine (R236 to R238). -/

namespace Sys2Proof.VectorLanes
open Sys2Proof Sys2Proof.Machine Sys2Proof.Claims

theorem vectorArithmeticResults : VectorArithmeticResults := by
  intro f
  refine ⟨?vadd, ?vsub, ?vmul, ?vfma, ?vdiv, ?vmin, ?vmax, ?vabs, ?vneg, ?vadds, ?vmuls, ?vfmas⟩
  case vadd => exact elementwise_ok (useD := false) (execVadd f) (fun _ => rfl) rfl fun x y d _ => vFloat_eq_typed _ _ f x y d
  case vsub => exact elementwise_ok (useD := false) (execVsub f) (fun _ => rfl) rfl fun x y d _ => vFloat_eq_typed _ _ f x y d
  case vmul => exact elementwise_ok (useD := false) (execVmul f) (fun _ => rfl) rfl fun x y d _ => vFloat_eq_typed _ _ f x y d
  case vfma => exact elementwise_ok (useD := true) (execVfma f) (fun _ => rfl) rfl fun x y d _ => vFloat_eq_typed _ _ f x y d
  case vdiv => exact elementwise_ok (useD := false) (execVdiv f) (fun _ => rfl) rfl fun x y d _ => vFloat_eq_typed _ _ f x y d
  case vmin => exact elementwise_ok (useD := false) (execVmin f) (fun _ => rfl) rfl fun x y d _ => vMinMax_eq_extreme false f x y d
  case vmax => exact elementwise_ok (useD := false) (execVmax f) (fun _ => rfl) rfl fun x y d _ => vMinMax_eq_extreme true f x y d
  case vabs =>
    refine elementwise_of_unary (execVabs f) (fun _ => rfl) rfl fun x => ?_
    unfold byType
    cases tyFmt f.ty with
    | some t => rfl
    | none => simp only [fitInt_eq_intResult, sInt_eq_sgn]
  case vneg =>
    refine elementwise_of_unary (execVneg f) (fun _ => rfl) rfl fun x => ?_
    unfold byType
    cases tyFmt f.ty with
    | some t => rfl
    | none => simp only [fitInt_eq_intResult, sInt_eq_sgn]
  case vadds => exact scalarWise_ok (useD := false) (execVadds f) (fun _ => rfl) rfl (vFloat_eq_typed _ _ f)
  case vmuls => exact scalarWise_ok (useD := false) (execVmuls f) (fun _ => rfl) rfl (vFloat_eq_typed _ _ f)
  case vfmas => exact scalarWise_ok (useD := true) (execVfmas f) (fun _ => rfl) rfl (vFloat_eq_typed _ _ f)

/-- A comparison in the words of the statement: the float part says false for a NaN, and what raises INV. -/
theorem vCompareElem_eq {f : VA} {fl : Machine.Num → Machine.Num → Bool × FFlags} {lt : Machine.Num → Machine.Num → Bool} {quiet : Bool}
    {it : Int → Int → Bool} (hfl : ∀ x y, fl x y = (!x.isNan && !y.isNan && lt x y,
      { inv := if quiet then x.isSnan || y.isSnan else x.isNan || y.isNan })) (a b : Nat) :
    vCompareElem f fl it a b = ((comparison f lt quiet it a b).1, { inv := (comparison f lt quiet it a b).2 }) := by
  unfold vCompareElem comparison
  cases tyFmt f.ty with
  | some t => exact hfl _ _
  | none => simp only [sInt_eq_sgn]

theorem numEq_eq_and (x y : Machine.Num) : numEq x y = (!x.isNan && !y.isNan && numEq x y) := by
  rw [numEq]
  cases x.isNan <;> cases y.isNan <;> rfl

/-- The field vd of a compare names a mask register (R238). -/
theorem illegalField_compare {f : VA} (hf : f.vd = 0 ∨ 8 ≤ f.vd.toNat) :
    ∀ i ∈ [Instr.vcmpeq f, .vcmplt f, .vcmple f], IllegalField .vector i := by
  have hd : (1 ≤ f.vd.toNat && f.vd.toNat ≤ 7) = false := by
    rcases hf with h | h
    · simp [h]
    · simp [show ¬f.vd.toNat ≤ 7 by omega]
  have hbad : (isFI f && !f.sat && 1 ≤ f.vd.toNat && f.vd.toNat ≤ 7) = false := by
    rw [Bool.and_assoc, hd, Bool.and_false]
  simp only [List.forall_mem_cons]
  exact ⟨illegalField_putVA .vcmpeq rfl rfl rfl hbad, illegalField_putVA .vcmplt rfl rfl rfl hbad,
    illegalField_putVA .vcmple rfl rfl rfl hbad, List.forall_mem_nil _⟩

theorem vectorCompareResults : VectorCompareResults := by
  intro f
  refine ⟨?vcmpeq, ?vcmplt, ?vcmple, illegalField_compare⟩
  case vcmpeq => exact compares_of_vCompare (execVcmpeq f) (fun _ => rfl) rfl (vCompareElem_eq fun x y => congrArg (·, _) (numEq_eq_and x y))
  case vcmplt => exact compares_of_vCompare (execVcmplt f) (fun _ => rfl) rfl (vCompareElem_eq fun _ _ => rfl)
  case vcmple => exact compares_of_vCompare (execVcmple f) (fun _ => rfl) rfl (vCompareElem_eq fun _ _ => rfl)

/-- Settles O15: the arithmetic through the element-wise frame of R236, the compares through the mask that they build up. -/
theorem vectorArithmetic : Obligations.VectorArithmetic := ⟨vectorArithmeticResults, vectorCompareResults⟩

end Sys2Proof.VectorLanes
end

section
/-! PROOFS. The vector logic, shifts, selection, permutations and moves (R236, R239, R253 to R257). -/

namespace Sys2Proof.VectorLanes
open Sys2Proof Sys2Proof.Machine Sys2Proof.Claims

/-! ### Places of a register -/

/-- Where a row holds whole elements, the register holds rows of them. -/
theorem places_eq {ty : BitVec 3} {s : State} (h : tySize ty ∣ s.core.vec.rowb) : places ty s = s.core.vec.rows * columns ty s :=
  Nat.mul_div_assoc _ h

/-- A place of a row lies in the register. -/
theorem place_lt {rows cols r c : Nat} (hr : r < rows) (hc : c < cols) : r * cols + c < rows * cols := by
  have h := Nat.mul_le_mul_right cols (Nat.succ_le_of_lt hr)
  rw [Nat.succ_mul] at h
  omega

theorem row_lt {rows cols k : Nat} (h : k < rows * cols) : k / cols < rows :=
  Nat.div_lt_of_lt_mul (by rwa [Nat.mul_comm])

theorem columns_pos {rows cols k : Nat} (h : k < rows * cols) : 0 < cols :=
  Nat.pos_of_mul_pos_left (Nat.zero_lt_of_lt h)

theorem getD_range_map {n k : Nat} (g : Nat → Nat) (h : k < n) : ((List.range n).map g).getD k 0 = g k := by
  simp [List.getD_eq_getElem?_getD, h]

/-! ### Selection and permutations -/

theorem positions_vsel (f : VA) : Positions (.vsel f) [f.va.toNat, f.vb.toNat] f.vd.toNat (tySize f.ty) (fun _ => True) (places f.ty)
    fun s k => some (if chosen s f.m k then elem s.core f.va.toNat (tySize f.ty) k else elem s.core f.vb.toNat (tySize f.ty) k, {}) := by
  refine positions_of_values (fun s k => some (if chosen s f.m k then elem s.core f.va.toNat (tySize f.ty) k
    else elem s.core f.vb.toNat (tySize f.ty) k)) (execVsel f) (fun _ => rfl) rfl (fun s ph => ?_) fun _ _ _ _ => rfl
  have hb := readV_run (single 0x22 ph) s [f.va.toNat] f.vb.toNat (tySize f.ty) (places f.ty s)
  simp only [stepVA_single, bind_run, get_run, count_eq_places, readV_run_first _ s, hb, List.zip_map', range_zip_map, List.map_map,
    Function.comp_def, sel_eq_chosen]
  rfl

theorem positions_vperm (f : VA) : Positions (.vperm f) [f.va.toNat, f.vb.toNat] f.vd.toNat (tySize f.ty)
    (fun s => tySize f.ty ∣ s.core.vec.rowb) (places f.ty) fun s k => if chosen s f.m k then
      some (elem s.core f.va.toNat (tySize f.ty) (k / columns f.ty s * columns f.ty s +
        elem s.core f.vb.toNat (tySize f.ty) k % columns f.ty s), {}) else none := by
  refine positions_of_values (fun s k => if chosen s f.m k then
    some (((List.range (places f.ty s)).map (elem s.core f.va.toNat (tySize f.ty))).getD
      (k / columns f.ty s * columns f.ty s + elem s.core f.vb.toNat (tySize f.ty) k % columns f.ty s) 0) else none)
    (execVperm f) (fun _ => rfl) rfl (fun s ph => ?run) fun s hz k hk => ?val
  case run =>
    have hb := readV_run (single 0x72 ph) s [f.va.toNat] f.vb.toNat (tySize f.ty) (places f.ty s)
    simp only [stepVA_single, bind_run, get_run, count_eq_places, readV_run_first _ s, hb, range_zip_map, List.map_map,
      Function.comp_def, sel_eq_chosen]
    rfl
  case val =>
    rw [places_eq hz] at hk ⊢
    rw [getD_range_map _ (place_lt (row_lt hk) (Nat.mod_lt _ (columns_pos hk)))]
    split <;> rfl

theorem positions_vtrans (f : VA) : Positions (.vtrans f) [f.va.toNat] f.vd.toNat (tySize f.ty)
    (fun s => 0 < s.core.vec.rows ∧ tySize f.ty ∣ s.core.vec.rowb) (places f.ty) fun s k =>
      some (elem s.core f.va.toNat (tySize f.ty) (k % s.core.vec.rows * columns f.ty s + k / s.core.vec.rows), {}) := by
  refine positions_of_values (fun s k => some (((List.range (places f.ty s)).map (elem s.core f.va.toNat (tySize f.ty))).getD
      (k % s.core.vec.rows * columns f.ty s + k / s.core.vec.rows) 0))
    (execVtrans f) (fun _ => rfl) rfl (fun s ph => ?run) fun s hs k hk => ?val
  case run =>
    simp only [stepVA_single, bind_run, get_run, count_eq_places, readV_run_first _ s]
    rfl
  case val =>
    obtain ⟨hrows, hz⟩ := hs
    rw [places_eq hz] at hk ⊢
    rw [getD_range_map _ (place_lt (Nat.mod_lt _ hrows) (Nat.div_lt_of_lt_mul hk))]
    rfl

/-! ### Broadcasts and gathers -/

/-- The place that a broadcast of variant v takes position k from (R256). -/
def broadcastPlace (v : BitVec 2) (cols k : Nat) : Nat := if v = 0 then k % cols else if v = 1 then k / cols * cols else 0

theorem broadcastPlace_le (v : BitVec 2) (cols k : Nat) : broadcastPlace v cols k ≤ k := by
  unfold broadcastPlace
  split_ifs
  · exact Nat.mod_le _ _
  · exact Nat.div_mul_le_self _ _
  · exact Nat.zero_le _

theorem positions_vbcast {f : VA} (hv : f.v ≠ 3) : Positions (.vbcast f) [f.va.toNat] f.vd.toNat (tySize f.ty)
    (fun s => tySize f.ty ∣ s.core.vec.rowb) (places f.ty) fun s k => if chosen s f.m k then
      some (elem s.core f.va.toNat (tySize f.ty) (if f.v = 0 then k % columns f.ty s else
        if f.v = 1 then k / columns f.ty s * columns f.ty s else 0), {}) else none := by
  refine positions_of_values (fun s k => if chosen s f.m k then
    some (((List.range (places f.ty s)).map (elem s.core f.va.toNat (tySize f.ty))).getD (broadcastPlace f.v (columns f.ty s) k) 0)
      else none) (execVbcast f) (fun _ => rfl) rfl (fun s ph => ?run) fun s _ k hk => ?val
  case run =>
    simp only [stepVA_single, bind_run, get_run, count_eq_places, readV_run_first _ s, beq_iff_eq, if_neg hv, sel_eq_chosen]
    rfl
  case val =>
    rw [getD_range_map _ ((broadcastPlace_le _ _ _).trans_lt hk)]
    split <;> rfl

theorem positions_vbcast_scalar {f : VA} (hv : f.v = 3) : Positions (.vbcast f) [] f.vd.toNat (tySize f.ty) (fun _ => True) (places f.ty)
    fun s k => if chosen s f.m k then
      some ((mget 0 s.core.vec.s (f.vb.toNat % 8)).toNat % 2 ^ (8 * tySize f.ty), {}) else none := by
  refine positions_of_values (fun s k => if chosen s f.m k then
    some ((List.replicate (places f.ty s) ((mget 0 s.core.vec.s (f.vb.toNat % 8)).toNat % 2 ^ (8 * tySize f.ty))).getD
      (broadcastPlace f.v (columns f.ty s) k) 0) else none) (execVbcast f) (fun _ => rfl) rfl (fun s ph => ?run) fun s _ k hk => ?val
  case run =>
    simp only [stepVA_single, bind_run, get_run, pure_run, count_eq_places, fromScalar, beq_iff_eq, if_pos hv, sel_eq_chosen, afterReads_nil]
    rfl
  case val =>
    rw [List.getD_replicate _ ((broadcastPlace_le _ _ _).trans_lt hk)]
    split <;> rfl

theorem take_drop_range_map {β : Type} {n i w : Nat} (g : Nat → β) (h : i + w ≤ n) :
    (((List.range n).map g).drop i).take w = (List.range w).map fun j => g (i + j) := by
  apply List.ext_getElem?
  intro j
  by_cases hj : j < w
  · simp [hj, show i + j < n by omega]
  · simp [hj]

theorem positions_vgath (f : VA) : Positions (.vgath f) [f.va.toNat, f.vb.toNat] f.vd.toNat 1 (fun s => 0 < s.core.vec.rows)
    (fun s => s.core.vec.rows * s.core.vec.rowb) fun s k => some (elem s.core f.va.toNat 1
      (elem s.core f.vb.toNat (tySize f.ty) (k / s.core.vec.rowb) % s.core.vec.rows * s.core.vec.rowb + k % s.core.vec.rowb), {}) := by
  refine positions_of_bytes (execVgath f) (fun _ => rfl) rfl fun s ph hrows => ?_
  have hrow : ∀ q, (((List.range (s.core.vec.rows * s.core.vec.rowb)).map fun k => BitVec.ofNat 8 (elem s.core f.va.toNat 1 k)).drop
      (q % s.core.vec.rows * s.core.vec.rowb)).take s.core.vec.rowb =
        (List.range s.core.vec.rowb).map fun j => BitVec.ofNat 8 (elem s.core f.va.toNat 1 (q % s.core.vec.rows * s.core.vec.rowb + j)) :=
    fun q => take_drop_range_map _ (by
      rw [← Nat.succ_mul]
      exact Nat.mul_le_mul_right _ (Nat.mod_lt _ hrows))
  have hb := readV_run (single 0x75 ph) s [f.va.toNat] f.vb.toNat (tySize f.ty) s.core.vec.rows
  simp only [stepVA_single, bind_run, get_run, readVBytes_run_first _ s, hb, hrow, List.flatMap_map,
    flatMap_range_map _ _ fun q j => BitVec.ofNat 8 (elem s.core f.va.toNat 1
      (elem s.core f.vb.toNat (tySize f.ty) q % s.core.vec.rows * s.core.vec.rowb + j))]
  rfl

/-! ### Moves -/

theorem positions_vmov {f : VA} (hv : f.v = 0) : Positions (.vmov f) [f.va.toNat] f.vd.toNat (tySize f.ty) (fun _ => True) (places f.ty)
    fun s k => if chosen s f.m k then some (elem s.core f.va.toNat (tySize f.ty) k, {}) else none := by
  have h1 : f.v ≠ 1 := by simp [hv]
  have h2 : f.v ≠ 2 := by simp [hv]
  refine positions_of_values (fun s k => if chosen s f.m k then some (elem s.core f.va.toNat (tySize f.ty) k) else none)
    (execVmov f) (fun _ => rfl) rfl (fun s ph => ?run) fun s _ k _ => ?val
  case run =>
    simp only [stepVA_single, bind_run, get_run, count_eq_places, readV_run_first _ s, beq_iff_eq, if_neg h1, if_neg h2, range_zip_map,
      List.map_map, Function.comp_def, sel_eq_chosen]
    rfl
  case val => split <;> rfl

/-- A byte of m0, which reads all ones (R221). -/
theorem allOnes_byte {k : Nat} (hk : k < 256) : BitVec.ofNat 8 ((BitVec.allOnes 2048).toNat / 256 ^ k) = 255#8 := by
  apply BitVec.eq_of_getLsbD_eq
  intro j hj
  have hbit : (BitVec.allOnes 2048).toNat.testBit (8 * k + j) = true := by
    rw [BitVec.testBit_toNat, BitVec.getLsbD_allOnes]
    exact decide_eq_true (by omega)
  rw [BitVec.getLsbD_ofNat, ← two_pow_bytes, Nat.testBit_div_two_pow, Nat.add_comm, hbit]
  interval_cases j <;> rfl

theorem positions_vmov_fromMask {f : VA} (hv : f.v = 1) : Positions (.vmov f) [] f.vd.toNat 1 (fun _ => True) (fun _ => 256)
    fun s k => some (if f.va.toNat = 0 then 255 else (mget 0 s.core.vec.m f.va.toNat).toNat / 2 ^ (8 * k), {}) := by
  refine positions_of_bytes (execVmov f) (fun _ => rfl) rfl fun s ph _ => ?_
  have hbytes : leBytes 256 (s.core.vec.mask f.va.toNat).toNat = (List.range 256).map fun k =>
      BitVec.ofNat 8 (if f.va.toNat = 0 then 255 else (mget 0 s.core.vec.m f.va.toNat).toNat / 2 ^ (8 * k)) := by
    rw [leBytes_eq_map]
    refine List.map_congr_left fun k hk => ?_
    by_cases ha : f.va.toNat = 0
    · rw [VecState.mask, ha]
      exact allOnes_byte (List.mem_range.mp hk)
    · simp [VecState.mask, ha, two_pow_bytes]
  simp only [stepVA_single, bind_run, get_run, beq_iff_eq, if_pos hv, hbytes, afterReads_nil]

/-- The state in which VMOV of a register to a mask leaves the mask. -/
def maskMoved (ph : Bool) (s : State) (f : VA) : State :=
  let t := afterReads ph s [f.va.toNat]
  let bs := (List.range 256).map fun k => BitVec.ofNat 8 (elem s.core f.va.toNat 1 k)
  { t with core := { t.core with vec := { s.core.vec with
      m := mset 0 s.core.vec.m f.vd.toNat (BitVec.ofNat 2048 (leNat bs)) } } }

theorem vmov_toMask {f : VA} (hv : f.v = 2) (hd : f.vd ≠ 0) (s : State) (hready : VectorReady (.vmov f) [f.va.toNat] [] s) :
    ∃ t, VectorDone (.vmov f) s t ∧ t.core.win = s.core.win ∧ t.core.vec = { s.core.vec with m := t.core.vec.m } ∧
      (∀ k, k < 2048 → bit (mget 0 t.core.vec.m f.vd.toNat) k = (elem s.core f.va.toNat 1 (k / 8)).testBit (k % 8)) ∧
      ∀ j, j ≠ f.vd.toNat → mget 0 t.core.vec.m j = mget 0 s.core.vec.m j := by
  have h1 : f.v ≠ 1 := by simp [hv]
  have hdone := vectorDone_of_run (t := maskMoved (inPhase s (headOr s .vector (.vmov f))) s f)
    (show exec (.vmov f) s = execVmov f s from rfl) hready.1 ?run (fun h => by simp [maskMoved, afterReads, Bool.eq_false_iff.mpr h]) rfl
  case run =>
    simp only [stepVA_single, bind_run, get_run, readVBytes_run_first _ s, beq_iff_eq, if_neg h1, if_pos hv, if_neg hd, modVec, modCore_run]
    rfl
  refine ⟨_, hdone, rfl, rfl, fun k hk => ?_, fun j hj => mget_mset_other _ _ _ hj⟩
  have hmask : mget 0 (maskMoved (inPhase s (headOr s .vector (.vmov f))) s f).core.vec.m f.vd.toNat =
      BitVec.ofNat 2048 (leNat ((List.range 256).map fun k => BitVec.ofNat 8 (elem s.core f.va.toNat 1 k))) := mget_mset_same _ _ _ _
  refine (congrArg (bit · k) hmask).trans ?_
  rw [bit, BitVec.getLsbD_ofNat, testBit_leNat_bytes _ _ (by omega), decide_eq_true hk, Bool.true_and]

/-! ### The statement -/

/-- A shift by the low bits of B gives no flag (Table 11.4). -/
theorem vShift_eq {op : Nat → Nat → Nat → Nat} {f : VA} {x y r : Nat} (d : Nat) (h : op (8 * tySize f.ty) x (y % (8 * tySize f.ty)) = r) :
    vShift op f x y d = (r, {}) := by
  rw [vShift, h]

/-- VSEL under m0 (R239). -/
theorem illegalField_vsel {f : VA} (hm : f.m = 0) : IllegalField .vector (.vsel f) := by
  have hbad : (f.m != 0 && !f.sat && (!isI f.ty || f.v == 0)) = false := by simp [hm]
  exact illegalField_putVA .vsel rfl rfl rfl hbad

/-- Settles O16: the logic and the shifts through the element-wise frame of R236, the others by the places that they read. -/
theorem vectorLogicAndMoveResults : Obligations.VectorLogicAndMoveResults := by
  intro f
  refine ⟨?vand, ?vor, ?vxor, ?vshl, ?vshr, ?vsar, positions_vsel f, illegalField_vsel, positions_vperm f, positions_vtrans f,
    positions_vbcast, positions_vbcast_scalar, positions_vgath f, positions_vmov, positions_vmov_fromMask, vmov_toMask⟩
  case vand => exact elementwise_ok (useD := false) (execVand f) (fun _ => rfl) rfl fun _ _ _ _ => rfl
  case vor => exact elementwise_ok (useD := false) (execVor f) (fun _ => rfl) rfl fun _ _ _ _ => rfl
  case vxor => exact elementwise_ok (useD := false) (execVxor f) (fun _ => rfl) rfl fun _ _ _ _ => rfl
  case vshl => exact elementwise_ok (useD := false) (execVshl f) (fun _ => rfl) rfl fun x _ d _ => vShift_eq d (shiftLeft_eq _ x _)
  case vshr => exact elementwise_ok (useD := false) (execVshr f) (fun _ => rfl) rfl fun _ _ d hx => vShift_eq d (shiftRight_eq _ hx)
  case vsar => exact elementwise_ok (useD := false) (execVsar f) (fun _ => rfl) rfl fun x _ d _ => vShift_eq d (sshiftRight_eq _ x _)

end Sys2Proof.VectorLanes
end

section
/-! SUPPORT. Updates of several queues of a core, and the wait of the MFENCE join (R339). -/

namespace Sys2Proof.FencesAndFlags
open Sys2Proof Sys2Proof.Machine Sys2Proof.Claims Sys2Proof.Laws

theorem queue_with_sh_ended (c : Core) (h : Shuttle) (e : Ended) (q : Queue) : Core.queue { c with sh := h, ended := e } q = c.queue q := by
  cases q <;> rfl

/-- One update applied to each queue of a list reaches those queues once, and no other. -/
theorem queue_foldl_setQueue (g : EngQueue → EngQueue) {l : List Queue} (hl : l.Nodup) (c : Core) (r : Queue) :
    (l.foldl (fun c q => c.setQueue q (g (c.queue q))) c).queue r = if r ∈ l then g (c.queue r) else c.queue r := by
  induction l generalizing c with
  | nil => rfl
  | cons q l ih =>
    obtain ⟨hq, hl⟩ := List.nodup_cons.mp hl
    rw [List.foldl_cons, ih hl]
    by_cases h : r = q
    · subst h
      simp [hq]
    · simp [h, c.queue_setQueue_other _ h]

theorem sh_foldl_setQueue (g : EngQueue → EngQueue) (l : List Queue) (c : Core) :
    (l.foldl (fun c q => c.setQueue q (g (c.queue q))) c).sh = c.sh := by
  induction l generalizing c with
  | nil => rfl
  | cons q l ih => rw [List.foldl_cons, ih, Core.setQueue_sh]

theorem maskQueues_nodup (m : BitVec 5) : (maskQueues m).Nodup := List.Nodup.filter _ (by decide)

/-- With no command still to complete, the entry that a queue has reached is its head (R148). -/
theorem reached_of_head {v : EngQueue} {e : Entry} (he : v.ending = []) (hh : v.entries.head? = some e) : v.reached = some e := by
  simp [EngQueue.reached, he, hh]

theorem sdlOf_eq_nil {c : Core} {e : Nat} : sdlOf c e = [] ↔ c.sdl.all (fun x => x.engine != e) = true := by
  simp [sdlOf, List.filter_eq_nil_iff]

/-- What the join slot waits for, queue by queue. -/
theorem fenceMet_waiting {c : Core} {m : BitVec 5} : fenceMet c (.waiting m) = true ↔
    ∀ q ∈ maskQueues m, (c.queue q).reached = some .fence ∧ (q = .matrix → c.mat.nest = none) ∧
      sdlOf c (if q == .ferryLoad then 5 else engineOf q) = [] := by
  simp only [fenceMet, List.all_eq_true, Bool.and_eq_true, beq_iff_eq, Bool.or_eq_true, bne_iff_ne, ne_eq, Option.isNone_iff_eq_none,
    and_assoc, ← imp_iff_not_or]

/-- With no MFENCE set aside by a handler entry, the join is that of the Shuttle's own MFENCE. -/
theorem fenceReady_of_not_saved {c : Core} (h : ∀ k, c.sh.savedFence ≠ .waiting k) : fenceReady c = fenceMet c c.sh.fence := by
  unfold fenceReady
  split
  · next k hk => exact absurd hk (h k)
  · rfl

theorem fenceJoin_of_not_saved {c : Core} (h : ∀ k, c.sh.savedFence ≠ .waiting k) : fenceJoin c =
    { dropFences c.sh.fence c with sh := { (dropFences c.sh.fence c).sh with fence := .joined } } := by
  unfold fenceJoin
  split
  · next k hk => exact absurd hk (h k)
  · rfl

end Sys2Proof.FencesAndFlags
end

section
/-! PROOFS. MFENCE and its join, and the flag instructions (R339, R341, R342). -/

namespace Sys2Proof.FencesAndFlags
open Sys2Proof Sys2Proof.Machine Sys2Proof.Claims Sys2Proof.Laws Sys2Proof.ShuttleLanes

/-! ### MFENCE -/

theorem exec_mfence_joined {f : SI} {s : State} (ho : s.core.ph.openId = none) (hf : s.core.sh.fence = .joined) :
    exec (.mfence f) s = .next (onlySh s { s.core.sh with fence := .none }) :=
  runM_sh (by simp [ho, hf])

/-- The core once an MFENCE has pushed its markers: the join slot waits for them. -/
def fencesPushed (m : BitVec 5) (c : Core) : Core :=
  let k := (maskQueues m).foldl (fun c q => Core.push c q .fence) c
  { k with sh := { k.sh with fence := .waiting m } }

theorem fencesPushed_sh (m : BitVec 5) (c : Core) : (fencesPushed m c).sh = { c.sh with fence := .waiting m } :=
  congrArg (fun h : Shuttle => { h with fence := .waiting m }) (sh_foldl_setQueue (pushed · .fence) (maskQueues m) c)

theorem fencesPushed_queue (m : BitVec 5) (c : Core) (q : Queue) :
    (fencesPushed m c).queue q = if q ∈ maskQueues m then pushed (c.queue q) .fence else c.queue q :=
  (queue_with_sh_ended ((maskQueues m).foldl (fun c q => Core.push c q .fence) c) _ _ q).trans
    (queue_foldl_setQueue (pushed · .fence) (maskQueues_nodup m) c q)

/-- The push is kept while the lane waits for the join. -/
theorem exec_mfence_pushes {f : SI} {s : State} (ho : s.core.ph.openId = none) (hf : s.core.sh.fence = .none)
    (hr : ∀ q ∈ maskQueues (f.imm.setWidth 5), (s.core.queue q).used < depthOf q) :
    exec (.mfence f) s = .next { s with core := { fencesPushed (f.imm.setWidth 5) s.core with ended := .stalled .join } } := by
  have hroom : ∀ q ∈ maskQueues (f.imm.setWidth 5), EngQueue.room (s.core.queue q) q = true := fun q hq => decide_eq_true (hr q hq)
  exact runM_error (e := .wait .join true) (t := { s with core := fencesPushed (f.imm.setWidth 5) s.core })
    (by simpa [ho, hf, fencesPushed] using hroom)

/-! ### The join -/

theorem dropFences_sh (m : BitVec 5) (c : Core) : (dropFences (.waiting m) c).sh = c.sh :=
  sh_foldl_setQueue (fun v => { v with entries := v.entries.tail }) (maskQueues m) c

theorem dropFences_queue (m : BitVec 5) (c : Core) (q : Queue) : (dropFences (.waiting m) c).queue q =
    if q ∈ maskQueues m then { c.queue q with entries := (c.queue q).entries.tail } else c.queue q :=
  queue_foldl_setQueue (fun v => { v with entries := v.entries.tail }) (maskQueues_nodup m) c q

theorem exec_mfenceJoin {s : State} {m : BitVec 5} (hc : s.input.core = s.cur) (hf : s.core.sh.fence = .waiting m)
    (hs : ∀ k, s.core.sh.savedFence ≠ .waiting k) (hm : fenceMet s.core (.waiting m) = true) :
    exec .mfenceJoin s = .next { s with core := { dropFences (.waiting m) s.core with
      sh := { s.core.sh with fence := .joined }, ended := .done } } := by
  have hready : fenceReady s.core = true := by rw [fenceReady_of_not_saved hs, hf, hm]
  have hjoin : fenceJoin s.core = { dropFences (.waiting m) s.core with sh := { s.core.sh with fence := .joined } } := by
    rw [fenceJoin_of_not_saved hs, hf, dropFences_sh]
  show runM _ (switchTo s s.input.core) = _
  rw [hc, switchTo_cur]
  exact runM_ok (t := { s with core := { dropFences (.waiting m) s.core with sh := { s.core.sh with fence := .joined } } })
    (by simp [hready, hjoin])

theorem fenceResults : FenceResults := by
  refine ⟨fun f s ho => ⟨exec_mfence_joined ho, fun hf hr => ?push⟩, fun s m hc hf hs hq => ?join⟩
  case push =>
    exact ⟨_, exec_mfence_pushes ho hf hr, rfl, fencesPushed_sh _ _, fun q =>
      (queue_with_sh_ended (fencesPushed _ s.core) _ _ q).trans (fencesPushed_queue _ _ q)⟩
  case join =>
    have hmet : fenceMet s.core (.waiting m) = true := fenceMet_waiting.mpr fun q hm => by
      obtain ⟨hend, hhead, hnest, hlog⟩ := hq q hm
      exact ⟨reached_of_head hend hhead, hnest, sdlOf_eq_nil.mpr hlog⟩
    exact ⟨_, exec_mfenceJoin hc hf hs hmet, rfl, rfl, fun q =>
      (queue_with_sh_ended (dropFences _ s.core) _ _ q).trans (dropFences_queue _ _ q)⟩

/-! ### Flags -/

/-- The core of the flag once FLAGW, or with `add` FLAGADD, has written it (R341). -/
def flagWritten (add : Bool) (k : Nat) (v : BitVec 32) (c : Core) : Core :=
  { c with flags := mset 0 c.flags k (if add then mget 0 c.flags k + v else v) }

/-- The flags that an instruction can name, f8 to f31, take the value (Table 7.2). -/
theorem flagVal_or_flagAdd {k : Nat} (h8 : 8 ≤ k) (h31 : k ≤ 31) (add : Bool) (c : Core) (v : BitVec 32) :
    (if add then c.flagAdd k v else c.flagVal k v) = flagWritten add k v c := by
  have h : 8 ≤ k ∧ k < 32 := ⟨h8, by omega⟩
  cases add <;> simp only [Core.flagAdd, Core.flagVal, if_pos h] <;> rfl

/-- A word of the control page (Table 7.1). -/
theorem nearWrite_controlPage {o : Nat} (ho : o < 0x2000) (c : Core) (bs : List Byte) (mk : Marks) (ch : Option Nat) :
    c.nearWrite (0x90000 + o) bs mk ch = c.controlWrite o (BitVec.ofNat 64 (leNat (bs.take 8))) := by
  rw [Core.nearWrite, if_neg (by omega), if_neg (by omega), if_neg (by omega), if_neg (by omega), if_pos (by omega), Nat.add_sub_cancel_left]

theorem controlWrite_flagVal {k : Nat} (hk : k ≤ 31) (c : Core) (v : Word) :
    c.controlWrite (0xC00 + 8 * k) v = c.flagVal k (v.setWidth 32) := by
  simp (disch := omega) [Core.controlWrite, if_neg, if_pos]

theorem controlWrite_flagAdd {k : Nat} (hk : k ≤ 31) (c : Core) (v : Word) :
    c.controlWrite (0xD00 + 8 * k) v = c.flagAdd k (v.setWidth 32) := by
  simp (disch := omega) [Core.controlWrite, if_neg, if_pos]

/-- FLAG_VAL or FLAG_ADD of a flag in a window takes the value written, whose upper half is zero (Table 7.2). -/
theorem nearWrite_flagOffset {k : Nat} (hk : k ≤ 31) (add : Bool) (c : Core) (v : BitVec 32) :
    c.nearWrite (flagOffset add k) (leBytes 8 v.toNat) {} none = if add then c.flagAdd k v else c.flagVal k v := by
  have hv : (BitVec.ofNat 64 (leNat ((leBytes 8 v.toNat).take 8))).setWidth 32 = v := by
    rw [List.take_of_length_le (by simp), leNat_leBytes]
    apply BitVec.eq_of_toNat_eq
    simp
    omega
  cases add with
  | false =>
    rw [show flagOffset false k = 0x90000 + (0xC00 + 8 * k) by simp [flagOffset]; omega, nearWrite_controlPage (by omega),
      controlWrite_flagVal hk, hv]
    rfl
  | true =>
    rw [show flagOffset true k = 0x90000 + (0xD00 + 8 * k) by simp [flagOffset]; omega, nearWrite_controlPage (by omega),
      controlWrite_flagAdd hk, hv]
    rfl

theorem nearWriteAt_flagOffset {k : Nat} (h8 : 8 ≤ k) (h31 : k ≤ 31) (add : Bool) (n : Nat) (v : BitVec 32) (s : State) :
    nearWriteAt n (flagOffset add k) (leBytes 8 v.toNat) {} none s = withCore s n (flagWritten add k v (coreOf s n)) := by
  rw [nearWriteAt, nearWrite_flagOffset h31, flagVal_or_flagAdd h8 h31]

/-- A flag of this core is written in place. -/
theorem runM_flagLane_own {f : SA} {s : State} {h1 h2 : Shuttle} {w v : Word} (add : Bool) (ha : Reads f.a s.core.sh h1 w)
    (hb : Reads f.b h1 h2 v) (h8 : 8 ≤ f.d.toNat) (h31 : f.d.toNat ≤ 31) (h0 : f.a = 0) :
    runM (flagLane f add) s = .next (onlySh { s with core := flagWritten add f.d.toNat (v.setWidth 32) s.core } h2) :=
  runM_ok (t := { s with core := flagWritten add f.d.toNat (v.setWidth 32) { s.core with sh := h2 } })
    (by simp [flagLane, ab_reads ha hb, h0, flagVal_or_flagAdd h8 h31])

/-- A flag behind a window address is written on the core of that window (R341). -/
theorem flagLane_window {f : SA} {s s1 : State} {h1 h2 : Shuttle} {w v : Word} (add : Bool) (ha : Reads f.a s.core.sh h1 w)
    (hb : Reads f.b h1 h2 v) (h8 : 8 ≤ f.d.toNat) (h31 : f.d.toNat ≤ 31) (h0 : f.a ≠ 0) (hw : w.toNat % 2 ^ 20 = 0)
    (hs1 : s1 = { s with core := { s.core with sh := h2 } }) (hn : NearOk s1 w) :
    flagLane f add s = .ok () (withCore s1 (w.toNat / 2 ^ 20)
      (flagWritten add f.d.toNat (v.setWidth 32) (coreOf s1 (w.toNat / 2 ^ 20)))) := by
  have hlow : bits w 19 0 = 0 := (bits_low w 19).trans hw
  rw [flagLane, bind_ok (ab_reads ha hb), ← hs1, ← nearWriteAt_flagOffset h8 h31]
  simp only [beq_eq_false_iff_ne.mpr h0, hlow, near63 hn, checkNear_ok hn, bne_self_eq_false, Bool.false_eq_true, if_false, bind_run, modify_run]

theorem exec_flagr {f : SI} {s : State} (hd : Free f.d s.core.sh) :
    exec (.flagr f) s = .next (onlySh s (put s.core.sh f.d ((mget 0 s.core.flags (f.imm.toNat % 32)).setWidth 64))) :=
  runM_sh (by simp [awaitDest_free hd, bits_low, Core.flag, put_eq])

theorem fieldsOk_flagr_eq_false {f : SI} (hf : f.a ≠ 0 ∨ 32 ≤ f.imm.toNat ∨ f.lit ≠ .none) : (Instr.flagr f).fieldsOk = false := by
  rw [show (Instr.flagr f).fieldsOk = (xDst f.d && f.a == 0 && f.lit.isNone && bits f.imm 11 5 == 0) from rfl]
  rcases hf with ha | himm | hlit
  · simp [show ¬ f.a = 0#6 from ha]
  · have hhigh : bits f.imm 11 5 ≠ 0 := by
      rw [bits]
      omega
    simp [hhigh]
  · have hnone : f.lit.isNone = false := by
      cases h : f.lit with
      | none => exact absurd h hlit
      | one l => rfl
      | two v => rfl
    simp [hnone]

theorem flagResults : FlagResults := by
  refine ⟨fun f s s1 h1 h2 w v ha hb h8 h31 hs1 => ⟨fun h0 => ?own, fun h0 hw hn => ?window⟩, fun f s => exec_flagr,
    fun f hf => illegalField_putSI .flagr rfl rfl rfl rfl (fieldsOk_flagr_eq_false hf)⟩
  case own => exact ⟨runM_flagLane_own false ha hb h8 h31 h0, runM_flagLane_own true ha hb h8 h31 h0⟩
  case window =>
    exact ⟨runM_ok (flagLane_window false ha hb h8 h31 h0 hw hs1 hn), runM_ok (flagLane_window true ha hb h8 h31 h0 hw hs1 hn)⟩

/-- Settles O11: an MFENCE and its join through one lemma about an update of several queues; the flag instructions through what
`flagLane` does in its two forms, own and window. -/
theorem fencesAndFlags : Obligations.FencesAndFlags := ⟨fenceResults, flagResults⟩

end Sys2Proof.FencesAndFlags
end
